-- ==== Sys2Proof/Word.lean ====
section
/-! DEFINITION. The word types of the tray and the sparse tables that State is built of. -/
namespace Sys2Proof

/-- One byte. -/
abbrev Byte := BitVec 8
/-- A 16-bit field. -/
abbrev Word16 := BitVec 16
/-- A 32-bit register or field. -/
abbrev Word32 := BitVec 32
/-- A 64-bit register or field. -/
abbrev Word64 := BitVec 64
/-- A run of bytes, lowest address first. -/
abbrev Bytes := List Byte

/-- A sparse table: keys strictly rising, and no entry equal to the value that an unlisted key reads as. -/
abbrev Tab (α : Type) := List (Nat × α)

/-- Byte-addressed memory: a sparse table whose unlisted bytes read as zero. -/
abbrev Mem := List Host.Cell

end Sys2Proof
end

