-- ==== Sys2Proof/Syntax.lean ====
section
/-! DEFINITION. The commands: one constructor per row of spec/opcode_table.json, with the operands a row needs. -/
namespace Sys2Proof

/-- The outcome of one attempt to read an identity memory (02 R49). -/
inductive IdAttempt where
  | noAnswer | badChecksum | ok
  deriving DecidableEq, Repr

/-- The attempts at one identity memory, first to last, and what the memory holds when it reads (02 R45, R49). -/
structure IdRead where
  attempts   : List IdAttempt
  /-- The part is on the compatibility list (chip memories). -/
  compatible : Bool
  /-- The per-chip e-fuse limits in A, positions 0 to 7 (tray board memory, 14 R374). -/
  limits     : List Nat
  /-- The stepping (chip memories, 15 R400). -/
  stepping   : Byte
  /-- The FRU records (15 R400). -/
  fru        : Bytes
  deriving DecidableEq, Repr

/-- The attempts at page 0x00 of an optical module, the power that the module asks for in tenths of a watt, and what its lower
memory and pages hold, by page (02 R49, 11 R300, 17 R422). -/
structure ModuleRead where
  attempts : List IdAttempt
  power    : Nat
  lower    : Bytes
  pages    : List (Byte × Bytes)
  deriving DecidableEq, Repr

/-- The identity memories the Ndevas reads at start (02 R49): board, chips 0 to 7, host cables 0 to 7, modules. -/
structure IdReads where
  variantU : Bool
  board    : IdRead
  chips    : List IdRead
  cables   : List IdRead
  modules  : List ModuleRead
  deriving DecidableEq, Repr

/-- What an unmasking write clears (03 R71). -/
inductive Unmask where
  | vector (v : Fin 2048) | functionMask
  deriving DecidableEq, Repr

/-- The host read that meets no completion (16 R410). -/
inductive HostRead where
  | submission (q : Fin 64)
  | argument (id : Nat)
  | planTokens (id : Nat) (entry : Nat)
  | modelSource (id seg off : Nat)
  | copySource (f : Fin 16) (off : Nat)
  | consumer
  deriving DecidableEq, Repr

/-- How a source read of a load, a swap or a copy fails (08 R207, 09 R227). -/
inductive SrcErr where
  | sramUe | hbmUe | poisoned | hostRead
  deriving DecidableEq, Repr

/-- The contents of one segment as its source gives them: the bytes, and the first failing offset if any (09 R227). -/
structure SegData where
  bytes : Bytes
  err   : Option (SrcErr × Nat)
  deriving DecidableEq, Repr

/-- One ranked candidate: a token ID and its FP32 logit (04 R119). -/
structure Cand where
  token : Word32
  logit : Word32
  deriving DecidableEq, Repr

/-- What a step has staged for one plan entry at its commit point (04 R117, R119, R125). -/
structure Staged where
  /-- Candidates per output position, the position after the first fed token first. -/
  cands       : List (List Cand)
  /-- The logit of each draft token at its position. -/
  draftLogits : List Word32
  deriving DecidableEq, Repr

/-- How a running step meets an error (16 R404 to R406, 12 R316, 15 R385). -/
inductive StepErr where
  | data (status : Word16) (entry layer index source : Word16) (addr : Word64)
  | status (code : Word16)
  deriving DecidableEq, Repr

/-- Frozen cycles that a descriptor met, by cause, and how many were frozen in all (05 R146, R147). -/
structure Freezes where
  total : Nat
  feed0 : Nat
  feed1 : Nat
  wload : Nat
  drain : Nat
  /-- Idle cycles before the descriptor's first K-step, and those of them in which the Comb held it in its buffer. -/
  idle  : Nat
  held  : Nat
  deriving DecidableEq, Repr

/-- Array cycles that the head of a die's work queue waited on its token: those in which no Comb of the die advanced, those in
which no Comb of its Super on the die advanced, and all of them (12 R309, 13 R331). -/
structure TokenWait where
  die     : Nat
  barrier : Nat
  head    : Nat
  deriving DecidableEq, Repr

/-- A granule of memory that patrol scrubbing or a write-back names (08 R211, R215). -/
inductive Where where
  | sram (die : Fin 4) (off : Nat)
  | hbm (addr : Nat)
  | system (stack : Fin 8) (off : Nat)
  deriving DecidableEq, Repr

/-- The meters of one sample in mW: INPUT, DIE0 to DIE3, IOD, HBM (12 R301). -/
structure Meters where
  input : Nat
  dies  : List Nat
  iod   : Nat
  hbm   : Nat
  deriving DecidableEq, Repr

/-- Which way a command rounds a result that is no whole number of its unit; the spec does not say (log entry 108). -/
inductive Rounding where
  | down | up
  deriving DecidableEq, Repr

/-- Why a Gust window ends (12 R311). -/
inductive GustEnd where
  | tenMs | belowAllotment | lull | throttle | noHeadroom
  deriving DecidableEq, Repr

/-- One 1 kHz sample of an e-fuse: current in mA and voltage in mV (14 R374). -/
structure FuseSample where
  ma : Nat
  mv : Nat
  deriving DecidableEq, Repr

/-- One 1 kHz sample of an output: terminal voltage in mV, load current in mA, and whether it is in current limit (14 R371). -/
structure OutSample where
  mv : Nat
  ma : Nat
  inLimit : Bool
  deriving DecidableEq, Repr

/-- One write of a PATCH on the Ndevas shadow set (15 R388). FP32 values are carried as bits. -/
inductive Patch where
  | aiRole (k : Fin 16) (role : Byte)
  | aiSpan (k : Fin 16) (lo hi : Word32)
  | aiVtMin (k : Fin 16) (mv : Nat)
  | aiRWire (k : Fin 16) (ohm : Nat)
  | aiLimits (k : Fin 16) (lo hi : Word32)
  | aiMode (k : Fin 16) (watch : Bool)
  | lkType (k : Fin 8) (type : Byte)
  | lkRole (k : Fin 8) (role : Byte)
  | lkMode (k : Fin 8) (watch : Bool)
  | outRole (k : Fin 4) (role : Byte)
  | outPowerUp (k : Fin 4) (on : Bool)
  | fuseLimit (n : Fin 8) (amps : Nat)
  | trayCap (watts : Nat)
  deriving DecidableEq, Repr

/-- A PATCH of the Ndevas shadow set: its writes, and the ETag of its If-Match where it has one (15 R388, R395). -/
structure PatchReq where
  writes  : List Patch
  ifMatch : Option Word32
  deriving DecidableEq, Repr

/-- A copy descriptor that the Steward has built; one that carries partial sums names a group and a rank (01 stage 5, 11 R290). -/
structure BuiltCopy where
  desc : Bytes
  rank : Option (Fin 64 × Fin 64)
  deriving DecidableEq, Repr

/-- The resources of the Redfish table that a GET names (15 R395). -/
inductive Resource where
  | serviceRoot | tray | sensorAi (k : Fin 16) | sensorLk (k : Fin 8) | sensorDo (k : Fin 4) | sensorEf (n : Fin 8) | sensorFs
  | powerSubsystem | chip (n : Fin 8) | cable (n : Fin 8) | assembly | manager | eventLog | updateService
  | configActive | configShadow | module (n : Nat)
  deriving DecidableEq, Repr

/-- The role of the account behind a Redfish request (15 R395, R396). -/
inductive Role where
  | administrator | operator | readOnly
  deriving DecidableEq, Repr

/-- A Redfish request that has no row of its own (15 R395). `setClock` writes the Manager's DateTime, in ms since 1970. -/
inductive RedfishReq where
  | get (r : Resource)
  | subscribe (id : Nat)
  | unsubscribe (id : Nat)
  | setClock (ms : Nat) (role : Role)
  | unsupported
  deriving DecidableEq, Repr

/-- The image an UpdateService push or PLDM firmware update carries (15 R396). -/
inductive ImageKind where
  | ndevas | steward
  deriving DecidableEq, Repr

/-- A PLDM request on a sideband segment (15 R398). -/
inductive PldmReq where
  | sensorReading (sensor : Nat) | getPdr | fruData | firmwareUpdate (kind : ImageKind) (image : Nat) | unsupported
  deriving DecidableEq, Repr

/-- A PCIe configuration request (02 R47, 03 R63, R71). -/
inductive CfgReq where
  | read (off : Nat)
  | write (off : Nat) (v : Word32)
  | msixControl (enable functionMask : Bool)
  /-- The ASPM L1 enable of the link control register. -/
  | aspmControl (l1 : Bool)
  deriving DecidableEq, Repr

/-- A fatal host-link error (16 R410). -/
inductive LinkFatal where
  | dlProtocol | surpriseDown | flowControl
  deriving DecidableEq, Repr

/-- Why the Ndevas restarts (15 R394, NDEVAS_START). -/
inductive RestartCause where
  | watchdog | firmwareUpdate
  deriving DecidableEq, Repr

/-- The commands. `c` is a chip by tray position, `id` a fetched command of that chip, `p` a port, `k` a Comb or channel. -/
inductive Instr where
  /-- STANDBY_RAIL_GOOD (R44). The tray standby rail comes within regulation and the Ndevas leaves reset and boots from its
  flash. -/
  | standbyRailGood
  /-- NDEVAS_FIRMWARE_RUNNING (R44). Ndevas firmware starts running and opens the management port and Redfish listener. -/
  | ndevasFirmwareRunning (ids : IdReads)
  /-- COOLANT_CHECK_SCAN (R45). An 80 ms coolant-check scan completes and the Ndevas judges whether rail sequences may start. -/
  | coolantCheckScan
  /-- RAIL_SEQUENCE_START (R46). At its staggered time the Ndevas enables a chip's rails in order: always-on, I/O die, HBM, then
  the compute dies. -/
  | railSequenceStart (c : Fin 8)
  /-- POWER_GOOD (R46). All rails of a chip are within regulation; the Ndevas asserts PWRGD and the Steward boot ROM starts. -/
  | powerGood (c : Fin 8)
  /-- RAIL_FAULT (R46). A rail misses its regulation limit; the Ndevas takes the chip's rails down in reverse order, leaves it
  Off and logs the rail. -/
  | railFault (c : Fin 8) (rail : Fin 4)
  /-- PERST_DEASSERT (R47). The host deasserts PERST#; the chip honours it no earlier than 100 ms after power good and starts
  link training. -/
  | perstDeassert (c : Fin 8)
  /-- PERST_ASSERT (R59). The host asserts PERST#; the chip clears READY and holds a fundamental reset until deassertion. -/
  | perstAssert (c : Fin 8)
  /-- PCIE_LINK_L0 (R47). The chip's PCIe link reaches L0. -/
  | pcieLinkL0 (c : Fin 8)
  /-- FIRMWARE_LOAD_COMPLETE (R44). Steward firmware is loaded from boot SPI and runs; Hivelink training begins and the chip's
  PLDM endpoint answers. -/
  | firmwareLoadComplete (c : Fin 8) (version build : Word32) (ifMinor : Byte)
  /-- FIRMWARE_LOAD_FAIL (R59). The firmware image fails to load; FW_FAILED is set and the boot ROM answers configuration
  requests itself. -/
  | firmwareLoadFail (c : Fin 8)
  /-- HBM_TRAINING_COMPLETE (R48). Every HBM stack completes training and zeroing of HBM and the Comb store starts. -/
  | hbmTrainingComplete (c : Fin 8)
  /-- ZEROING_COMPLETE (R48). The Comb store and all HBM have been zeroed. -/
  | zeroingComplete (c : Fin 8)
  /-- FLR (R53). A PCIe Function Level Reset starts a reset that clears the items R54 gives for FLR. -/
  | flr (c : Fin 8)
  /-- STEWARD_WATCHDOG_EXPIRY (R53). The Steward fails to service its hardware watchdog for 100 ms and a watchdog reset starts. -/
  | stewardWatchdogExpiry (c : Fin 8) (code : Option Word16)
  /-- NDEVAS_CHIP_RESET (R59). The Ndevas asserts a chip's reset line, starting a fundamental reset. -/
  | ndevasChipReset (c : Fin 8)
  /-- RESET_COMPLETE (R59). A reset completes, READY is set and the chip enters Idle. -/
  | resetComplete (c : Fin 8)
  /-- NDEVAS_RESTART (R56). The Ndevas restarts without disturbing running chips, whose rail and e-fuse states are held in
  latches. -/
  | ndevasRestart (cause : RestartCause)
  /-- STANDBY_POWER_LOSS (R59). Standby power is lost; every chip and the Ndevas go Off. -/
  | standbyPowerLoss
  /-- IDLE_TIMEOUT (R59). Every work queue of an Active chip has been empty for 50 µs; array clocks are gated and the chip goes
  Idle. -/
  | idleTimeout (c : Fin 8)
  /-- DORMANT_DELAY_EXPIRY (R59). The POWER_POLICY Dormant delay elapses in Idle and Dormant entry starts, with DRIZZLE_REQ sent
  on every UP port. -/
  | dormantDelayExpiry (c : Fin 8)
  /-- DORMANT_ENTRY_COMPLETE (R59). Dormant entry completes and the chip is Dormant. -/
  | dormantEntryComplete (c : Fin 8)
  /-- WAKE_COMPLETE (R59). The exit from Dormant completes and the chip is Active. -/
  | wakeComplete (c : Fin 8)
  /-- SQ_TAIL_DOORBELL_WRITE (R70). A write to a queue pair's SQ_TAIL doorbell tells the Steward that new submission entries are
  ready to fetch. -/
  | sqTailDoorbellWrite (c : Fin 8) (q : Fin 64) (v : Word32) (opcodes : List Byte)
  /-- CQ_HEAD_DOORBELL_WRITE (R68). A write to a queue pair's CQ_HEAD doorbell releases completion entries. -/
  | cqHeadDoorbellWrite (c : Fin 8) (q : Fin 64) (v : Word32)
  /-- QP0_CONTROL_WRITE (R66). A write to QP0_CONTROL may start an enabling or a disabling of queue pair 0 and may clear
  SETUP_ERROR. -/
  | qp0ControlWrite (c : Fin 8) (v : Word32)
  /-- QP0_ENABLING_COMPLETE (R66). An enabling of queue pair 0 ends: ENABLED is set with empty queues, or SETUP_ERROR is set. -/
  | qp0EnablingComplete (c : Fin 8)
  /-- QP0_DISABLING_COMPLETE (R66). Completions of the fetched commands have been posted and ENABLED is cleared. -/
  | qp0DisablingComplete (c : Fin 8)
  /-- EARLY_DOORBELLS_READ (R52). A read of EARLY_DOORBELLS returns the count and clears it. -/
  | earlyDoorbellsRead (c : Fin 8)
  /-- BAD_DOORBELLS_READ (R65). A read of BAD_DOORBELLS returns the count and clears it. -/
  | badDoorbellsRead (c : Fin 8)
  /-- REGISTER_WRITE (R13). A write to a BAR0 register with no row of its own stores or ignores the value as its access code
  gives. -/
  | registerWrite (c : Fin 8) (off : BitVec 18) (v : Word32)
  /-- BAR0_NONALIGNED_ACCESS (R64). A BAR0 access other than an aligned 32-bit one completes normally, with its write data
  ignored or zero returned. -/
  | bar0NonalignedAccess (c : Fin 8) (write : Bool) (off : BitVec 18) (len : Nat)
  /-- BAR2_READ (R214). A peer read of BAR2 is served from the mapped general area, or answered poisoned, or refused when it
  lies outside a window. -/
  | bar2Read (c : Fin 8) (off : BitVec 34) (len : Nat)
  /-- BAR2_WRITE (R201). A peer write to BAR2 updates the mapped general area granule by granule, or is discarded when it lies
  outside a window. -/
  | bar2Write (c : Fin 8) (off : BitVec 34) (data : Bytes)
  /-- MSIX_VECTOR_UNMASK (R71). Unmasking a vector, or clearing Function Mask, sends the message of a pending vector. -/
  | msixVectorUnmask (c : Fin 8) (what : Unmask)
  /-- IRQ_TIME_EXPIRY (R74). The IRQ_TIME delay from the first unsignalled completion elapses and the gathered message is sent. -/
  | irqTimeExpiry (c : Fin 8) (q : Fin 64)
  /-- SUBMISSION_FETCH (R70). The host's completion of a submission-entry read arrives and the Steward checks the entry's header. -/
  | submissionFetch (c : Fin 8) (q : Fin 64) (entry : Bytes)
  /-- SUBMISSION_READ_ERROR (R78). The read of a submission entry fails; the fetch position advances and status 0x0403 with TAG
  0xFFFF is posted. -/
  | submissionReadError (c : Fin 8) (q : Fin 64)
  /-- ARGUMENT_READ_ERROR (R78). PCIe returns an error completion for an argument-structure read and the command ends with
  0x0403. -/
  | argumentReadError (c : Fin 8) (id : Nat)
  /-- HOST_READ_TIMEOUT (R410). A host read receives no completion within 10 ms; a Completion Timeout is reported and the read
  fails. -/
  | hostReadTimeout (c : Fin 8) (what : HostRead)
  /-- IDENTIFY (R95). Returns the IDENTIFY structure and, on queue pair 0 with HOST_MAJOR 1, fixes the agreed minor version. -/
  | identify (c : Fin 8) (id : Nat)
  /-- QUEUE_CREATE (R74). Creates queue pair 1–63 in its Super with the given depths, weight and interrupt settings. -/
  | queueCreate (c : Fin 8) (id : Nat)
  /-- QUEUE_DELETE (R75). Stops fetching from a queue pair, discards unfetched entries and posts the completions of fetched
  commands. -/
  | queueDelete (c : Fin 8) (id : Nat)
  /-- SUPER_CONFIG (R98). Writes the Super map into section 0x1 of the shadow set after the Super-map checks. -/
  | superConfig (c : Fin 8) (id : Nat) (data : Bytes)
  /-- CONFIG_WRITE_SHADOW (R92). Writes a raw section image into the shadow set, or copies the active set into it with section
  0x0. -/
  | configWriteShadow (c : Fin 8) (id : Nat) (data : Bytes)
  /-- CONFIG_COMMIT (R93). Checks the whole shadow set for consistency and commits it, section by section, at each section's
  commit point. -/
  | configCommit (c : Fin 8) (id : Nat)
  /-- CONFIG_SECTION_EXCHANGE (R94). At a dispatch or drain boundary a committed section is exchanged whole between the active
  and shadow sets. -/
  | configSectionExchange (c : Fin 8) (sect : Fin 7)
  /-- STREAM_OPEN (R104). Opens a FREE stream bound to a model, incrementing its GEN. -/
  | streamOpen (c : Fin 8) (id : Nat)
  /-- STREAM_CLOSE (R105). With FREE 0, closes a stream, discarding its tentative range and keeping its committed frames. -/
  | streamClose (c : Fin 8) (id : Nat)
  /-- STREAM_CLOSE_FREE (R105). With FREE 1, returns a stream to FREE and releases every frame in its table. -/
  | streamCloseFree (c : Fin 8) (id : Nat)
  /-- STREAM_CANCEL (R106). Sets CANCEL_MARK on a stream and closes it or marks its running step for cancellation. -/
  | streamCancel (c : Fin 8) (id : Nat)
  /-- FRAME_MAP_FRESH (R109). Appends COUNT new frame-table indexes, each with new frames, to an OPEN stream. -/
  | frameMapFresh (c : Fin 8) (id : Nat)
  /-- FRAME_MAP_SHARE (R110). Points an empty stream's first indexes at a source stream's frames and sets its POSITION to
  SHARE_LEN. -/
  | frameMapShare (c : Fin 8) (id : Nat)
  /-- FRAME_RELEASE (R112). Releases frame-table indexes from FROM onwards, lowers POSITION and discards the tentative range. -/
  | frameRelease (c : Fin 8) (id : Nat)
  /-- STEP_SUBMIT (R113). Submits a step plan, which the Steward checks at fetch and then waits to run. -/
  | stepSubmit (c : Fin 8) (id : Nat) (plan : Bytes)
  /-- STEP_VERIFY (R123). Decides how many drafts of each stream's tentative range to accept and commits them. -/
  | stepVerify (c : Fin 8) (id : Nat) (data : Bytes)
  /-- MODEL_LOAD (R226). Checks a manifest and places the kept segments of a model image, directly or through a distribution
  tree. -/
  | modelLoad (c : Fin 8) (id : Nat) (manifest : Bytes) (src : List SegData)
  /-- MODEL_UNLOAD (R229). Unloads a model, setting GEN to 0 and freeing its ranges and arenas. -/
  | modelUnload (c : Fin 8) (id : Nat)
  /-- SWAP_BEGIN (R233). Starts an in-place swap of a model in Uniform or Rolling mode with a hold limit. -/
  | swapBegin (c : Fin 8) (id : Nat)
  /-- SWAP_LAYER (R236). Checks and queues the new segments of swap unit FRONT for writing. -/
  | swapLayer (c : Fin 8) (id : Nat) (data : Bytes) (src : List SegData)
  /-- SWAP_END (R239). Ends a DONE swap and sets the model's GEN to NEW_GEN. -/
  | swapEnd (c : Fin 8) (id : Nat)
  /-- SWAP_END_ABANDON (R239). Abandons a swap with FRONT 0 and releases held steps bound to the old version. -/
  | swapEndAbandon (c : Fin 8) (id : Nat)
  /-- FORAGER_COPY (R206). Runs up to 4,096 copy descriptors concurrently and completes once every write has reached its
  destination. -/
  | foragerCopy (c : Fin 8) (id : Nat) (data : Bytes)
  /-- POWER_POLICY_WRITE (R304). Writes the power policy image into section 0x2 of the shadow set after the policy checks. -/
  | powerPolicyWrite (c : Fin 8) (id : Nat) (data : Bytes)
  /-- DORMANT_NOW (R304). Requests Dormant at once, or on the next entry to Idle. -/
  | dormantNow (c : Fin 8) (id : Nat)
  /-- POWER_CALIBRATE (R327). Stops dispatch, drains the chip and keeps a 200 µs quiet window to calibrate the static
  corrections. -/
  | powerCalibrate (c : Fin 8) (id : Nat)
  /-- QUIET_WINDOW_START (R327). Dispatched steps have drained and the 200 µs quiet window begins. -/
  | quietWindowStart (c : Fin 8)
  /-- QUIET_WINDOW_END (R327). The quiet window ends; c_r fits are accepted or rejected and dispatch resumes. -/
  | quietWindowEnd (c : Fin 8) (way : Rounding)
  /-- CALIBRATE_DRAIN_TIMEOUT (R327). Dispatched steps have not drained within MAX_WAIT and the command posts 0x0602. -/
  | calibrateDrainTimeout (c : Fin 8)
  /-- COUNTER_SELECT_WRITE (R333). Writes the 2,048 selection records into section 0x4 of the shadow set. -/
  | counterSelectWrite (c : Fin 8) (id : Nat) (data : Bytes)
  /-- COUNTER_SELECT_READ (R333). Writes the counter read-out into the result buffer. -/
  | counterSelectRead (c : Fin 8) (id : Nat)
  /-- LULL_ARM (R343). Writes the Lull section image into section 0x6 of the shadow set. -/
  | lullArm (c : Fin 8) (id : Nat) (data : Bytes)
  /-- TRACE_CONFIG (R339). Sets the trace classes, the Super mask, wrap and the host ring. -/
  | traceConfig (c : Fin 8) (id : Nat)
  /-- FABRIC_ROUTE_SET (R282). Writes the fabric route section into section 0x3 of the shadow set after the route checks. -/
  | fabricRouteSet (c : Fin 8) (id : Nat) (data : Bytes)
  /-- LINK_STATE_QUERY (R262). Reports a port's state, departure reason, partner and time offset. -/
  | linkStateQuery (c : Fin 8) (id : Nat)
  /-- LINK_STATE_ENABLE (R262). Enables a DISABLED port, which goes to DOWN. -/
  | linkStateEnable (c : Fin 8) (id : Nat)
  /-- LINK_STATE_DISABLE (R261). Disables a port, idling its transmitter and discarding unacknowledged flits. -/
  | linkStateDisable (c : Fin 8) (id : Nat)
  /-- LINK_STATE_READMIT (R261). Takes a FENCED port to TRAINING and clears its violation windows. -/
  | linkStateReadmit (c : Fin 8) (id : Nat)
  /-- LINK_STATE_RETRAIN (R261). Sends a port back to TRAINING. -/
  | linkStateRetrain (c : Fin 8) (id : Nat)
  /-- LINK_STATE_DRIZZLE_ALLOW (R262). Allows Drizzle on a port. -/
  | linkStateDrizzleAllow (c : Fin 8) (id : Nat)
  /-- LINK_STATE_DRIZZLE_REFUSE (R262). Refuses Drizzle on a port. -/
  | linkStateDrizzleRefuse (c : Fin 8) (id : Nat)
  /-- MICROPROGRAM_LOAD (R179). Loads a checked micro-program into a loadable slot of the shadow microprogram table. -/
  | microprogramLoad (c : Fin 8) (id : Nat) (data : Bytes)
  /-- MICROPROGRAM_CLEAR (R179). With CLEAR 1, empties a loadable slot of the shadow microprogram table. -/
  | microprogramClear (c : Fin 8) (id : Nat)
  /-- HEALTH_QUERY_READ (R413). Writes the health structure with the sticky RAS error log. -/
  | healthQueryRead (c : Fin 8) (id : Nat)
  /-- HEALTH_QUERY_READ_AND_CLEAR (R413). Writes the health structure and then empties the log and zeroes LOG_LOST. -/
  | healthQueryReadAndClear (c : Fin 8) (id : Nat)
  /-- STEP_PLAN_READY (R116). A plan becomes ready once its streams are idle, and the Ready checks are made. -/
  | stepPlanReady (c : Fin 8) (id : Nat) (tokens : List (Option (List Word32)))
  /-- STEP_DISPATCH (R116). A ready plan is dispatched when its Super has fewer than two steps dispatched; frames are allocated
  and streams go RUNNING. -/
  | stepDispatch (c : Fin 8) (id : Nat)
  /-- STEP_UNIT_ENTRY (R230). A step enters a swap unit, binds to a version of it, or is held at its barrier. -/
  | stepUnitEntry (c : Fin 8) (id : Nat) (unit : Nat) (ops : List (Fin 4 × Bytes)) (copies : List BuiltCopy)
  /-- STEP_COMMIT (R117). At a step's commit point every entry commits or is discarded in one indivisible action. -/
  | stepCommit (c : Fin 8) (id : Nat) (staged : List Staged)
  /-- STEP_VERIFY_COMMIT (R124). At a STEP_VERIFY commit point, each stream's POSITION is set to BASE_POSITION + a and its
  tentative range is emptied. -/
  | stepVerifyCommit (c : Fin 8) (id : Nat)
  /-- STEP_ERROR_END (R118). A step ends with an error status, committing nothing and releasing the indexes it appended. -/
  | stepErrorEnd (c : Fin 8) (id : Nat) (err : StepErr)
  /-- STEP_HOLD_LIMIT_EXPIRY (R240). A step's time held at barriers passes HOLD_LIMIT and the step ends with 0x0208. -/
  | stepHoldLimitExpiry (c : Fin 8) (id : Nat)
  /-- STEP_STALL (R406). A step makes no progress for 100 ms of step time and ends with 0x0502 or 0x0404. -/
  | stepStall (c : Fin 8) (id : Nat) (remote : Bool)
  /-- DESCRIPTOR_SEQUENCER_RELEASE (R143). A descriptor whose token wait is met leaves the sequencer into a Comb's descriptor
  buffer. -/
  | descriptorSequencerRelease (c : Fin 8) (die : Fin 4) (k : Fin 32) (w : TokenWait)
  /-- FILL (R136). A FILL descriptor issues its first K-step and computes one group C = A · B. -/
  | fill (c : Fin 8) (k : Fin 128) (f : Freezes)
  /-- STREAM (R137). A STREAM descriptor issues and passes ROWS rows of A through a weight tile held in a bank. -/
  | stream (c : Fin 8) (k : Fin 128) (f : Freezes)
  /-- TILE_LOAD_START (R140). The Comb starts loading a STREAM tile through feeder 1 once the bank and the feeder are free. -/
  | tileLoadStart (c : Fin 8) (k : Fin 128)
  /-- TILE_LOAD_COMPLETE (R140). A STREAM tile load completes, setting the bank's tag and ending any freeze it caused. -/
  | tileLoadComplete (c : Fin 8) (k : Fin 128)
  /-- GROUP_DRAIN_COMPLETE (R149). A group's outputs are scaled, added and converted at the drain and written to the Comb store. -/
  | groupDrainComplete (c : Fin 8) (k : Fin 128)
  /-- HOLD_SLOT_RELEASE (R144). A credit arrives and the held row operation enters its request queue. -/
  | holdSlotRelease (c : Fin 8) (k : Fin 128) (held : Nat)
  /-- SFU_MAP (R184). A MAP row operation computes FUNC(a × x + b) for each element. -/
  | sfuMap (c : Fin 8) (k : Fin 128)
  /-- SOFTMAX (R186). A SOFTMAX row operation computes the soft maximum of each row in two passes. -/
  | softmax (c : Fin 8) (k : Fin 128)
  /-- RMSNORM (R184). An RMSNORM row operation normalises each row by its root mean square. -/
  | rmsnorm (c : Fin 8) (k : Fin 128)
  /-- LAYERNORM (R184). A LAYERNORM row operation normalises each row by its mean and variance. -/
  | layernorm (c : Fin 8) (k : Fin 128)
  /-- SELECTION (R190). A selection descriptor finds the K highest-ranked elements of each row. -/
  | selection (c : Fin 8) (k : Fin 128)
  /-- SFU_TILE_GRANT (R185). The SFU arbiter grants one tile of a waiting Comb's row operation, round-robin. -/
  | sfuTileGrant (c : Fin 8) (die : Fin 4)
  /-- SFU_TILE_COMPLETE (R185). A granted tile runs to its end and its context is saved. -/
  | sfuTileComplete (c : Fin 8) (die : Fin 4) (waited : List Nat)
  /-- SELECTION_ROW_COMPLETE (R190). The selection unit finishes a row and writes its K entries in rank order. -/
  | selectionRowComplete (c : Fin 8) (die : Fin 4)
  /-- END (R177). SFU step END makes SA the result and ends the program. -/
  | sfuEnd (c : Fin 8) (die : Fin 4) (lane : Fin 64) (strict : Bool) (w : Word64)
  /-- RR_EXP (R177). SFU step RR_EXP reduces an argument for exponentials into an integer n and a fraction f. -/
  | rrExp (c : Fin 8) (die : Fin 4) (lane : Fin 64) (strict : Bool) (w : Word64)
  /-- RR_LOG (R177). SFU step RR_LOG splits SA into m − 1 and exponent e. -/
  | rrLog (c : Fin 8) (die : Fin 4) (lane : Fin 64) (strict : Bool) (w : Word64)
  /-- RR_TRIG (R177). SFU step RR_TRIG reduces SA modulo π/2 into r and q mod 4. -/
  | rrTrig (c : Fin 8) (die : Fin 4) (lane : Fin 64) (strict : Bool) (w : Word64)
  /-- LOOKUP (R177). SFU step LOOKUP selects a ROM segment and latches its three coefficients. -/
  | lookup (c : Fin 8) (die : Fin 4) (lane : Fin 64) (strict : Bool) (w : Word64)
  /-- QINTERP (R177). SFU step QINTERP evaluates the latched quadratic as two fused multiply-adds. -/
  | qinterp (c : Fin 8) (die : Fin 4) (lane : Fin 64) (strict : Bool) (w : Word64)
  /-- FMA (R177). SFU step FMA computes SA × SB + SC. -/
  | fma (c : Fin 8) (die : Fin 4) (lane : Fin 64) (strict : Bool) (w : Word64)
  /-- RCP_SEED (R177). SFU step RCP_SEED approximates 1 ÷ SA. -/
  | rcpSeed (c : Fin 8) (die : Fin 4) (lane : Fin 64) (strict : Bool) (w : Word64)
  /-- RSQ_SEED (R177). SFU step RSQ_SEED approximates 1 ÷ √SA. -/
  | rsqSeed (c : Fin 8) (die : Fin 4) (lane : Fin 64) (strict : Bool) (w : Word64)
  /-- NR_RCP (R177). SFU step NR_RCP refines a reciprocal by one Newton step. -/
  | nrRcp (c : Fin 8) (die : Fin 4) (lane : Fin 64) (strict : Bool) (w : Word64)
  /-- NR_RSQ (R177). SFU step NR_RSQ refines a reciprocal square root by one Newton step. -/
  | nrRsq (c : Fin 8) (die : Fin 4) (lane : Fin 64) (strict : Bool) (w : Word64)
  /-- SCALE2 (R177). SFU step SCALE2 computes SA × 2^SB. -/
  | scale2 (c : Fin 8) (die : Fin 4) (lane : Fin 64) (strict : Bool) (w : Word64)
  /-- CMP_SEL (R177). SFU step CMP_SEL writes SC into DST when its condition holds. -/
  | cmpSel (c : Fin 8) (die : Fin 4) (lane : Fin 64) (strict : Bool) (w : Word64)
  /-- EXPDIFF (R187). SFU step EXPDIFF computes e^(SA − SB) with the difference held exactly. -/
  | expdiff (c : Fin 8) (die : Fin 4) (lane : Fin 64) (strict : Bool) (w : Word64)
  /-- COPY_DESCRIPTOR (R203). A Forager takes a copy descriptor whose token wait is met and copies ROWS rows between spaces. -/
  | copyDescriptor (c : Fin 8) (f : Fin 16) (host : Bytes) (bad : List (Nat × SrcErr))
  /-- COPY_DESCRIPTOR_COMPLETE (R205). Every byte of a copy is written or acknowledged and the descriptor signals its token. -/
  | copyDescriptorComplete (c : Fin 8) (f : Fin 16)
  /-- SCRUB_READ (R215). Patrol scrubbing reads a granule, corrects it or marks it poisoned. -/
  | scrubRead (c : Fin 8) (w : Where)
  /-- ECC_WRITE_BACK (R211). A corrected word is written back within 1 µs unless the granule has been written in the meantime. -/
  | eccWriteBack (c : Fin 8) (w : Where)
  /-- LOAD_SEGMENT_RECEIVE (R228). A LOAD_SEGMENT message from the tree parent is checked, kept or discarded, and forwarded to
  the children. -/
  | loadSegmentReceive (c : Fin 8) (p : Fin 18)
  /-- LOAD_TIMEOUT (R228). Nothing arrives from PARENT for LOAD_TIMEOUT and the load is refused with 0x0502. -/
  | loadTimeout (c : Fin 8) (id : Nat)
  /-- CHILD_TIMEOUT (R228). A child accepts nothing for LOAD_TIMEOUT and sending to it stops. -/
  | childTimeout (c : Fin 8) (id : Nat) (child : Fin 10)
  /-- SWAP_BEGIN_TAKE_EFFECT (R234). SWAP_BEGIN takes effect once the earlier steps naming the model are ready, marking steps
  old-bound or new-bound. -/
  | swapBeginTakeEffect (c : Fin 8) (id : Nat)
  /-- SWAP_WRITE_START (R237). The swap is OPEN and no step is inside unit FRONT; its barrier closes and the write starts. -/
  | swapWriteStart (c : Fin 8) (m : Fin 64)
  /-- SWAP_WRITE_COMPLETE (R237). A unit's new segments are written; its barrier opens and FRONT increases by 1. -/
  | swapWriteComplete (c : Fin 8) (m : Fin 64)
  /-- SWAP_WRITE_FAIL (R238). A source error stops a unit write and the swap goes to BROKEN. -/
  | swapWriteFail (c : Fin 8) (m : Fin 64) (err : SrcErr) (seg off : Nat)
  /-- FLIT_RECEIVE (R254). A flit arrives; its CRC and sequence are checked, and its acknowledgements and credits are applied. -/
  | flitReceive (c : Fin 8) (p : Fin 18) (flit : Bytes) (uncorrectable : Option Nat) (corrected : Nat) (stamp : Word64)
  /-- REPLAY_TIMEOUT (R255). No acknowledgement covers the oldest unacknowledged flit for 2 µs and the sender replays from it. -/
  | replayTimeout (c : Fin 8) (p : Fin 18)
  /-- ACK_TIMER (R254). After 64 flit times or 200 ns the receiver sends an acknowledgement. -/
  | ackTimer (c : Fin 8) (p : Fin 18)
  /-- CREDIT_RETURN (R257). The mesh removes a flit's last message from a receive buffer and the credit is returned to the
  partner. -/
  | creditReturn (c : Fin 8) (p : Fin 18) (vc : Fin 6)
  /-- WRITE_RECEIVE (R272). A WRITE message is written to the Super's general area, or refused, and answered with WRITE_RESP. -/
  | writeReceive (c : Fin 8) (p : Fin 18) (vc : Fin 6)
  /-- WRITE_RESP_RECEIVE (R272). A WRITE_RESP arrives and its status is applied to the copy that sent the WRITE. -/
  | writeRespReceive (c : Fin 8) (p : Fin 18)
  /-- WRITE_RESP_TIMEOUT (R272). No WRITE_RESP arrives within 1 ms and the copy fails with 0x0502. -/
  | writeRespTimeout (c : Fin 8) (tag : Nat)
  /-- COLLECTIVE_RECEIVE (R290). A COLLECTIVE message is checked, written and added to ARRIVED, or dropped. -/
  | collectiveReceive (c : Fin 8) (p : Fin 18) (vc : Fin 6)
  /-- HELLO_RECEIVE (R258). A partner's HELLO supplies its identity, state and buffer depths. -/
  | helloReceive (c : Fin 8) (p : Fin 18)
  /-- HELLO_TIMER (R258). A port sends HELLO every 10 µs or 100 µs according to its state. -/
  | helloTimer (c : Fin 8) (p : Fin 18)
  /-- PARTNER_SIGNAL_DETECT (R261). A DOWN port detects its partner's signal and starts training. -/
  | partnerSignalDetect (c : Fin 8) (p : Fin 18)
  /-- TRAINING_COMPLETE (R261). Training completes and the port goes to UP or NOT_READY. -/
  | trainingComplete (c : Fin 8) (p : Fin 18)
  /-- TRAINING_FAIL (R258). Training exceeds 150 ms or meets a bad HELLO; the port goes DOWN and waits. -/
  | trainingFail (c : Fin 8) (p : Fin 18)
  /-- TRAINING_RETRY_WAIT_EXPIRY (R258). The back-off wait after a failed training ends and the port trains again. -/
  | trainingRetryWaitExpiry (c : Fin 8) (p : Fin 18)
  /-- LOSS_OF_SIGNAL (R261). A port loses its partner's signal and goes to TRAINING. -/
  | lossOfSignal (c : Fin 8) (p : Fin 18)
  /-- SYNC_TIMER (R266). A port sends a SYNC REQUEST every 10 µs at full rate or every 1 ms in Drizzle. -/
  | syncTimer (c : Fin 8) (p : Fin 18) (t1 : Word64)
  /-- SYNC_REQUEST_RECEIVE (R266). A SYNC REQUEST is stamped on arrival and answered with a RESPONSE. -/
  | syncRequestReceive (c : Fin 8) (p : Fin 18) (t3 : Word64)
  /-- SYNC_RESPONSE_RECEIVE (R267). A SYNC RESPONSE gives offset and delay, and on the parent port steps or slews the time base. -/
  | syncResponseReceive (c : Fin 8) (p : Fin 18)
  /-- SYNC_LOST (R267). After 64 outliers or 1 ms without an accepted exchange on the parent, the chip runs free and posts
  SYNC_LOST. -/
  | syncLost (c : Fin 8)
  /-- DRIZZLE_REQ (R264). A partner's DRIZZLE_REQ is accepted or refused according to the port's setting. -/
  | drizzleReq (c : Fin 8) (p : Fin 18)
  /-- DRIZZLE_ACCEPT (R263). The partner accepts; both ends drain their replay buffers and move lane 0 to the Drizzle rate. -/
  | drizzleAccept (c : Fin 8) (p : Fin 18)
  /-- DRIZZLE_REFUSE (R263). The partner refuses Drizzle; the port stays at full rate and the refusal is counted. -/
  | drizzleRefuse (c : Fin 8) (p : Fin 18)
  /-- DRIZZLE_ANSWER_TIMEOUT (R263). No answer to DRIZZLE_REQ within 10 µs counts as a refusal. -/
  | drizzleAnswerTimeout (c : Fin 8) (p : Fin 18)
  /-- WAKE (R264). A WAKE is answered by restoring all four lanes and sending FULL_RATE. -/
  | wake (c : Fin 8) (p : Fin 18)
  /-- FULL_RATE (R264). Once both ends have sent FULL_RATE the port is UP. -/
  | fullRate (c : Fin 8) (p : Fin 18)
  /-- DRIZZLE_WAKE_FAIL (R264). A port is not UP within 40 µs of WAKE and trains fully. -/
  | drizzleWakeFail (c : Fin 8) (p : Fin 18)
  /-- ROUTED (R292). A ROUTED management message is accepted only from an authorised SRC_CHIP. -/
  | routed (c : Fin 8) (p : Fin 18)
  /-- LULL_FLIT_RECEIVE (R269). A partner's CUT or RELEASE Lull flit is recorded for the cut. -/
  | lullFlitReceive (c : Fin 8) (p : Fin 18)
  /-- ESCAPE_TIMEOUT (R287). A message head waits 2 µs without a credit and is sent on the escape channel. -/
  | escapeTimeout (c : Fin 8) (p : Fin 18) (vc : Fin 6)
  /-- NO_PORT_TIMEOUT (R288). A message has no allowed port UP for 1 ms and fails with 0x0500. -/
  | noPortTimeout (c : Fin 8)
  /-- ROUTE_EPOCH_TAKE_EFFECT (R283). At EPOCH_TIME a pending route section takes effect whole and ROUTE_EPOCH is posted. -/
  | routeEpochTakeEffect (c : Fin 8)
  /-- POWER_SAMPLE (R301). The power-management controller samples the power meters every 1 µs. -/
  | powerSample (c : Fin 8) (m : Meters)
  /-- FAST_LIMIT_RELEASE (R313). After 10 µs the clocks return to the limiter's frequencies. -/
  | fastLimitRelease (c : Fin 8)
  /-- LIMITER_TICK (R310). The limiter lowers or raises die frequencies by 25 MHz to hold the 1 ms average to L. -/
  | limiterTick (c : Fin 8) (way : Rounding)
  /-- GUST_WINDOW_END (R311). A Gust window ends after 10 ms or an ending condition, starting its lockout. -/
  | gustWindowEnd (c : Fin 8) (why : GustEnd)
  /-- SHARE_GATING_TICK (R312). Every 1 ms each over-share Super's hold time doubles, and others halve. -/
  | shareGatingTick (c : Fin 8) (way : Rounding)
  /-- DROOP_DETECT (R314). A droop detector sample below 95 % stretches the die's array clock. -/
  | droopDetect (c : Fin 8) (die : Fin 4)
  /-- DROOP_RECOVERY (R314). The rail stands at 97 % for 32 samples and the stretch ends. -/
  | droopRecovery (c : Fin 8) (die : Fin 4)
  /-- DROOP_STORM_END (R314). The 10 ms droop-storm lowering ends. -/
  | droopStormEnd (c : Fin 8) (die : Fin 4)
  /-- THERMAL_SENSOR_READ (R316). Thermal sensors are read every 10 µs and each group acts on its hottest sensor. -/
  | thermalSensorRead (c : Fin 8) (temps : List Nat)
  /-- THERMAL_TRIP_LINE (R374). The Ndevas sees a chip's thermal-trip line and opens its e-fuse. -/
  | thermalTripLine (c : Fin 8)
  /-- LOCKSTEP_ORDER (R321). A Lockstep order from the Ndevas makes the chip hold the named frequency. -/
  | lockstepOrder (c : Fin 8)
  /-- LOCKSTEP_ORDER_WITHDRAW (R321). The Ndevas withdraws a Lockstep order after the first chip has run at F_LOCK for 10 ms. -/
  | lockstepOrderWithdraw (c : Fin 8)
  /-- POLICY_CONFLICT (R308). A conflict episode lasts CONFLICT_MS and is reported once. -/
  | policyConflict (c : Fin 8) (kind : Fin 5) (die : Option (Fin 4)) (way : Rounding)
  /-- ENERGY_SPLIT_TICK (R323). Every 10 µs metered and modelled energy is split among the accumulators. -/
  | energySplitTick (c : Fin 8) (way : Rounding)
  /-- ESTIMATOR_REFERENCE (R325). A steady 5 ms reference updates a rail's gain g_r. -/
  | estimatorReference (c : Fin 8) (rail : Fin 6) (way : Rounding)
  /-- ESTIMATE_STALE (R326). A rail with no accepted reference for 60 s becomes stale. -/
  | estimateStale (c : Fin 8) (rail : Fin 6)
  /-- ALLOTMENT_INTERVAL (R318). Every 1 ms the Ndevas computes A_n, G_n and P_n and sends them to each chip. -/
  | allotmentInterval
  /-- CHIP_REPORT (R317). A chip's end-of-interval report reaches the Ndevas. -/
  | chipReport (c : Fin 8) (wait input : Rounding)
  /-- ALLOTMENT_RECEIVE (R317). A chip receives and applies its allotment and flags. -/
  | allotmentReceive (c : Fin 8)
  /-- ALLOTMENT_TIMEOUT (R319). No allotment for 50 ms; the chip falls back to its last A_n and posts NDEVAS_LOST. -/
  | allotmentTimeout (c : Fin 8)
  /-- CHIP_SILENT (R399). A chip sends no report for 50 ms and is logged CHIP_SILENT. -/
  | chipSilent (c : Fin 8)
  /-- TRACE_HOST_COPY (R340). The trace unit copies records from the HBM ring into the host ring and writes PRODUCER. -/
  | traceHostCopy (c : Fin 8)
  /-- CONSUMER_READ (R340). At least every 100 µs the chip reads CONSUMER of the host ring. -/
  | consumerRead (c : Fin 8) (v : Word64)
  /-- LULL_FREEZE (R345). Local fabric time reaches T, or is stepped past it, and the chip freezes at the cut. -/
  | lullFreeze (c : Fin 8)
  /-- CUT_PARTNER_TIMEOUT (R348). A partner's CUT flit is missing after 100 µs and is marked missing. -/
  | cutPartnerTimeout (c : Fin 8) (p : Fin 18)
  /-- LULL_CUT (R348). The cut record is written to CUT_PTR and LULL_CUT is posted. -/
  | lullCut (c : Fin 8)
  /-- LULL_RELEASE (R347). At the release time every unit resumes, RELEASE flits are sent and fetching resumes. -/
  | lullRelease (c : Fin 8)
  /-- FIELD_SUPPLY_MEASURE (R353). Every 10 ms the field supply is measured and FIELD_SUPPLY is raised after 100 ms out of or
  back in range. -/
  | fieldSupplyMeasure (mv : Nat)
  /-- ADC_SLICE_COMPLETE (R356). A channel's 5 ms slice ends and its reading is classified. -/
  | adcSliceComplete (k : Fin 16) (samples : List Nat)
  /-- COMPARATOR_SAMPLE (R357). A 1 kHz comparator sample detects a threshold crossing on a current-loop input. -/
  | comparatorSample (k : Fin 16) (ua : Nat)
  /-- LOOP_RETRY_TEST (R361). Every 10 s a DISCONNECTED channel closes its FET for a 10 ms test. -/
  | loopRetryTest (k : Fin 16)
  /-- LOOP_RETRY_TEST_END (R361). The 10 ms retry test ends; the channel goes to FAULT or reopens its FET. -/
  | loopRetryTestEnd (k : Fin 16)
  /-- LOOP_STARTING_COMPLETE (R362). A scan starts 80 ms after loop power came on and a STARTING channel goes NORMAL. -/
  | loopStartingComplete (k : Fin 16)
  /-- LEAK_SAMPLE (R364). A 1 kHz leak-input sample is classified and the channel takes a region after 20 samples. -/
  | leakSample (k : Fin 8) (code : BitVec 12)
  /-- CHATTER_END (R367). 10 s pass without a crossing and the channel leaves CHATTER. -/
  | chatterEnd (k : Fin 8)
  /-- LEAK_INDETERMINATE_TIMEOUT (R366). A channel still INDETERMINATE 2 s after sampling starts becomes LEAK or CHANNEL_FAULT. -/
  | leakIndeterminateTimeout (k : Fin 8)
  /-- LEAK_DRIFT (R365). A channel in the band for 60 s raises LEAK_DRIFT. -/
  | leakDrift (k : Fin 8)
  /-- OUTPUT_SAMPLE (R371). Each output's terminal voltage and current are sampled at 1 kHz and diagnosed. -/
  | outputSample (samples : List OutSample)
  /-- CROSSFEED_TEST (R373). At 30 ms the Ndevas pulses each output in turn to test for cross-feed. -/
  | crossfeedTest (found : List (Fin 4 × Fin 4))
  /-- OUTPUT_POWER_UP_STATE (R373). At 60 ms each output takes its power-up state. -/
  | outputPowerUpState
  /-- EFUSE_TRIP (R375). An e-fuse trips on overcurrent and isolates its chip alone. -/
  | efuseTrip (c : Fin 8) (ma : Nat) (samples : List FuseSample)
  /-- BUSBAR_FAULT (R417). The busbar is under or over voltage for 1 ms and every e-fuse opens. -/
  | busbarFault (above : Bool)
  /-- HAZARD_CLEAR (R381). A hazard's condition is false for 5 s and the hazard clears. -/
  | hazardClear (hazard : Fin 9) (ch : Nat)
  /-- HAZARD_ESCALATION (R381). A raised hazard reaches its escalation time and its further actions are taken. -/
  | hazardEscalation (hazard : Fin 9) (ch : Nat)
  /-- LEAK_CLOSE_PUMP_DELAY (R381). 100 ms after the last chip is Off under LEAK_TRAY, CLOSE and PUMP are applied. -/
  | leakClosePumpDelay
  /-- ISOLATE_NOTICE (R385). The Steward receives ISOLATE_NOTICE, clears READY and ends work with 0x0700. -/
  | isolateNotice (c : Fin 8)
  /-- ISOLATE_READY (R384). The Ndevas receives ISOLATE_READY, opens the e-fuse and logs CHIP_ISOLATED. -/
  | isolateReady (c : Fin 8)
  /-- ISOLATE_GRACE_EXPIRY (R384). The grace G ends without ISOLATE_READY and the e-fuse opens. -/
  | isolateGraceExpiry (c : Fin 8)
  /-- CHASSIS_RESET_ON (R386). PowerOn closes a chip's e-fuse and runs its rail sequence unless refused. -/
  | chassisResetOn (c : Fin 8) (role : Role) (busbarOk : Bool)
  /-- CHASSIS_RESET_FORCE_OFF (R384). ForceOff isolates a chip with a grace of 0. -/
  | chassisResetForceOff (c : Fin 8) (role : Role)
  /-- CHASSIS_RESET_GRACEFUL_SHUTDOWN (R384). GracefulShutdown isolates a chip with a grace of 100 ms. -/
  | chassisResetGracefulShutdown (c : Fin 8) (role : Role)
  /-- CHASSIS_RESET_POWER_CYCLE (R386). PowerCycle forces a chip off and powers it on 1 s later. -/
  | chassisResetPowerCycle (c : Fin 8) (role : Role)
  /-- POWER_CYCLE_ON_DELAY (R386). 1 s after the ForceOff of a PowerCycle the PowerOn runs. -/
  | powerCycleOnDelay (c : Fin 8) (busbarOk : Bool)
  /-- CLEAR_LEAK (R368). ClearLeak releases a leak latch if the channel holds the clear region. -/
  | clearLeak (k : Fin 8) (role : Role)
  /-- CLEAR_CROSSFED (R372). ClearCrossfed returns CROSSFED outputs to OFF. -/
  | clearCrossfed (outs : List (Fin 4)) (role : Role)
  /-- SET_OUTPUT (R396). SetOutput stores an output's commanded state unless an action or fault forbids it. -/
  | setOutput (k : Fin 4) (on : Bool) (role : Role)
  /-- NDEVAS_SHADOW_PATCH (R388). A PATCH writes the Ndevas shadow set after range checks. -/
  | ndevasShadowPatch (patch : PatchReq) (role : Role)
  /-- NDEVAS_COMMIT (R389). Commit checks the Ndevas shadow set and exchanges the sets. -/
  | ndevasCommit (expected : Word32) (role : Role)
  /-- UPDATE_PUSH (R396). An image pushed to the UpdateService is stored for the next restart or power-on. -/
  | updatePush (kind : ImageKind) (image : Nat) (role : Role)
  /-- REDFISH_REQUEST (R395). A Redfish GET or other request is served, or answered early under R50. -/
  | redfishRequest (req : RedfishReq)
  /-- REDFISH_EVENT_SEND (R397). One Redfish event is sent per log record to each subscriber. -/
  | redfishEventSend (accepted : List Nat)
  /-- PLDM_REQUEST (R398). A PLDM request on a sideband segment is answered by the Ndevas. -/
  | pldmRequest (c : Fin 8) (req : PldmReq)
  /-- LOG_RECORD_PROGRAM (R393). A queued event's record body is programmed into flash. -/
  | logRecordProgram
  /-- LOG_AFTER_PART_PROGRAM (R392). A record's after part is programmed at its moment. -/
  | logAfterPartProgram (seq : Word32)
  /-- HOST_LINK_FATAL (R411). A fatal host-link error stops dispatch and posting. -/
  | hostLinkFatal (c : Fin 8) (kind : LinkFatal)
  /-- STEWARD_FAULT (R408). A Steward fault ends the command with 0x0404 or starts a watchdog reset. -/
  | stewardFault (c : Fin 8) (code : Word16) (id : Nat)
  /-- TRAY_IDENTITY_RETRY (R49). After a failed tray board identity read the Ndevas repeats the read every 10 s and powers chips
  once it passes. -/
  | trayIdentityRetry (board : IdRead)
  /-- HBM_TRAINING_FAIL (R401). HBM training ends in failure, BOOT_STAGE stays at 0x02 and the chip holds a class 0x0C boot
  failure. -/
  | hbmTrainingFail (c : Fin 8)
  /-- NDEVAS_CHIP_RESET_DEASSERT (R53). The Ndevas deasserts a chip's reset line and the fundamental reset proceeds towards
  READY. -/
  | ndevasChipResetDeassert (c : Fin 8)
  /-- PERST_HONOURED (R47). 100 ms after power good the chip honours an early PERST# deassertion and releases its PCIe
  controller. -/
  | perstHonoured (c : Fin 8)
  /-- CONFIGURATION_REQUEST (R47). A PCIe configuration request is answered with RRS before firmware runs, by the boot ROM after
  FW_FAILED, or normally. -/
  | configurationRequest (c : Fin 8) (req : CfgReq)
  /-- HEARTBEAT_TICK (R65). Every 1 ms while Steward firmware runs, HEARTBEAT increments by 1. -/
  | heartbeatTick (c : Fin 8)
  /-- NDEVAS_WAKE_MESSAGE (R60). A wake message from the Ndevas over SMBus reaches a Dormant chip and acts as a wake event. -/
  | ndevasWakeMessage (c : Fin 8)
  /-- FLIT_TRANSMIT (R256). At each flit time the port sends the next sequenced flit, a replay first, choosing virtual channels
  by priority and weight where credits allow. -/
  | flitTransmit (c : Fin 8) (p : Fin 18)
  deriving DecidableEq, Repr

end Sys2Proof
end

