-- ==== Sys2Proof/Decode.lean ====
section
/-! DEFINITION. The command that a table word spells: spec/opcode_table.json gives its rows no bits, so no word spells one. -/
namespace Sys2Proof

/-- The command that the `nbits` bits of `w` spell: none, since the table gives no row any bits. -/
def decodeTableWord (_nbits _w : Nat) : Option Instr := none

end Sys2Proof
end

