-- ==== Sys2Proof/Config.lean ====
section
/-! DEFINITION. The values the spec leaves open: opaque constants that no proof can evaluate. -/
namespace Sys2Proof.Config

/-- Byte number `k` of the `stamp`-th range of undefined contents (04 R108, R428; 09 R226). -/
opaque freeByte (stamp k : Nat) : Byte

/-- A 32-bit value that the spec leaves open, for the `stamp`-th request. -/
opaque freeWord (stamp : Nat) : Word32

/-- A natural number that the spec leaves open (a choice among equals), for the `stamp`-th request. -/
opaque freeNat (stamp : Nat) : Nat

/-- Coefficient `k` (0, 1 or 2) of segment `i` of the 4,096-segment SFU ROM (07 R177, LOOKUP). -/
opaque romCoeff (i k : Nat) : Word32

/-- The approximation that RCP_SEED gives for an operand with the FP32 bits `x` (07 R177). -/
opaque rcpSeed (x : Word32) : Word32

/-- The approximation that RSQ_SEED gives for an operand with the FP32 bits `x` (07 R177). -/
opaque rsqSeed (x : Word32) : Word32

/-- The first input, in the order of FP32 keys, from which shipped function `slot` gives at least the FP32 number with key `k` on
monotonic interval `branch`, as far as the bound leaves it open (07 R182, R183). -/
opaque shipped (slot : Nat) (branch k : Int) : Int

/-- The value of e to the power (a - b) where the spec gives a bound and no value (07 R187). -/
opaque expDiff (a b : Word32) : Word32

/-- The value of DST and DST + 1 of RR_EXP and RR_TRIG where the reduction is of an irrational constant (07 R177). -/
opaque reduced (step : Nat) (x : Word32) : Word32 × Word32

/-- Byte `k` of the serial number and part number of the chip at tray position `c` (03 R95 IDENTIFY). -/
opaque identity (c k : Nat) : Byte

/-- Coltal's enterprise number, which the service root reports (15 R399). -/
opaque enterpriseNumber : Nat

/-- A soft error that a memory takes: in a Comb store word, an HBM granule, or a granule of a stack's system space (08 R211,
R212, R215); an uncorrectable one in a weight buffer bank or its scale buffer, in the words of one quadrant's tile; or a parity
error in the accumulators of one quadrant of a group of results (05 R150). -/
inductive Upset where
  | sramOne (die : Fin 4) (word : Nat)
  | sramTwo (die : Fin 4) (word : Nat)
  | hbmOne (granule : Nat)
  | hbmMore (granule : Nat)
  | hbmOnDie (granule : Nat)
  | systemOne (stack : Fin 8) (granule : Nat)
  | systemMore (stack : Fin 8) (granule : Nat)
  | systemOnDie (stack : Fin 8) (granule : Nat)
  | weight (comb : Fin 128) (bank : Fin 2) (quadrant : Fin 4)
  | accumulator (comb : Fin 128) (group : Nat) (quadrant : Fin 4)
  deriving DecidableEq, Repr

/-- Whether a memory of the chip takes a soft error in the nanosecond of the `stamp`-th request, and which. -/
opaque upset (stamp : Nat) : Option Upset

end Sys2Proof.Config
end

