-- ==== Sys2Proof/Machine/State.lean ====
section
/-! DEFINITION. The state of the tray as plain data: every piece of state the spec names, and its value before power.
Each field's docstring gives its meaning, the file and rule of spec/ that names it, and its reset value. -/
namespace Sys2Proof.Machine

/-! ## Power, boot and BAR0 of a chip -/

/-- The power states of a chip (02 R57). -/
inductive PState where
  | off | booting | active | idle | dormant | resetting
  deriving DecidableEq, Repr

/-- The reset kinds of a chip, the two fundamental ones apart (02 R52, R53). -/
inductive ResetKind where
  | powerOn | perst | ndevas | flr | watchdog
  deriving DecidableEq, Repr

/-- How far a chip's rails are (02 R46). -/
inductive Rails where
  | down | sequencing | up
  deriving DecidableEq, Repr

/-- Power, reset and boot progress of one chip. -/
structure Boot where
  /-- The rails of the chip (02 R46; reset down). -/
  rails : Rails
  /-- How many rail groups of the chip are enabled, in the order always-on, I/O die, HBM, compute dies (02 R46; reset 0). -/
  railsOn : Nat
  /-- PSTATE, width 3 (02 R52, R57; reset Off). -/
  pstate : PState
  /-- READY, width 1 (02 R48, R52; reset 0). -/
  ready : Bool
  /-- RESET_CAUSE, width 4 (02 R52; reset 0x0). -/
  cause : ResetKind
  /-- FW_FAILED, width 1 (02 R52; reset 0). -/
  fwFailed : Bool
  /-- BOOT_STAGE, width 8 (02 R52; reset 0x00). -/
  bootStage : Byte
  /-- Steward firmware is running (02 R48; reset no). -/
  fwRunning : Bool
  /-- Every HBM stack has trained (02 R48; reset no). -/
  hbmTrained : Bool
  /-- Comb store and HBM have been zeroed (02 R48; reset no). -/
  zeroed : Bool
  /-- HBM training failed: the class 0x0C boot failure (16 R401; reset no). -/
  hbmFailed : Bool
  /-- The PCIe link has reached L0 (02 R47; reset no). -/
  linkL0 : Bool
  /-- The link that has reached L0 rests in L1 (02 R57; reset no). -/
  linkL1 : Bool
  /-- PERST# is asserted at the connector (17 R419; reset asserted). -/
  perst : Bool
  /-- PERST# was deasserted before 100 ms after power good, and is not honoured yet (02 R47; reset no). -/
  perstEarly : Bool
  /-- The chip has honoured PERST# deassertion: its PCIe controller is out of reset (02 R47; reset no). -/
  pcieUp : Bool
  /-- The moment power good was asserted, in ns of `State.now` (02 R47; reset 0). -/
  pgTime : Nat
  /-- The Ndevas asserts the chip reset line (02 R53; reset no). -/
  resetLine : Bool
  /-- A DORMANT_NOW request is held for the next entry to Idle (02 R59; reset no). -/
  dormantHeld : Bool
  /-- Dormant entry has started and is not complete (02 R59; reset no). -/
  dormantEntry : Bool
  /-- A wake event has arrived and the exit from Dormant is running (02 R59, R60; reset no). -/
  waking : Bool
  /-- A fatal host-link error has stopped dispatch and posting (16 R411; reset no). -/
  linkFatal : Bool
  /-- ISOLATE_NOTICE has been received (15 R385; reset no). -/
  isolating : Bool
  /-- The watchdog and an FLR overlapped: clear what either clears (02 R55; reset no). -/
  combined : Bool
  /-- FW_VERSION of the running image, width 32 (03 R65; reset 0). -/
  fwVersion : Word32
  /-- FW_BUILD, width 32 (03 R95; reset 0). -/
  fwBuild : Word32
  /-- The Steward's own minor interface version, width 8 (03 R95; reset 0). -/
  ifMinor : Byte
  /-- The chip asserts its thermal-trip line (12 R316; reset no). -/
  tripLine : Bool
  deriving DecidableEq, Repr

/-- One MSI-X table entry (03 R71, 02 R430). -/
structure Msix where
  /-- Message Address and Message Upper Address, width 64 (02 R430; reset 0). -/
  addr : Word64
  /-- Message Data, width 32 (02 R430; reset 0). -/
  data : Word32
  /-- Mask bit, width 1 (02 R430; reset 1). -/
  masked : Bool
  deriving DecidableEq, Repr

/-- The BAR0 registers and PCIe function state of one chip. -/
structure Bar where
  /-- EARLY_DOORBELLS, width 32 (02 R52; reset 0). -/
  earlyDb : Word32
  /-- BAD_DOORBELLS, width 32 (03 R65; reset 0). -/
  badDb : Word32
  /-- HEARTBEAT, width 32 (03 R65; reset 0). -/
  heartbeat : Word32
  /-- STEWARD_FAULT, width 32 (03 R65, 16 R408; reset 0). -/
  stewardFault : Word32
  /-- QP0_SQ_BASE, width 64 (03 R65; reset 0). -/
  sqBase : Word64
  /-- QP0_CQ_BASE, width 64 (03 R65; reset 0). -/
  cqBase : Word64
  /-- QP0_DEPTH, width 32 (03 R65; reset 0). -/
  depth : Word32
  /-- QP0_CONTROL.ENABLE, width 1 (03 R65; reset 0). -/
  enable : Bool
  /-- QP0_CONTROL.ENABLED, width 1 (03 R65; reset 0). -/
  enabled : Bool
  /-- QP0_CONTROL.SETUP_ERROR, width 1 (03 R65; reset 0). -/
  setupError : Bool
  /-- QP0_CONTROL.IRQ_ENABLE, width 1 (03 R65; reset 0). -/
  irqEnable : Bool
  /-- QP0_CONTROL.VECTOR, width 11 (03 R65; reset 0). -/
  vector : BitVec 11
  /-- The change of queue pair 0 in progress: `some true` an enabling, `some false` a disabling (03 R66; reset none). -/
  change : Option Bool
  /-- An enabling was refused: ENABLE must be written 0 before another starts (03 R66; reset no). -/
  needsToggle : Bool
  /-- The registers as the enabling in progress found them: SQ base, CQ base, depth (03 R66; reset 0). -/
  latched : Word64 × Word64 × Word32
  /-- The stored doorbell values, width 32 each: key 2q for SQ_TAIL of pair q, 2q + 1 for CQ_HEAD (03 R68; reset 0). -/
  doorbells : Tab Word32
  /-- The MSI-X table, 2,048 entries (03 R64, 02 R430; reset all masked, 0). -/
  msix : Tab Msix
  /-- The MSI-X pending-bit array: the pending vectors (03 R64, R71; reset none). -/
  pba : List Nat
  /-- MSI-X Enable, width 1 (03 R71; reset 0). -/
  msixEnable : Bool
  /-- Function Mask, width 1 (03 R71; reset 0). -/
  functionMask : Bool
  /-- The host has enabled ASPM L1 (02 R57, 03 R63; reset no). -/
  aspmL1 : Bool
  /-- PCIe configuration space, BARs included, by dword offset, width 32 each (02 R54; reset 0). -/
  cfg : Tab Word32
  deriving DecidableEq, Repr

/-! ## The Steward: queue pairs, commands, completions, events -/

/-- One queue pair (03 R72 to R74). -/
structure QPair where
  /-- The pair exists, and is fetched from (03 R74, R75; reset no). -/
  live : Bool
  /-- It is being deleted: no fetch, completions of fetched commands still posted (03 R75; reset no). -/
  deleting : Bool
  /-- Owning Super, width 3 (03 R74; reset 0). -/
  super : Nat
  /-- WEIGHT, width 4 (03 R74; reset 0). -/
  weight : Nat
  /-- IRQ_ENABLE, width 1 (03 R74; reset 0). -/
  irqEnable : Bool
  /-- IRQ_COUNT, width 8 (03 R74; reset 0). -/
  irqCount : Nat
  /-- IRQ_TIME, width 16 (03 R74; reset 0). -/
  irqTime : Nat
  /-- VECTOR, width 16 (03 R74; reset 0). -/
  vector : Nat
  /-- SQ_DEPTH, width 16 (03 R74; reset 0). -/
  sqDepth : Nat
  /-- CQ_DEPTH, width 16 (03 R74; reset 0). -/
  cqDepth : Nat
  /-- SQ_BASE, width 64 (03 R74; reset 0). -/
  sqBase : Nat
  /-- CQ_BASE, width 64 (03 R74; reset 0). -/
  cqBase : Nat
  /-- The Steward's fetch position, an index below the depth (03 R70; reset 0). -/
  fetch : Nat
  /-- The tail the host last gave (03 R70; reset 0). -/
  tail : Nat
  /-- Completion entries posted since creation; the next index and PHASE follow from it (03 R72; reset 0). -/
  posted : Nat
  /-- Completion entries the host has released since creation (03 R36, R68; reset 0). -/
  released : Nat
  /-- Completions since the last message, under IRQ_COUNT and IRQ_TIME (03 R74; reset 0). -/
  unsignalled : Nat
  deriving DecidableEq, Repr

/-- Where a fetched command stands. -/
inductive CmdPhase where
  /-- Fetched; not started. -/
  | fetched
  /-- Started; it waits for a condition of its own rule and has posted no completion. -/
  | running
  deriving DecidableEq, Repr

/-- A fetched command that has not posted its completion (03 R70, R82). -/
structure Cmd where
  /-- The order of its fetch on this chip, counted from the last reset. -/
  id : Nat
  /-- The queue pair it was fetched from (03 R79). -/
  qp : Nat
  /-- The 64-byte submission entry (03 R76). -/
  entry : Bytes
  phase : CmdPhase
  deriving DecidableEq, Repr

/-- A completion not yet written: what a completion entry carries beside its place (03 R79). -/
structure Cpl where
  qp : Nat
  status : Nat
  tag : Nat
  r0 : Nat
  r1 : Nat
  late : Bool
  quiet : Bool
  /-- Fabric time at which the command completed or was refused. -/
  time : Nat
  /-- The number and the opcode of its command (03 R76, R89). -/
  id : Nat
  op : Nat
  deriving DecidableEq, Repr

/-- The occurrences of one event code (03 R81). -/
structure EvRec where
  code : Nat
  /-- Occurrences since the last posted entry: an entry is due while it is not 0. -/
  count : Nat
  /-- Source index of the first occurrence held. -/
  source : Nat
  /-- Detail of the first occurrence held. -/
  detail : Nat
  /-- The posted and unreleased entry of this code, as its number among the posted entries of completion queue 0. -/
  posted : Option Nat
  deriving DecidableEq, Repr

/-- The arbiter of a queue that several producers share (01 R34): grants go round, and a refused producer rises. -/
structure Arb where
  /-- Arbitrations that each waiting producer has lost since its last grant (01 R34; reset 0). -/
  lost : Tab Nat
  /-- Grants that each producer has left in this round (01 R34, 03 R73; reset 0). -/
  left : Tab Nat
  deriving DecidableEq, Repr

/-- Queues, commands and events of one chip's Steward. -/
structure Steward where
  /-- Queue pairs 0 to 63 (03 R68; reset none exists). -/
  qps : Tab QPair
  /-- Commands fetched and not completed, oldest first (03 R82; reset none). -/
  cmds : List Cmd
  /-- The next command number (reset 0). -/
  nextId : Nat
  /-- Completions held because their completion queue is full, oldest first (03 R36; reset none). -/
  held : List Cpl
  /-- Event codes held, posted or counted (03 R81; reset none). -/
  events : List EvRec
  /-- The agreed minor version, width 8 (03 R95, R96; reset none). -/
  agreed : Option Byte
  /-- The arbiter of the fetches from queue pairs 1 to 63 (03 R73, 01 R34; reset nothing lost). -/
  fetchArb : Arb
  deriving DecidableEq, Repr

/-! ## Configuration sets -/

/-- One configuration set: the raw image of each section, sparse (03 R90, R92). -/
structure CfgSet where
  /-- Section 0x1, the Super map, 512 B (04 R98; reset default of 03 R90). -/
  superMap : Mem
  /-- Section 0x2, the power policy, 64 B (12 R304; reset default). -/
  power : Mem
  /-- Section 0x3, the fabric routes, 140,544 B (11 R279; reset default). -/
  routes : Mem
  /-- Section 0x4, the counter selections, 32,768 B (13 R332; reset default). -/
  counters : Mem
  /-- Section 0x5, slots 16 to 63 of the microprogram table, 21,504 B (07 R178; reset all empty). -/
  micro : Mem
  /-- Section 0x6, the Lull arming, 64 B (13 R343; reset disarmed). -/
  lull : Mem
  deriving DecidableEq, Repr

/-- A commit that waits for its commit points (03 R94). -/
structure Commit where
  /-- The CONFIG_COMMIT command. -/
  cmd : Nat
  /-- Sections 0x1 to 0x6 not yet exchanged, route section excluded. -/
  waiting : List Nat
  /-- The EPOCH of the route change that it makes (03 R94); none where it makes none. -/
  route : Option Nat
  deriving DecidableEq, Repr

/-- The configuration of one chip. -/
structure Config where
  /-- The active set (03 R90; reset defaults). -/
  active : CfgSet
  /-- The shadow set (03 R90; reset defaults). -/
  shadow : CfgSet
  /-- ACTIVE_GEN, width 32 (03 R90; reset 0). -/
  activeGen : Word32
  /-- SHADOW_GEN, width 32 (03 R90; reset 0). -/
  shadowGen : Word32
  /-- The commit in progress (03 R94; reset none). -/
  commit : Option Commit
  /-- Committed route sections that wait for their EPOCH_TIME, oldest first (11 R283; reset none). -/
  pendingRoutes : List Mem
  /-- The fabric epoch before the current one, and the fabric time at which it was replaced (10 R270; reset none). -/
  prevEpoch : Option (Nat × Nat)
  deriving DecidableEq, Repr

/-! ## Streams, frames, models, steps -/

/-- The states of a stream (04 R107). -/
inductive StreamState where
  | free | opened | running | cancelling | closed
  deriving DecidableEq, Repr

/-- A tentative range and what its verify step staged (04 R117, R124, R125). -/
structure Tent where
  /-- The first position of the range. -/
  base : Nat
  /-- DRAFT_COUNT, the length of the range, 1 to 8. -/
  count : Nat
  /-- The candidates ranked at the decode token's position and at each draft position, in order. -/
  cands : List (List Cand)
  /-- The logit of each draft token at its position. -/
  logits : List Word32
  /-- OUT_K of the verified step. -/
  outK : Nat
  /-- Tail indexes appended only for the drafts: the first, and how many (04 R121). -/
  first : Nat
  frames : Nat
  /-- MODEL_GEN of the STEP_SUBMIT that wrote the range (09 R231). -/
  modelGen : Nat
  /-- LAYER_BITMAP of that STEP_SUBMIT (09 R231). -/
  bitmap : Nat
  deriving DecidableEq, Repr

/-- One stream (04 R102). -/
structure Stream where
  /-- STATE (04 R102; reset FREE). -/
  state : StreamState
  /-- GEN, width 16 (04 R102; reset 0). -/
  gen : Nat
  /-- CANCEL_MARK, width 1 (04 R102; reset 0). -/
  cancel : Bool
  /-- The bound MODEL_ID, width 8 (04 R102; reset 0). -/
  model : Nat
  /-- POSITION, 0 to 1,048,576 (04 R102; reset 0). -/
  position : Nat
  /-- The frame table: per index the frame number of each layer (04 R103; reset empty). -/
  table : List (List Nat)
  /-- The tentative range (04 R102; reset none). -/
  tent : Option Tent
  deriving DecidableEq, Repr

/-- A segment entry of a loaded manifest (09 R221). -/
structure Seg where
  kind : Nat
  die : Nat
  unit : Nat
  layer : Nat
  rank : Nat
  src : Nat
  dst : Nat
  bytes : Nat
  codeBase : Nat
  deriving DecidableEq, Repr

/-- The states of a swap (09 R241). -/
inductive SwapState where
  | idle | draining | opened | writing | done | broken
  deriving DecidableEq, Repr

/-- The swap of one model (09 R233 to R241). -/
structure Swap where
  /-- The swap state (09 R241; reset IDLE). -/
  state : SwapState
  /-- MODE: 1 Rolling, 0 Uniform (09 R233; reset 0). -/
  rolling : Bool
  /-- FRONT, the units already replaced (09 R233; reset 0). -/
  front : Nat
  /-- NEW_GEN, width 32 (09 R233; reset 0). -/
  newGen : Nat
  /-- HOLD_LIMIT in µs, width 32 (09 R233; reset 0). -/
  holdLimit : Nat
  /-- The accepted SWAP_LAYER commands that wait or run: command, new segments, their contents (09 R237; reset none). -/
  layers : List (Nat × List Seg × List SegData)
  deriving DecidableEq, Repr

/-- A tree load in progress (09 R228). -/
structure Tree where
  /-- The MODEL_LOAD command. -/
  cmd : Nat
  /-- LOAD_KEY, width 32. -/
  key : Nat
  /-- PARENT, a fabric chip ID; none for the root. -/
  parent : Option Nat
  /-- The children: chip ID, and whether sending to it has stopped. -/
  children : List (Nat × Bool)
  /-- Granules still to come from the parent; the fabric orders no two messages (11 R289). -/
  left : Nat
  deriving DecidableEq, Repr

/-- One model slot (09 R220). -/
structure Model where
  /-- GEN, width 32: 0 while the ID holds no model (09 R220; reset 0). -/
  gen : Nat
  /-- The ID is being loaded (09 R220; reset no). -/
  loading : Bool
  /-- The Super that loaded it (09 R220; reset 0). -/
  super : Nat
  /-- RANK of this chip, width 16 (09 R225; reset 0). -/
  rank : Nat
  /-- FRAME_SIZE code of the model, width 3 (09 R221; reset 0). -/
  frameSize : Nat
  /-- LAYERS, 1 to 256 (09 R221; reset 0). -/
  layers : Nat
  /-- VOCAB (09 R221; reset 0). -/
  vocab : Nat
  /-- ARENA_BASE, ARENA_BYTES, ARENA_FIXED and ACT_PER_TOKEN per die (09 R221; reset none). -/
  arenas : List (Nat × Nat × Nat × Nat)
  /-- The manifest's segments in order (09 R221; reset none). -/
  segs : List Seg
  /-- The swap of this model (09 R241; reset IDLE). -/
  swap : Swap
  /-- The tree load in progress (09 R228; reset none). -/
  tree : Option Tree
  deriving DecidableEq, Repr

/-- One entry of a step plan, or of a STEP_VERIFY (04 R114, R123). -/
structure PlanEntry where
  stream : Nat
  gen : Nat
  /-- EXPECTED_POSITION, or BASE_POSITION. -/
  expected : Nat
  /-- KIND: 1 decode, 0 prefill. -/
  decode : Bool
  drafts : Nat
  newFrames : Nat
  tokens : Nat
  tokenPtr : Nat
  /-- ACCEPT of a verify entry. -/
  accept : Nat
  /-- The entry is to become, or has become, a CANCELLED record (04 R115). -/
  cancelled : Bool
  /-- Indexes appended at dispatch (04 R116). -/
  appended : Nat
  /-- The table length before the dispatch (04 R118). -/
  oldLen : Nat
  deriving DecidableEq, Repr

/-- An output record that the Steward has still to write (04 R119). -/
structure OutRec where
  stream : Nat
  gen : Nat
  cancelled : Bool
  late : Bool
  count : Nat
  position : Nat
  modelGen : Nat
  bitmap : Nat
  /-- Tokens that the entry committed (04 R120). -/
  tokens : Nat
  cands : List (List Cand)
  deriving DecidableEq, Repr

/-- A descriptor in a work queue, a Comb's buffer or a hold slot. -/
structure QDesc where
  /-- The 64 bytes of the operation descriptor (05 R133). -/
  bytes : Bytes
  /-- The step it belongs to. -/
  step : Nat
  super : Nat
  /-- Its 40-bit code address (09 R222, 13 R337). -/
  code : Nat
  /-- The layer it belongs to: the step is inside the layer's unit while one of its descriptors is outstanding (09 R230). -/
  layer : Nat
  deriving DecidableEq, Repr

/-- A copy descriptor in a Forager queue (08 R203). -/
structure CopyJob where
  bytes : Bytes
  super : Nat
  /-- The FORAGER_COPY command, or the step of a Steward-built copy. -/
  cmd : Option Nat
  step : Option Nat
  /-- The die whose token counters it uses. -/
  die : Nat
  /-- The layer of a Steward-built copy (09 R222, R230). -/
  layer : Nat
  /-- Its index among the command's descriptors (08 R207). -/
  index : Nat
  /-- Its code address in trace records, 0 where it has none (13 R337, R338). -/
  code : Nat
  /-- The group and the rank that a copy of partial sums names in place of a chip (11 R290). -/
  coll : Option (Nat × Nat)
  deriving DecidableEq, Repr

/-- The descriptors of one layer of a unit that the step has entered, not yet written into the queues (08 R209). -/
structure LayerWork where
  layer : Nat
  ops : List (Nat × QDesc)
  copies : List CopyJob
  deriving DecidableEq, Repr

/-- Where a step stands (04 R116, R117, R127): past its commit point, its records are not yet written. -/
inductive StepPhase where
  | waiting | ready | dispatched | committed
  deriving DecidableEq, Repr

/-- A STEP_SUBMIT or STEP_VERIFY in progress (04 R113, R123). -/
structure StepRec where
  /-- Its command. -/
  id : Nat
  qp : Nat
  super : Nat
  model : Nat
  outK : Nat
  /-- TOTAL_TOKENS. -/
  total : Nat
  verify : Bool
  entries : List PlanEntry
  phase : StepPhase
  /-- Arena 0 or 1 (09 R223). -/
  arena : Nat
  /-- The plan has become ready, if only for a time (09 R234). -/
  wasReady : Bool
  /-- Old-bound under a Uniform swap (`some true`), new-bound (`some false`), or not bound as a whole (09 R234). -/
  bound : Option Bool
  /-- The generation bound at each unit entered: (unit, generation) (09 R230, R231). -/
  units : List (Nat × Nat)
  /-- Layers of the unit entered that wait for the layer before the last to end (08 R209). -/
  due : List LayerWork
  /-- The unit at whose barrier the step is held (09 R233). -/
  heldAt : Option Nat
  /-- The first error detected: status, RESULT0, RESULT1 (16 R404). -/
  error : Option (Nat × Nat × Nat)
  /-- The array cycles this step advanced, per die (13 R334). -/
  cycles : Tab Nat
  /-- The records of a committed step (04 R127). -/
  records : List OutRec
  deriving DecidableEq, Repr

/-- Streams, frames, models and steps of one chip. -/
structure Serving where
  /-- Streams 0 to 4,095 (04 R102; reset all FREE). -/
  streams : Tab Stream
  /-- Reference count of each frame: key Super × 4,194,304 + frame number (04 R108, 08 R199; reset 0). -/
  refs : Tab Nat
  /-- Models 0 to 63 (09 R220; reset none). -/
  models : Tab Model
  /-- Steps and verifies in progress, oldest first (04 R116; reset none). -/
  steps : List StepRec
  deriving DecidableEq, Repr

/-! ## Comb array, SFU, selection unit -/

/-- The five sticky exception flags (06 R166). -/
structure FFlags where
  invalid : Bool
  divZero : Bool
  overflow : Bool
  underflow : Bool
  inexact : Bool
  deriving DecidableEq, Repr

/-- The tag of a weight buffer bank (05 R139). -/
structure BankTag where
  bAddr : Nat
  bPitch : Nat
  sbAddr : Nat
  k : Nat
  n : Nat
  fmtB : Nat
  shape : Nat
  qStride : Nat
  deriving DecidableEq, Repr

/-- One weight buffer bank and its scale buffer (05 R137). -/
structure Bank where
  /-- The tag, none while invalid (05 R139; reset none). -/
  tag : Option BankTag
  /-- The tile's bytes, as loaded, 64 KiB at most (05 R137; reset empty). -/
  tile : Bytes
  /-- The tile's scales of B, 4 KiB at most (05 R137; reset empty). -/
  scales : Bytes
  /-- The quadrants with an uncorrectable or poisoned word in their tile or scales (05 R150; reset none). -/
  bad : List Nat
  /-- The tile was loaded for a descriptor that has not issued yet, with this tag (05 R139, R140; reset none). -/
  fresh : Option BankTag
  /-- The SCALE of the descriptor that the tile and its scales were loaded for (05 R137; reset 0). -/
  scale : Nat
  deriving DecidableEq, Repr

/-- One element's accumulator at the end of its group (05 R148, 06 R161, R167). -/
structure AccElem where
  /-- FP32 bits, or the INT32 value in two's complement. -/
  bits : Word32
  /-- R162 flushed at least one result of this element. -/
  flushed : Bool
  /-- The INT32 sum saturated (06 R167). -/
  saturated : Bool
  deriving DecidableEq, Repr

/-- What the elements of a descriptor have met so far (06 R169): flushed, non-finite, saturated to E4M3, saturated INT32. -/
structure Tally where
  flush : Nat
  nonfinite : Nat
  conv : Nat
  int : Nat
  deriving DecidableEq, Repr

/-- One result group in a Comb's pipeline or drain queue (05 R136, R146). -/
structure Group where
  desc : QDesc
  /-- The first row of the group in the descriptor. -/
  row : Nat
  /-- The accumulators: quadrant (one outside Quad-16), row, column. -/
  quads : List (List (List AccElem))
  /-- The poisoned quadrants (05 R150). -/
  poisoned : List Nat
  /-- The last group of its descriptor. -/
  last : Bool
  /-- The sticky flags of the descriptor so far (06 R166). -/
  flags : FFlags
  /-- The arithmetic counts of the descriptor so far (06 R169). -/
  tally : Tally
  /-- An earlier group of the descriptor was poisoned (13 R338). -/
  dirty : Bool
  /-- Array cycles from the first K-step to the last, and frozen cycles, of the descriptor (13 R338). -/
  cycles : Nat
  frozen : Nat
  deriving DecidableEq, Repr

/-- The SFU context of a Comb: its row operation between tiles (07 R185). -/
structure SfuCtx where
  desc : QDesc
  /-- The row, the pass and the tile that the next grant serves. -/
  row : Nat
  pass : Nat
  tile : Nat
  /-- Running maximum (SOFTMAX), or the sum and then the mean (norms), as FP32 bits (07 R184, R186). -/
  m : Word32
  /-- Running sum (SOFTMAX), or the second sum (LAYERNORM). -/
  l : Word32
  /-- The factor of the last pass. -/
  r : Word32
  /-- The maximum at which each tile was computed (07 R186). -/
  tmax : List Word32
  /-- A granule read for this row was bad (07 R429). -/
  bad : Bool
  /-- Elements of the row for which R162 flushed a result (06 R169). -/
  flush : List Nat
  /-- R162 flushed a result that every element of the row shares: a sum, a mean, a factor (06 R169). -/
  rowFlush : Bool
  /-- An output was poisoned (13 R338). -/
  dirty : Bool
  /-- Sticky Strict flags and counts of the descriptor so far (06 R166, R169). -/
  flags : FFlags
  tally : Tally
  /-- Array cycles of service so far (07 R185). -/
  cycles : Nat
  deriving DecidableEq, Repr

/-- One Comb (05). -/
structure Comb where
  /-- The four-entry descriptor buffer (05 R142; reset empty). -/
  buf : List QDesc
  /-- The one-entry hold slot for a row operation (05 R144; reset empty). -/
  hold : Option QDesc
  /-- Weight buffer banks 0 and 1 (05 R137; reset empty, tags invalid). -/
  bank0 : Bank
  bank1 : Bank
  /-- The bank being loaded through feeder 1, and for which descriptor (05 R140; reset none). -/
  loading : Option (Nat × QDesc)
  /-- SHAPE of the last matrix descriptor (05 R131; reset none). -/
  lastShape : Option Nat
  /-- Groups at the end of the pipeline that wait for the drain queue, oldest first (05 R146; reset empty). -/
  pipe : List Group
  /-- The drain queue of eight groups, oldest first (01 R35, 05 R146; reset empty). -/
  drain : List Group
  /-- SFU operations requested, oldest first: the first one has the Comb's SFU context (07 R185; reset none). -/
  sfu : List SfuCtx
  /-- Selection operations requested, oldest first, and how far they are (07 R190; reset none). -/
  sel : List SfuCtx
  deriving DecidableEq, Repr

/-- One lane of an SFU while a micro-program runs (07 R177). -/
structure Lane where
  /-- v0 to v15, width 32 each, v15 apart (07 R177; reset +0). -/
  regs : Tab Word32
  /-- The coefficient latch c0, c1, c2 (07 R177; reset empty). -/
  latch : Option (Word32 × Word32 × Word32)
  /-- The result, once END has run (07 R177; reset none). -/
  result : Option Word32
  /-- Sticky Strict flags (06 R166; reset none). -/
  flags : FFlags
  /-- R162 flushed a result. -/
  flushed : Bool
  deriving DecidableEq, Repr

/-- The shared units of one compute die. -/
structure Die where
  /-- The die work queue, 1,024 entries (01 R35; reset empty). -/
  work : List QDesc
  /-- Descriptors of dispatched steps that wait for a work-queue credit (01 R33; reset empty). -/
  backlog : List QDesc
  /-- Token counters: key step × 64 + ID, width 16 each (05 R143; reset 0). -/
  tokens : Tab Nat
  /-- SFU request queue, 32 entries: the Combs of the die that wait for a tile, in the order of the rounds (01 R35, 07 R185; reset
  empty). -/
  sfuQ : List Nat
  /-- The Comb whose tile is granted (07 R185; reset none). -/
  granted : Option Nat
  /-- Selection request queue, 16 entries: the Combs that wait for a row, in the order of the rounds (01 R35, 07 R190; reset
  empty). -/
  selQ : List Nat
  /-- The arbiters that grant the credits of the two request queues to the hold slots (01 R34; reset nobody has lost). -/
  sfuArb : Arb
  selArb : Arb
  /-- SFU lanes 0 to 63 (07 R177; reset empty). -/
  lanes : Tab Lane
  /-- The droop stretch holds (12 R314; reset no). -/
  stretched : Bool
  /-- Array clock in MHz, 600 to 2,100 in steps of 25 (01 R40; reset 1,750). -/
  mhz : Nat
  /-- Moments of the droops of the last 1 ms (12 R314; reset none). -/
  droops : List Nat
  /-- A droop-storm lowering of 100 MHz is in force (12 R314; reset no). -/
  storm : Bool
  /-- How many MHz the storm has lowered the die (12 R314; reset 0). -/
  stormCut : Nat
  /-- The limiter moves the die again no earlier than this moment (12 R310; reset 0). -/
  nextStep : Nat
  /-- A level 1 to 3 control has lowered the die below F_MIN (12 R307, R308, R310; reset no). -/
  low : Bool
  deriving DecidableEq, Repr

/-! ## Memory and Foragers -/

/-- One Forager (08 R202). -/
structure Forager where
  /-- The Forager queue, 64 entries (01 R35; reset empty). -/
  queue : List CopyJob
  /-- The copy whose bytes are moved and not yet all acknowledged (08 R205; reset none). -/
  running : Option CopyJob
  /-- Its WRITEs that wait for a WRITE_RESP, as tags (10 R272; reset none). -/
  unacked : List Nat
  /-- Its first failure: status and byte offset, and the affected granules (08 R207; reset none). -/
  failed : Option (Nat × Nat)
  badGranules : Nat
  deriving DecidableEq, Repr

/-- A FORAGER_COPY in progress (08 R206). -/
structure CopyCmd where
  cmd : Nat
  /-- Descriptors not yet complete. -/
  left : Nat
  /-- The failure to report: priority class, status, descriptor index, offset. -/
  failed : Option (Nat × Nat × Nat × Nat)
  badGranules : Nat
  deriving DecidableEq, Repr

/-- A range of bytes with undefined contents: from `lo` to below `hi`, drawn from free values of `stamp`. -/
structure Span where
  lo : Nat
  hi : Nat
  stamp : Nat
  deriving DecidableEq, Repr

/-- One addressed memory: its bytes, and what its check bits say of them. A latent error is one that no reader has found yet. -/
structure Store where
  /-- Listed bytes, none zero and none inside an undefined range. -/
  cells : Mem
  /-- Undefined ranges, disjoint from the listed bytes (04 R108, R428; 09 R226; reset none). -/
  undef : List Span
  /-- Poisoned 64 B granules, by address (08 R213; reset none). -/
  poison : List Nat
  /-- Latent uncorrectable errors: Comb store words of 8 B, HBM granules of 64 B (08 R211, R212; reset none). -/
  ue : List Nat
  /-- Latent correctable errors, by the same units (08 R211, R212; reset none). -/
  ce : List Nat
  /-- Corrections read and not yet written back (08 R211; reset none). -/
  fix : List Nat
  /-- HBM granules whose accesses the stack reports as corrected on the die (08 R212; reset none). -/
  onDie : List Nat
  deriving DecidableEq, Repr

/-- The memories of one chip. -/
structure Memory where
  /-- Comb store of dies 0 to 3, 320 MiB each (08 R196; reset 0, zeroed before READY). -/
  sram0 : Store
  sram1 : Store
  sram2 : Store
  sram3 : Store
  /-- The HBM data space, 288 GiB (08 R198; reset 0, zeroed before READY). -/
  hbm : Store
  /-- Moments of the corrections of the last 1 s per die and stack: key die, or 4 + stack (08 R217; reset none). -/
  ceTimes : Tab (List Nat)
  /-- What the check bits of the HBM system space say, by stack × 2^24 + offset; its bytes are the trace ring's records and the
  Steward's own (08 R198, R215; reset no error). -/
  system : Store
  /-- Where patrol scrubbing stands, as a granule number: key die, 4 + stack, or 12 + stack for its system space (08 R215; reset
  0). -/
  scrubAt : Tab Nat
  deriving DecidableEq, Repr

/-- Comb array, SFUs, Foragers of one chip. -/
structure Engines where
  /-- Combs 0 to 127 (01 R25; reset empty). -/
  combs : Tab Comb
  /-- Compute dies 0 to 3 (01 R25; reset empty, 1,750 MHz). -/
  dies : Tab Die
  /-- Foragers 0 to 15 (01 R25; reset empty). -/
  foragers : Tab Forager
  /-- FORAGER_COPY commands in progress (08 R206; reset none). -/
  copies : List CopyCmd
  /-- Copy descriptors that wait for a Forager queue credit, oldest first (01 R33; reset none). -/
  backlog : List CopyJob
  deriving DecidableEq, Repr

/-! ## Hivelink -/

/-- The states of a port (10 R259). -/
inductive LinkState where
  | disabled | down | training | notReady | up | drizzle | fenced
  deriving DecidableEq, Repr

/-- Drizzle negotiation of a port (10 R263, R264). -/
structure Drizzle where
  /-- The port's setting DRIZZLE_ALLOW (10 R262; reset allowed). -/
  allow : Bool
  /-- A DRIZZLE_REQ is sent and not answered (10 R263; reset no). -/
  asked : Bool
  /-- WAKE is sent or received, and the lanes are being restored (10 R264; reset no). -/
  waking : Bool
  /-- FULL_RATE has been sent (10 R264; reset no). -/
  fullSent : Bool
  /-- FULL_RATE has been received (10 R264; reset no). -/
  fullSeen : Bool
  /-- A request is accepted: DRIZZLE begins once the replay buffer has drained (10 R263; reset no). -/
  entering : Bool
  /-- The partner's request was refused while this end's own is unanswered: the port stays UP (10 R263; reset no). -/
  refused : Bool
  deriving DecidableEq, Repr

/-- A slot of 16 B: whether it begins a message, its bytes, and what it carries of this chip's: the tag of a WRITE, or from 65,536
on a number for a model and a tree child. -/
structure Slot where
  start : Bool
  bytes : Bytes
  tag : Option Nat
  deriving DecidableEq, Repr

/-- A sequenced flit in the replay buffer (10 R253). -/
structure Sent where
  seq : Nat
  bytes : Bytes
  vc : Nat
  /-- How often it has been sent (10 R255). -/
  times : Nat
  /-- The tags of its slots. -/
  tags : List Nat
  deriving DecidableEq, Repr

/-- One virtual channel of a port (10 R256). -/
structure Vc where
  /-- Credits held for the partner's receive buffer (10 R257; reset 0 until HELLO). -/
  credits : Nat
  /-- Slots waiting to be sent, oldest first (10 R251; reset none). -/
  tx : List Slot
  /-- Flits in the receive buffer, as the slots each still holds (10 R257; reset none). -/
  rx : List (List Slot)
  deriving DecidableEq, Repr

/-- One Hivelink port. -/
structure Port where
  /-- The link state (10 R259; reset DOWN, enabled). -/
  state : LinkState
  /-- Reason for the last departure from UP, width 4 (10 R262; reset none). -/
  reason : Nat
  /-- The partner's last HELLO: chip ID (bit 15 unknown), state code, tray position, depths (10 R258; reset none). -/
  partnerId : Option Nat
  partnerState : Nat
  partnerDepths : List Nat
  /-- A HELLO has been received since training began (10 R258; reset no). -/
  helloSeen : Bool
  /-- Fences since the last reset (10 R262; reset 0). -/
  fences : Nat
  /-- Consecutive training failures (10 R258; reset 0). -/
  trainFails : Nat
  /-- The port waits after a failed training (10 R258; reset no). -/
  retryWait : Bool
  /-- Drizzle negotiation (10 R263). -/
  driz : Drizzle
  /-- The next SEQ to send, width 12 (10 R253; reset 0). -/
  txSeq : Nat
  /-- The next SEQ expected, width 12 (10 R254; reset 0). -/
  rxSeq : Nat
  /-- The replay buffer, 512 flits, oldest first (10 R253; reset empty). -/
  replay : List Sent
  /-- How many of the replay buffer's flits are to be resent (10 R255; reset 0). -/
  toReplay : Nat
  /-- A NAK has been sent since the last accepted flit (10 R254; reset no). -/
  nakSent : Bool
  /-- A flit has been accepted since numbering began: ACK_SEQ is meaningful (10 R248; reset no). -/
  heard : Bool
  /-- The next training starts numbering and credits anew: the port left its link for good (10 R257; reset yes). -/
  fresh : Bool
  /-- An acknowledgement is due (10 R254; reset no). -/
  ackDue : Bool
  /-- Moments of the NAKs received in the last 1 ms (10 R255; reset none). -/
  naks : List Nat
  /-- Moments of the violations in their windows: key row 1 to 7 (10 R270; reset none). -/
  violations : Tab (List Nat)
  /-- Virtual channels 0 to 5 (10 R256; reset empty). -/
  vcs : Tab Vc
  /-- The arbiter of channels 0 to 3: their weighted round-robin and its ageing (10 R256, 01 R34; reset nothing lost). -/
  arb : Arb
  /-- Sequenced flits sent since numbering began, at most 4,096: what ACK_SEQ may name (10 R270; reset 0). -/
  sent : Nat
  /-- Management flits to send and received, as KIND and body, oldest first (10 R250, R263; reset none). -/
  mgmtTx : List (Nat × Bytes)
  mgmtRx : List (Nat × Bytes)
  /-- The HELLO body received and not yet acted on (10 R258; reset none). -/
  helloRx : Option Bytes
  /-- The SYNC bodies received and not yet acted on, with their arrival stamps (10 R266; reset none). -/
  syncRx : List (Bytes × Nat)
  /-- Last measured offset in ns, signed (10 R262, R267; reset 0). -/
  offset : Int
  /-- Delays of the last 64 accepted exchanges and offsets of the last 8 (10 R267; reset none). -/
  delays : List Int
  offsets : List Int
  /-- Consecutive outliers (10 R267; reset 0). -/
  outliers : Nat
  /-- The Lull CUT body of the partner (13 R348; reset none). -/
  partnerCut : Option Bytes
  /-- The partner's CUT is marked missing (13 R348; reset no). -/
  cutMissing : Bool
  /-- This end's CUT report: oldest unacknowledged, last sent, last accepted, credits (10 R269; reset none). -/
  ownCut : Option (Nat × Nat × Nat × List Nat)
  /-- The state code at the cut (13 R348; reset 0). -/
  cutState : Nat
  deriving DecidableEq, Repr

/-- A WRITE sent for a copy to space 0x4 (10 R272). -/
structure Outstanding where
  tag : Nat
  forager : Nat
  /-- Byte offset of its data in the copy's transfer (08 R207). -/
  offset : Nat
  /-- Its granules that were read without an error (08 R207). -/
  granules : Nat
  deriving DecidableEq, Repr

/-- A message that is in no virtual-channel buffer yet: its bytes, or on channel 4 the body of a ROUTED message (11 R286, R288). -/
structure WaitMsg where
  bytes : Bytes
  dst : Nat
  vc : Nat
  tag : Option Nat
  deriving DecidableEq, Repr

/-- Fabric state of one chip. -/
structure Fabric where
  /-- Ports 0 to 17 (01 R23; reset DOWN, enabled). -/
  ports : Tab Port
  /-- ARRIVED: key group × 64 + rank, width 32 (11 R290; reset 0). -/
  arrived : Tab Word32
  /-- WRITEs that wait for a WRITE_RESP (10 R272; reset none). -/
  outstanding : List Outstanding
  /-- The next WRITE tag, width 16 (10 R251; reset 0). -/
  nextTag : Nat
  /-- Messages that wait for a port UP (11 R288; reset none). -/
  noPort : List WaitMsg
  /-- Messages that wait for room in a virtual-channel buffer, oldest first (01 R32, R33; reset none). -/
  txWait : List WaitMsg
  /-- Fabric time, width 64 (10 R266, 00 units; reset 0). -/
  time : Word64
  /-- The time base is synchronised to its parent (10 R267; reset no). -/
  synced : Bool
  /-- SYNC_LOST is in force (10 R267; reset no). -/
  syncLost : Bool
  /-- The last accepted offset of the time-sync parent in ns (13 R336; reset 0). -/
  parentOffset : Int
  deriving DecidableEq, Repr

/-! ## Power, thermal, energy -/

/-- A quiet window of POWER_CALIBRATE (12 R327). -/
inductive Quiet where
  | none | draining (cmd : Nat) | window (cmd : Nat)
  deriving DecidableEq, Repr

/-- What the quiet window of POWER_CALIBRATE has seen since it started (12 R327). -/
structure QuietWin where
  /-- The moment at which it started. -/
  start : Nat
  /-- The sensor groups at its start, in °C. -/
  temps : List Nat
  /-- `Power.met` and `Power.stat` at its start, and the HBM bytes that the ledger held. -/
  met : List Nat
  stat : List Nat
  hbm : Nat
  /-- A Lull fell in it; a level 1 to 3 control acted or a Gust window was open; a sensor moved by more than 1 °C. -/
  lull : Bool
  control : Bool
  sensor : Bool
  deriving DecidableEq, Repr

/-- A conflict episode that has not ended (12 R308). -/
structure Conflict where
  kind : Nat
  /-- The die, or 0xFF for the chip. -/
  die : Nat
  /-- The moment at which its condition became true. -/
  since : Nat
  /-- Since when the condition is false. -/
  falseSince : Option Nat
  /-- It has been counted and posted. -/
  reported : Bool
  deriving DecidableEq, Repr

/-- One millisecond of the estimator: per rail 0 to 5 the modelled dynamic, the modelled static and the metered energy in units of
2^-84 J, and the lowest and highest array clock (MHz) and sensor reading (°C) seen (12 R325). -/
structure Bucket where
  start : Nat
  dyn : List Nat
  stat : List Nat
  met : List Nat
  mhz : List (Nat × Nat)
  temp : List (Nat × Nat)
  deriving DecidableEq, Repr

/-- What the chip's own model of its dynamic energy has counted (12 R322, R324). The model's own field. -/
structure Ledger where
  /-- Dynamic energy by consumer since the last split: key consumer × 8 + rail, consumers 0 to 63 queue pairs, 64 to 71 draft
  work of Supers, 72 to 79 the Supers' own shares, 80 no one's; in fJ / 14,000² on rails 0 to 3, in fJ on rails 4 and 5 (reset
  0). -/
  spent : Tab Nat
  /-- HBM bytes read and written since reset (reset 0). -/
  hbmBytes : Nat
  /-- Array cycles of each die since reset, in quarters of a thousandth (12 R309; reset 0). -/
  clocks : Tab Nat
  /-- Dies that have run work of a dispatched step since the last report (12 R309; reset none). -/
  ran : List Nat
  deriving DecidableEq, Repr

/-- An allotment sent by the Ndevas (12 R317). -/
structure Allot where
  a : Nat
  p : Nat
  clamp : Bool
  hold : Bool
  deriving DecidableEq, Repr

/-- Power control of one chip. -/
structure Power where
  /-- A_n in W (12 R317; reset 0, set under R319). -/
  a : Nat
  /-- P_n in W (12 R317; reset 0, set under R319). -/
  p : Nat
  /-- The CLAMP flag (12 R317; reset 0). -/
  clamp : Bool
  /-- The coolant-hold flag (12 R317; reset 0). -/
  hold : Bool
  /-- No allotment for 50 ms: NDEVAS_LOST in force (12 R319; reset no). -/
  ndevasLost : Bool
  /-- The allotment sent and not yet received (12 R317; reset none). -/
  sent : Option Allot
  /-- The last 1,000 samples of INPUT in mW, newest first (12 R301; reset 0 W throughout, the rails being off). -/
  samples : List Nat
  /-- The sum of those samples (reset 0). -/
  sum1ms : Nat
  /-- Energy sampled since power-on outside Lulls, in nJ: INPUT, DIE0 to DIE3, IOD, HBM (12 R301, R323; reset 0). -/
  met : List Nat
  /-- INPUT energy sampled in a Lull and not yet in MEAS_LULL, in nJ (13 R345; reset 0). -/
  lullMet : Nat
  /-- Modelled static energy of rails 0 to 5 since power-on outside Lulls, in units of 2^-84 J (12 R324; reset 0). -/
  stat : List Nat
  /-- `met` and `stat` at the last split (12 R323; reset 0). -/
  splitMet : List Nat
  splitStat : List Nat
  /-- The sum in mW and the number of INPUT samples since the last report, and DIE_WAIT and the array cycles of dies 0 to 3 at it
  (12 R309, R317; reset 0). -/
  repSum : Nat
  repCount : Nat
  repWaits : List Nat
  repClocks : List Nat
  /-- DIE_WAIT and the array cycles of dies 0 to 3 at limiter steps of the last 1 ms, with their moments, newest first (12 R310;
  reset none). -/
  waitLog : List (Nat × List Nat × List Nat)
  /-- The last share-gating step and the measured energy of Supers 0 to 7 at it (12 R312; reset 0). -/
  shareAt : Nat
  shareBase : List Nat
  /-- Since when HBM stack 0 to 7 is above its throttle start, and the percentage of its rate left to its accesses (12 R316; reset
  not, 100). -/
  hbmSince : Tab (Option Nat)
  hbmRate : Tab Nat
  /-- The fast limit holds the clocks halved (12 R313; reset no). -/
  fastLimit : Bool
  /-- A Gust window is open since this moment (12 R311; reset none). -/
  gust : Option Nat
  /-- No Gust window starts before this moment (12 R311; reset 0). -/
  lockout : Nat
  /-- Hold time of each Super in array cycles (12 R312; reset 0). -/
  holdTime : Tab Nat
  /-- Groups throttled: sensor groups 0 to 13 (12 R316; reset none). -/
  throttled : List Nat
  /-- Groups at a work stop not yet released (12 R316; reset none). -/
  stopped : List Nat
  /-- Last reading of each group in °C (12 R315; reset 0). -/
  temps : List Nat
  /-- Lockstep order in force, in MHz (12 R321; reset none). -/
  order : Option Nat
  /-- Order sent by the Ndevas and not yet received (12 R321; reset none). -/
  orderSent : Option Nat
  /-- A Lockstep break is in force at this frequency (12 R321; reset none). -/
  broken : Option Nat
  /-- POWER_CALIBRATE in progress (12 R327; reset none). -/
  quiet : Quiet
  /-- Its window (12 R327; reset none). -/
  quietWin : Option QuietWin
  /-- The estimator's milliseconds, newest first (12 R325; reset none). -/
  buckets : List Bucket
  /-- The last accepted reference of rails 0 to 5, or the reset (12 R326; reset 0). -/
  refAt : List Nat
  /-- A steady reference of rails 0 to 5 starts no earlier than this (12 R325; reset 0). -/
  refFrom : List Nat
  /-- g_r of rails 0 to 5 in thousandths (12 R325; reset 1,000). -/
  gains : List Nat
  /-- c_r of rails 0 to 5 in thousandths (12 R325; reset 1,000). -/
  corrs : List Nat
  /-- Stale rails, bits 0 to 5 (12 R326; reset none). -/
  stale : List Nat
  /-- Conflict episodes that have not ended (12 R308; reset none). -/
  conflicts : List Conflict
  /-- No thermal lowering of a sensor group's dies before this moment: key group (12 R316; reset 0). -/
  thermalNext : Tab Nat
  /-- The start of the running second of DISAGREE_PPM, and (MEAS, MODEL) of Supers 0 to 7 at it (12 R322; reset 0). -/
  ppmAt : Nat
  ppmBase : List (Nat × Nat)
  deriving DecidableEq, Repr

/-! ## Observability -/

/-- The Lull states (13 R344). -/
inductive LullState where
  | disarmed | armed | frozen
  deriving DecidableEq, Repr

/-- Lull, trace and the sticky RAS log of one chip. -/
structure Observe where
  /-- Every counter of 13 R336: key block × 2^24 + instance × 2^8 + value, width 48 or 64 (13 R330; reset 0). -/
  counters : Tab Nat
  /-- Counter events of a frozen chip, to be added at release (13 R345; reset none). -/
  pending : Tab Nat
  /-- CLASS_MASK, width 6 (13 R339; reset 0). -/
  classMask : Nat
  /-- WRAP, width 1 (13 R339; reset 0). -/
  wrap : Bool
  /-- SUPER_MASK, width 8 (13 R339; reset 0). -/
  superMask : Nat
  /-- HOST_BASE and HOST_SIZE (13 R339; reset 0: no host ring). -/
  hostBase : Nat
  hostSize : Nat
  /-- Source queues of 16 records: key source (13 R340; reset empty). -/
  sources : Tab (List Bytes)
  /-- The records that the HBM ring of 2,097,152 holds, by their number, oldest first; record n lies in entry n mod 2,097,152
  (13 R340; reset empty). -/
  ring : Tab Bytes
  /-- The number of the next record to enter the ring (13 R340; reset 0). -/
  ringNext : Nat
  /-- PRODUCER, width 64 (13 R340; reset 0). -/
  producer : Nat
  /-- CONSUMER as last read, width 64 (13 R340; reset 0). -/
  consumer : Nat
  /-- Losses since the last LOSS record: at sources, in the ring, to memory errors, and the time of the first (13 R341; reset
  none). -/
  lossSrc : Nat
  lossRing : Nat
  lossEcc : Nat
  lossTime : Nat
  /-- The Lull state (13 R344; reset DISARMED). -/
  lull : LullState
  /-- LATE of the cut record (13 R344; reset 0). -/
  late : Bool
  /-- UNSYNCED of the cut record (13 R344; reset 0). -/
  unsynced : Bool
  /-- The chip was Dormant at the cut (13 R336; reset no). -/
  wasDormant : Bool
  /-- FREEZE_TIME (13 R336; reset 0). -/
  freezeTime : Nat
  /-- The release time in force (13 R344; reset 0). -/
  releaseAt : Nat
  /-- The cut record has been written (13 R344; reset no). -/
  cutWritten : Bool
  /-- Doorbells recorded while frozen are in the queue pairs; a work stop that fell inside the Lull (13 R347; reset no). -/
  stopInLull : Bool
  /-- The queues' IN and OUT since reset: key 2 × queue for IN, 2 × queue + 1 for OUT (13 R348; reset 0). -/
  queueIo : Tab Nat
  /-- The sticky RAS error log, at most 126 entries of 32 B, oldest first (16 R412; reset empty). -/
  rasLog : List Bytes
  /-- LOG_LOST, width 32 (16 R412; reset 0). -/
  logLost : Nat
  /-- WATCHDOG_RESETS, width 32 (16 R413; reset 0). -/
  watchdogs : Nat
  deriving DecidableEq, Repr

/-- One Kabex chip. -/
structure Chip where
  boot : Boot
  bar : Bar
  stew : Steward
  config : Config
  serve : Serving
  eng : Engines
  mem : Memory
  fab : Fabric
  power : Power
  obs : Observe
  ledger : Ledger
  deriving DecidableEq, Repr

/-! ## The Ndevas -/

/-- The states of a current-loop channel (14 R362). -/
inductive LoopState where
  | unused | starting | normal | fault | disconnected
  deriving DecidableEq, Repr

/-- The states of a leak channel (14 R369). -/
inductive LeakState where
  | indeterminate | clear | leak | channelFault | chatter
  deriving DecidableEq, Repr

/-- The states of an output (14 R372). -/
inductive OutState where
  | off | on | overload | backfed | crossfed
  deriving DecidableEq, Repr

/-- The regions of a leak sample (14 R364). -/
inductive Region where
  | active | band | clear | wireFault
  deriving DecidableEq, Repr

/-- Parameters of a current-loop channel in a configuration set (14 R359, 15 R379). -/
structure LoopCfg where
  /-- ROLE code, width 4. -/
  role : Nat
  /-- SPAN_LO and SPAN_HI, FP32. -/
  spanLo : Word32
  spanHi : Word32
  /-- VT_MIN in mV. -/
  vtMin : Nat
  /-- R_WIRE in Ω. -/
  rWire : Nat
  /-- LIMIT_LO and LIMIT_HI, FP32. -/
  limitLo : Word32
  limitHi : Word32
  /-- MODE: Watch, else Guard. -/
  watch : Bool
  deriving DecidableEq, Repr

/-- Parameters of a leak channel (14 R363, 15 R379). -/
structure LeakCfg where
  type : Nat
  dripTray : Bool
  watch : Bool
  deriving DecidableEq, Repr

/-- A configuration set of the Ndevas (15 R388). -/
structure NdCfg where
  /-- AI0 to AI15 (14 R359; reset the defaults of R359 and R424). -/
  loops : List LoopCfg
  /-- LK0 to LK7 (14 R363; reset the defaults of R363). -/
  leaks : List LeakCfg
  /-- Output ROLE codes (15 R383; reset ISOLATE, ISOLATE, PUMP_STOP, ALARM). -/
  outRoles : List Nat
  /-- Output power-up states (14 R373; reset off). -/
  outUp : List Bool
  /-- I_LIM of EF0 to EF7 in A (14 R374; reset 42). -/
  fuses : List Nat
  /-- Tray cap in W (12 R302; reset 12,500). -/
  trayCap : Nat
  deriving DecidableEq, Repr

/-- A reading of a current-loop channel (14 R358). -/
structure Reading where
  /-- The quality code. -/
  quality : Nat
  /-- The reading current in sixteenths of a µA: the sum of the 16 sub-samples (14 R356). -/
  i16 : Nat
  /-- CAPPED (14 R360). -/
  capped : Bool
  deriving DecidableEq, Repr

/-- One current-loop channel at run time. -/
structure Loop where
  /-- The channel state (14 R362; reset UNUSED). -/
  state : LoopState
  /-- The latest reading (14 R358; reset NOT_SCANNED). -/
  last : Reading
  /-- The last two readings that carry a value, the later one first (15 R381, two consecutive readings; reset none). -/
  seen : List Reading
  /-- The parameters in force, taken from the active set at the start of a slice (14 R359; reset the defaults of R359). -/
  cfg : LoopCfg
  /-- The disconnect FET is open (14 R361; reset open). -/
  fetOpen : Bool
  /-- A retry test is running, its FET closed (14 R361; reset no). -/
  testing : Bool
  /-- LOOP_RETRY count (14 R361; reset 0). -/
  retries : Nat
  /-- The last two comparator samples' regions: 0 below 3.6 mA, 1 to 21.0, 2 to 23.0, 3 above (14 R357; reset none). -/
  cmp : List Nat
  /-- Consecutive comparator samples in 3.6–21.0 mA (14 R362; reset 0). -/
  good : Nat
  /-- The regions of the last five comparator samples, those of one slice (14 R356; reset none). -/
  slice : List Nat
  /-- Comparator samples since the last crossing of a NORMAL channel or the last disconnect, up to 5 (14 R356, R362; reset 5). -/
  clean : Nat
  /-- LOW_HEADROOM is raised, and consecutive readings that would clear it (14 R360; reset no, 0). -/
  lowHead : Bool
  okHead : Nat
  deriving DecidableEq, Repr

/-- One leak channel at run time. -/
structure Leak where
  /-- The channel state (14 R369; reset INDETERMINATE). -/
  state : LeakState
  /-- The leak latch, held in flash (14 R368; reset clear). -/
  latch : Bool
  /-- The region of the last samples and how many consecutive ones (14 R365; reset band, 0). -/
  region : Region
  run : Nat
  /-- The region the channel last took (14 R365; reset none). -/
  taken : Option Region
  /-- The last non-band region sampled, for crossings (14 R367; reset none). -/
  lastSide : Option Region
  /-- Samples taken so far (14 R363; reset 0). -/
  n : Nat
  /-- The sample numbers of the crossings of the last 1 s (14 R367; reset none). -/
  crossings : List Nat
  /-- The last sample of the terminal voltage, the code of the 12-bit converter (14 R363; reset none). -/
  code : Option Nat
  /-- The parameters in force, taken from the active set at a sample (14 R363, 15 R389; reset the defaults of R363). -/
  cfg : LeakCfg
  deriving DecidableEq, Repr

/-- One output at run time. -/
structure Output where
  /-- The output state (14 R372; reset OFF). -/
  state : OutState
  /-- The commanded state (15 R396; reset off). -/
  cmd : Bool
  /-- Consecutive samples in current limit, below 10 mA, above 12 V, below 2 V (14 R371; reset 0). -/
  inLimit : Nat
  low : Nat
  high : Nat
  below : Nat
  /-- The OPEN_LOAD flag (14 R371; reset no). -/
  openLoad : Bool
  /-- Samples since it was switched on, for the cross-feed watch (14 R371; reset 0). -/
  sinceOn : Nat
  /-- The terminal was below 2 V before the last switching on (14 R371; reset yes). -/
  wasLow : Bool
  /-- The last sample (15 R395; reset 0 V, 0 mA). -/
  sample : OutSample
  deriving DecidableEq, Repr

/-- A raised hazard (15 R381). -/
structure Hazard where
  code : Nat
  ch : Nat
  /-- Found on a Guard channel. -/
  guard : Bool
  /-- The condition holds now. -/
  holds : Bool
  /-- Escalations taken so far. -/
  level : Nat
  deriving DecidableEq, Repr

/-- Why a chip is being isolated (15 R394, CHIP_ISOLATED cause). -/
inductive IsoCause where
  | hazard | command
  deriving DecidableEq, Repr

/-- A chip's end-of-interval report to the Ndevas (12 R317). -/
structure Report where
  /-- The chip's power state. -/
  pstate : PState
  /-- BALANCE is Lockstep. -/
  lockstep : Bool
  gustEn : Bool
  group : Nat
  tdp : Nat
  lo : Nat
  hi : Nat
  /-- F_LOCK in MHz. -/
  fLock : Nat
  /-- w_n in thousandths. -/
  wait : Nat
  /-- INPUT in mW. -/
  input : Nat
  deriving DecidableEq, Repr

/-- What the Ndevas holds of one chip position. -/
structure Position where
  /-- What the read of the chip's identity memory gave, as the row of 02 R49: 0 a part on the compatibility list, 2 no reading,
  3 a part that is not on the list (02 R45, R49; reset 2). -/
  idRow : Nat
  /-- The host cable's identity memory was read (02 R49; reset no). -/
  cableOk : Bool
  /-- The e-fuse is closed (14 R374; reset open). -/
  fuse : Bool
  /-- PWRGD is asserted (17 R419; reset no). -/
  pwrgd : Bool
  /-- An isolation is in progress: its cause and grace in ms (15 R384; reset none). -/
  iso : Option (IsoCause × Nat)
  /-- ISOLATE_NOTICE is on its way to the chip (15 R384; reset no). -/
  notice : Bool
  /-- ISOLATE_READY is on its way to the Ndevas (15 R385; reset no). -/
  isoReady : Bool
  /-- The isolation cause shown in Redfish, 0 none (15 R384, R395; reset 0). -/
  cause : Nat
  /-- A PowerCycle waits for its PowerOn (15 R386; reset no). -/
  cycle : Bool
  /-- The rail sequence of the power-up timeline is still to start (02 R44, R45; reset no). -/
  due : Bool
  /-- The rail sequence was asked for by a PowerOn (15 R394; reset no). -/
  byCommand : Bool
  /-- A_n, G_n and P_n of the last interval (12 R318; reset 0). -/
  a : Nat
  g : Nat
  p : Nat
  /-- A_n at the start of the coolant hold (12 R318 step 5; reset none). -/
  aAtHold : Option Nat
  /-- The chip's last report (12 R317; reset none). -/
  report : Option Report
  /-- The TDP and range the base was last set for (12 R318 step 1; reset none). -/
  baseFor : Option (Nat × Nat × Nat)
  /-- The chip reported a Lockstep break: frequency (12 R321; reset none). -/
  broken : Option Nat
  /-- A Steward image is stored for the next power-on (15 R396; reset none). -/
  image : Option Nat
  /-- The last 20 samples of the e-fuse's current and voltage, the latest last (14 R374; reset none). -/
  samples : List FuseSample
  /-- The stepping that the chip's identity memory holds, none while it has not been read (15 R395, R400; reset none). -/
  stepping : Option Byte
  deriving DecidableEq, Repr

/-- The states of an optical module (11 R300). -/
inductive ModuleState where
  | lowPwr | ready
  deriving DecidableEq, Repr

/-- An optical module of a T8-U as the Ndevas manages it (11 R300). -/
structure Module where
  /-- Its identity was read and it asks for no more than 10 W (02 R49, 17 R422). -/
  healthy : Bool
  /-- The module state (reset LowPwr). -/
  state : ModuleState
  /-- The data path is initialised (reset no). -/
  dataPath : Bool
  /-- The lower memory. -/
  lower : Bytes
  /-- Pages 0x00, 0x01, 0x02, 0x10 and 0x11. -/
  pages : Tab Bytes
  deriving DecidableEq, Repr

/-- A record of the event log: the body's fields and the after part (15 R391). -/
structure LogRec where
  seq : Nat
  time : Nat
  kind : Nat
  source : Nat
  flags : Nat
  count : Nat
  detail : Nat
  before : Bytes
  /-- The after part, none while it is absent. -/
  after : Option Bytes
  /-- The after part is still to be programmed. -/
  due : Bool
  deriving DecidableEq, Repr

/-- The Ndevas. -/
structure Ndevas where
  /-- Standby power is present (02 R44; reset no). -/
  standby : Bool
  /-- Ndevas firmware is running (02 R44; reset no). -/
  running : Bool
  /-- The tray is a Praolo T8-U (00 R2; reset T8). -/
  variantU : Bool
  /-- The tray board identity memory was read and passed (02 R45; reset no). -/
  boardOk : Bool
  /-- Per-chip e-fuse limits of the board memory in A (14 R374; reset none). -/
  limits : List Nat
  /-- Identity memories read: the management station sees them (02 R50; reset no). -/
  idsRead : Bool
  /-- The optical modules of a T8-U (02 R49, 11 R300, 17 R422; reset none). -/
  modules : List Module
  /-- The FRU records read, by identity memory: 0x00 board, 0x10 + n chip, 0x20 + n cable (15 R394, R400; reset none). -/
  fru : Tab Bytes
  /-- The outputs have taken their power-up states (14 R373; reset no). -/
  outsUp : Bool
  /-- The moment of the last start of the Ndevas, in ns of `State.now` (15 R391; reset 0). -/
  startedAt : Nat
  /-- The cause of the start in progress: 1 standby power, 2 watchdog, 3 firmware update (15 R394; reset 1). -/
  startCause : Nat
  /-- The clock in ms since 1970 at the last start, none while it is not set (15 R391, R395; reset none). -/
  clock : Option Nat
  /-- Consecutive coolant-check scans passed (02 R45; reset 0). -/
  scansOk : Nat
  /-- The active and the shadow set, held in flash (15 R388; reset defaults). -/
  active : NdCfg
  shadow : NdCfg
  /-- ACTIVE_GEN and SHADOW_GEN, width 32 (15 R388, R389; reset 0). -/
  activeGen : Word32
  shadowGen : Word32
  /-- Field supply in mV, and the run of measurements out of and in range (14 R353; reset 0). -/
  fieldMv : Nat
  fieldRun : Nat
  fieldBad : Bool
  /-- Current-loop channels AI0 to AI15 (14 R352; reset UNUSED). -/
  loops : Tab Loop
  /-- Leak channels LK0 to LK7 (14 R352; reset INDETERMINATE). -/
  leaks : Tab Leak
  /-- Outputs DO0 to DO3 (14 R352; reset OFF). -/
  outs : Tab Output
  /-- Chip positions 0 to 7 (01 R19; reset open, Off). -/
  pos : Tab Position
  /-- Hazards raised (15 R381; reset none). -/
  hazards : List Hazard
  /-- CLOSE and PUMP are in force (15 R382; reset no). -/
  closePump : Bool
  /-- Lockstep order in force: group, frequency, first chip (12 R321; reset none). -/
  orders : List (Nat × Nat × Nat)
  /-- The RAM queue of events waiting for programming, 512 entries (15 R393; reset empty). -/
  queue : List LogRec
  /-- The coalesced record in the 512th entry: first and last time, count, codes (15 R393; reset none). -/
  coalesced : Option (Nat × Nat × Nat × List Nat)
  /-- Programmed records, oldest first (15 R390; reset empty). -/
  flash : List LogRec
  /-- The next SEQ, width 32 (15 R390; reset 0). -/
  seq : Word32
  /-- Event subscriptions: id and consecutive refusals (15 R397; reset none). -/
  subs : List (Nat × Nat)
  /-- SEQs of the programmed records whose Redfish event is still to be sent, oldest first (15 R397; reset none). -/
  toSend : List Nat
  /-- The Ndevas image stored for the next restart (15 R396; reset none). -/
  image : Option Nat
  deriving DecidableEq, Repr

/-! ## The outside -/

/-- What the tray has sent or answered. -/
inductive Out where
  /-- A posted PCIe write of chip `c`, with its EP bit and its Relaxed Ordering attribute (03 R63, R71, 08 R214). -/
  | hostWrite (c addr : Nat) (data : Bytes) (ep relaxed : Bool)
  /-- An MSI-X message (03 R71). -/
  | msix (c vector : Nat) (addr : Word64) (data : Word32)
  /-- A PCIe read completion of BAR0 or BAR2: the data, or none for Unsupported Request, and EP (03 R64, 08 R200, R214). -/
  | readAnswer (c : Nat) (data : Option Bytes) (ep : Bool)
  /-- An AER report: 0 correctable, 1 non-fatal, 2 fatal, and its name (16 R410). -/
  | aer (c : Nat) (severity : Nat) (name : String)
  /-- The answer to a configuration request: RRS, from the boot ROM, or normal (02 R47). -/
  | cfgAnswer (c : Nat) (rrs bootRom : Bool) (v : Word32)
  /-- A flit sent on a port (10 R248). -/
  | flit (c p : Nat) (bytes : Bytes)
  /-- A vendor-defined MCTP message of the Ndevas to a chip or back (15 R399). -/
  | smbus (c : Nat) (name : String) (value : Nat)
  /-- A Redfish answer: status, retry-after, body (15 R395). -/
  | redfish (http : Nat) (retryAfter : Option Nat) (body : List Nat)
  /-- A Redfish event for the log record with this SEQ (15 R397). -/
  | redfishEvent (subscriber seq : Nat)
  /-- A PLDM answer: completion code and body (15 R398). -/
  | pldm (c code : Nat) (body : List Nat)
  /-- A PlatformEventMessage to the hosts (15 R398). -/
  | platformEvent (hazard : Nat) (raised : Bool)
  /-- The Ndevas switches rail group `rail` of chip `c` (02 R46). -/
  | rail (c rail : Nat) (on : Bool)
  /-- A Lockstep break that chip `c` reports at once to the Ndevas, in MHz (12 R321). -/
  | lockReport (c mhz : Nat)
  /-- A connection refused (02 R50). -/
  | refusedConnection
  deriving DecidableEq, Repr

/-- The state of the tray. -/
structure State where
  /-- The chips by tray position 0 to 7 (01 R19; reset each Off). -/
  chips : Vector Chip 8
  /-- The tray controller (01 R19). -/
  nd : Ndevas
  /-- Nanoseconds that idle steps have let pass; the model's own clock (reset 0). -/
  now : Nat
  /-- Requests for free values so far; the model's own field, no statement rests on it (reset 0). -/
  free : Nat
  /-- The wires of the tray ring: the flits on their way to backplane port position b = 18n + p, oldest first (01 R23, R24,
  17 R420; reset none). -/
  ring : Tab (List Bytes)
  /-- What the tray has sent and answered, oldest first; the model's own field (reset none). -/
  out : List Out
  /-- The commands that wait, first in, first out (reset none). -/
  pending : List Instr
  deriving DecidableEq, Repr

/-- No command faults: every error the spec names has its status code, counter, event or state. -/
inductive Fault where
  /-- Raised by no command; it stands for a machine check outside the spec. Safe. -/
  | outsideSpec
  deriving DecidableEq, Repr

/-- Why the model gives a command no meaning. -/
inductive Refusal where
  /-- A command that has no meaning yet, by its mnemonic. Safe: nothing can be proved of it. -/
  | notModelled (mnemonic : String)
  deriving DecidableEq, Repr

/-! ## Values at reset: the tray without standby power -/

/-- A sparse image from its non-zero bytes. -/
def image (cells : List (Nat × Nat)) : Mem := cells.map fun c => (c.1, BitVec.ofNat 8 c.2)

/-- The default configuration set (03 R90; 04 R98, 11 R279, 12 R304). -/
def CfgSet.initial : CfgSet where
  superMap := image ([(0, 1), (1, 2), (7, 0x10), (8, 1), (9, 63), (13, 5), (17, 0x80), (18, 4), (22, 0x40)] ++
    (List.range 16).map fun k => (24 + k, 0xFF))
  power := image [(0, 1), (1, 2), (4, 0x78), (5, 0x05), (6, 0xB0), (7, 0x04), (8, 0x40), (9, 0x06), (10, 0x58), (11, 0x02),
    (12, 0x34), (13, 0x08), (14, 0xD6), (15, 0x06), (16, 0x64), (32, 0x10), (33, 0x27)]
  routes := image ([(17, 0x80), (18, 0xFF)] ++ (List.range 8).map fun j => (33 + 2 * j, 0x80))
  counters := []
  micro := []
  lull := []

/-- Boot state of a chip without rails (02 R52, R57). -/
def Boot.initial : Boot where
  rails := .down
  railsOn := 0
  pstate := .off
  ready := false
  cause := .powerOn
  fwFailed := false
  bootStage := 0
  fwRunning := false
  hbmTrained := false
  zeroed := false
  hbmFailed := false
  linkL0 := false
  linkL1 := false
  perst := true
  perstEarly := false
  pcieUp := false
  pgTime := 0
  resetLine := false
  dormantHeld := false
  dormantEntry := false
  waking := false
  linkFatal := false
  isolating := false
  combined := false
  fwVersion := 0
  fwBuild := 0
  ifMinor := 0
  tripLine := false

/-- An MSI-X table entry at reset (02 R430). -/
def Msix.initial : Msix := ⟨0, 0, true⟩

/-- BAR0 at reset (03 R64 to R71). -/
def Bar.initial : Bar where
  earlyDb := 0
  badDb := 0
  heartbeat := 0
  stewardFault := 0
  sqBase := 0
  cqBase := 0
  depth := 0
  enable := false
  enabled := false
  setupError := false
  irqEnable := false
  vector := 0
  change := none
  needsToggle := false
  latched := (0, 0, 0)
  doorbells := []
  msix := []
  pba := []
  msixEnable := false
  functionMask := false
  aspmL1 := false
  cfg := []

/-- A queue pair that does not exist. -/
def QPair.none : QPair := ⟨false, false, 0, 0, false, 0, 0, 0, 0, 0, 0, 0, 0, 0, 0, 0, 0⟩

/-- An arbiter that has granted nothing. -/
def Arb.fresh : Arb := ⟨[], []⟩

/-- The Steward at reset: no queue pair, command, completion or event. -/
def Steward.initial : Steward := ⟨[], [], 0, [], [], .none, .fresh⟩

/-- The configuration at reset (03 R90). -/
def Config.initial : Config := ⟨.initial, .initial, 0, 0, none, [], none⟩

/-- A FREE stream of GEN 0 (04 R102). -/
def Stream.free : Stream := ⟨.free, 0, false, 0, 0, [], none⟩

/-- A swap in IDLE (09 R241). -/
def Swap.idle : Swap := ⟨.idle, false, 0, 0, 0, []⟩

/-- A model ID that holds no model (09 R220). -/
def Model.empty : Model := ⟨0, false, 0, 0, 0, 0, 0, [], [], .idle, none⟩

/-- Serving state at reset: every stream FREE, no frame referenced, no model, no step. -/
def Serving.initial : Serving := ⟨[], [], [], []⟩

/-- No flag raised (06 R166). -/
def FFlags.clear : FFlags := ⟨false, false, false, false, false⟩

/-- An empty bank with an invalid tag (05 R139). -/
def Bank.empty : Bank := ⟨none, [], [], [], none, 0⟩

/-- An empty Comb. -/
def Comb.empty : Comb := ⟨[], none, .empty, .empty, none, none, [], [], [], []⟩

/-- No count. -/
def Tally.zero : Tally := ⟨0, 0, 0, 0⟩

/-- A lane with +0 in every register (07 R177). -/
def Lane.empty : Lane := ⟨[], none, none, .clear, false⟩

/-- An idle die: empty queues, array clock at 1,750 MHz (01 R40). -/
def Die.initial : Die := ⟨[], [], [], [], none, [], .fresh, .fresh, [], false, 1750, [], false, 0, 0, false⟩

/-- An idle Forager. -/
def Forager.idle : Forager := ⟨[], none, [], none, 0⟩

/-- Engines at reset. -/
def Engines.initial : Engines := ⟨[], [], [], [], []⟩

/-- A memory of zeros. -/
def Store.zero : Store := ⟨[], [], [], [], [], [], []⟩

/-- Zeroed memories (02 R54). -/
def Memory.zeroed : Memory := ⟨.zero, .zero, .zero, .zero, .zero, [], .zero, []⟩

/-- Drizzle allowed, no negotiation (10 R262). -/
def Drizzle.initial : Drizzle := ⟨true, false, false, false, false, false, false⟩

/-- An empty virtual channel. -/
def Vc.empty : Vc := ⟨0, [], []⟩

/-- An enabled port in DOWN (10 R259). -/
def Port.initial : Port where
  state := .down
  reason := 0
  partnerId := none
  partnerState := 0
  partnerDepths := []
  helloSeen := false
  fences := 0
  trainFails := 0
  retryWait := false
  driz := .initial
  txSeq := 0
  rxSeq := 0
  replay := []
  toReplay := 0
  nakSent := false
  heard := false
  fresh := true
  ackDue := false
  naks := []
  violations := []
  vcs := []
  arb := ⟨[], []⟩
  sent := 0
  mgmtTx := []
  mgmtRx := []
  helloRx := none
  syncRx := []
  offset := 0
  delays := []
  offsets := []
  outliers := 0
  partnerCut := none
  cutMissing := false
  ownCut := none
  cutState := 0

/-- The fabric at power-on (10 R266, 02 R54). -/
def Fabric.initial : Fabric := ⟨[], [], [], 0, [], [], 0, false, false, 0⟩

/-- Power control at reset; R319 sets the allotment when the chip boots. -/
def Power.initial : Power where
  a := 0
  p := 0
  clamp := false
  hold := false
  ndevasLost := false
  sent := none
  samples := []
  sum1ms := 0
  met := List.replicate 7 0
  lullMet := 0
  stat := List.replicate 6 0
  splitMet := List.replicate 7 0
  splitStat := List.replicate 6 0
  repSum := 0
  repCount := 0
  repWaits := List.replicate 4 0
  repClocks := List.replicate 4 0
  waitLog := []
  shareAt := 0
  shareBase := List.replicate 8 0
  hbmSince := []
  hbmRate := []
  fastLimit := false
  gust := none
  lockout := 0
  holdTime := []
  throttled := []
  stopped := []
  temps := List.replicate 14 0
  order := none
  orderSent := none
  broken := none
  quiet := .none
  quietWin := none
  buckets := []
  refAt := List.replicate 6 0
  refFrom := List.replicate 6 0
  gains := List.replicate 6 1000
  corrs := List.replicate 6 1000
  stale := []
  conflicts := []
  thermalNext := []
  ppmAt := 0
  ppmBase := List.replicate 8 (0, 0)

/-- An energy ledger in which nothing is counted. -/
def Ledger.initial : Ledger := ⟨[], 0, [], []⟩

/-- Counters, trace, Lull and the RAS log at power-on. -/
def Observe.initial : Observe where
  counters := []
  pending := []
  classMask := 0
  wrap := false
  superMask := 0
  hostBase := 0
  hostSize := 0
  sources := []
  ring := []
  ringNext := 0
  producer := 0
  consumer := 0
  lossSrc := 0
  lossRing := 0
  lossEcc := 0
  lossTime := 0
  lull := .disarmed
  late := false
  unsynced := false
  wasDormant := false
  freezeTime := 0
  releaseAt := 0
  cutWritten := false
  stopInLull := false
  queueIo := []
  rasLog := []
  logLost := 0
  watchdogs := 0

/-- A chip that is Off. -/
def Chip.off : Chip :=
  ⟨.initial, .initial, .initial, .initial, .initial, .initial, .zeroed, .initial, .initial, .initial, .initial⟩

/-- The default parameters of a channel with ROLE `role` (14 R359, 17 R424); spans as FP32 bits. -/
def LoopCfg.initial (role : Nat) : LoopCfg :=
  match role with
  | 1 => ⟨1, 0, 0x42700000, 12000, 20, 0x41F00000, 0x42700000, false⟩
  | 2 => ⟨2, 0, 0x447A0000, 12000, 20, 0x43160000, 0x442F0000, false⟩
  | 3 => ⟨3, 0, 0x42C80000, 12000, 20, 0x41700000, 0x42340000, false⟩
  | 4 => ⟨4, 0, 0x447A0000, 12000, 20, 0, 0x44160000, false⟩
  | 5 => ⟨5, 0, 0x42C80000, 12000, 20, 0x41200000, 0x42700000, false⟩
  | 6 => ⟨6, 0, 0x447A0000, 12000, 20, 0x425C0000, 0x43C80000, false⟩
  | r => ⟨r, 0, 0x42C80000, 12000, 20, 0, 0x42C80000, false⟩

/-- The default Ndevas set (14 R359, R363, R373, R374; 15 R379, R383; 12 R302). -/
def NdCfg.initial : NdCfg where
  loops := ([1, 2, 3, 4, 5] ++ List.replicate 11 0).map LoopCfg.initial
  leaks := List.replicate 4 ⟨0, true, false⟩ ++ List.replicate 4 ⟨0, false, false⟩
  outRoles := [1, 1, 2, 4]
  outUp := List.replicate 4 false
  fuses := List.replicate 8 42
  trayCap := 12500

/-- A NOT_SCANNED reading (14 R358). -/
def Reading.notScanned : Reading := ⟨8, 0, false⟩

/-- A current-loop channel before any sample. -/
def Loop.initial : Loop := ⟨.unused, .notScanned, [], .initial 0, true, false, 0, [], 0, [], 5, false, 0⟩

/-- A leak channel before any sample (14 R365). -/
def Leak.initial : Leak := ⟨.indeterminate, false, .band, 0, none, none, 0, [], none, ⟨0, false, false⟩⟩

/-- An output that is OFF (14 R372). -/
def Output.initial : Output := ⟨.off, false, 0, 0, 0, 0, false, 0, true, ⟨0, 0, false⟩⟩

/-- A chip position with its e-fuse open. -/
def Position.initial : Position :=
  ⟨2, false, false, false, none, false, false, 0, false, false, false, 0, 0, 0, none, none, none, none, none, [], none⟩

/-- The Ndevas without standby power. -/
def Ndevas.initial : Ndevas where
  standby := false
  running := false
  variantU := false
  boardOk := false
  limits := []
  idsRead := false
  modules := []
  fru := []
  outsUp := false
  startedAt := 0
  startCause := 1
  clock := none
  scansOk := 0
  active := .initial
  shadow := .initial
  activeGen := 0
  shadowGen := 0
  fieldMv := 0
  fieldRun := 0
  fieldBad := false
  loops := []
  leaks := []
  outs := []
  pos := []
  hazards := []
  closePump := false
  orders := []
  queue := []
  coalesced := none
  flash := []
  seq := 0
  subs := []
  toSend := []
  image := none

/-- The tray before standby power: every chip Off, the Ndevas without power, nothing waiting (02 R44 starts from here). -/
def State.reset : State where
  chips := Vector.replicate 8 Chip.off
  nd := .initial
  now := 0
  free := 0
  ring := []
  out := []
  pending := []

end Sys2Proof.Machine
end

