-- ==== Sys2Proof/Machine/Tab.lean ====
section
/-! DEFINITION. Sparse tables and byte-addressed memories: reading, writing, and their canonical form. -/
namespace Sys2Proof.Machine

/-! ## Sparse tables -/

/-- The value of key `k`; an unlisted key reads as `d`. -/
def tget {α : Type} (d : α) : Tab α → Nat → α
  | [], _ => d
  | (k', v) :: r, k => if k' = k then v else tget d r k

/-- Insert an entry before the first larger key. -/
def tins {α : Type} (k : Nat) (v : α) : Tab α → Tab α
  | [] => [(k, v)]
  | e :: r => if k < e.1 then (k, v) :: e :: r else e :: tins k v r

/-- Remove key `k`. -/
def tdel {α : Type} (t : Tab α) (k : Nat) : Tab α := t.filter fun e => e.1 != k

/-- Write key `k`; writing the value that an unlisted key reads as removes the entry. -/
def tset {α : Type} [DecidableEq α] (d : α) (t : Tab α) (k : Nat) (v : α) : Tab α :=
  if v = d then tdel t k else tins k v (tdel t k)

/-- Change key `k` with `f`. -/
def tupd {α : Type} [DecidableEq α] (d : α) (t : Tab α) (k : Nat) (f : α → α) : Tab α :=
  tset d t k (f (tget d t k))

/-- Keys rise strictly, all of them above `lo` where one is given. -/
def tsorted {α : Type} : Option Nat → Tab α → Bool
  | _, [] => true
  | lo, (k, _) :: r => (match lo with | none => true | some l => decide (l < k)) && tsorted (some k) r

/-- The canonical form of a sparse table. -/
def twf {α : Type} [DecidableEq α] (d : α) (t : Tab α) : Bool :=
  tsorted none t && t.all fun e => decide (e.2 ≠ d)

/-! ## Byte-addressed memory -/

/-- The span that covers address `a`, if any. -/
def spanAt (l : List Span) (a : Nat) : Option Span := l.find? fun s => decide (s.lo ≤ a ∧ a < s.hi)

/-- What an unlisted byte reads as: zero, or a free value inside an undefined range. -/
def Store.unlisted (s : Store) (a : Nat) : Byte :=
  match spanAt s.undef a with
  | none => 0
  | some r => Config.freeByte r.stamp a

/-- The byte at address `a`. -/
def Store.read (s : Store) (a : Nat) : Byte :=
  match s.cells.lookup a with
  | some v => v
  | none => s.unlisted a

/-- `n` bytes from address `a`. -/
def Store.readN (s : Store) (a n : Nat) : Bytes := (List.range n).map fun k => s.read (a + k)

/-- The non-zero bytes of `bs`, placed from address `a`. -/
def cellsOf (a : Nat) : Bytes → Mem
  | [] => []
  | b :: r => if b = 0 then cellsOf (a + 1) r else (a, b) :: cellsOf (a + 1) r

/-- Remove addresses `lo` to below `hi` from the undefined ranges. -/
def punch (lo hi : Nat) (l : List Span) : List Span :=
  l.flatMap fun s =>
    (if s.lo < min s.hi lo then [⟨s.lo, min s.hi lo, s.stamp⟩] else []) ++
    (if max s.lo hi < s.hi then [⟨max s.lo hi, s.hi, s.stamp⟩] else [])

/-- Replace the listed bytes of the `n` addresses from `a` by `mid`. -/
def splice (m : Mem) (a n : Nat) (mid : Mem) : Mem :=
  m.filter (fun e => decide (e.1 < a)) ++ mid ++ m.filter (fun e => decide (a + n ≤ e.1))

/-- Write `bs` from address `a`. -/
def Store.write (s : Store) (a : Nat) (bs : Bytes) : Store :=
  { s with cells := splice s.cells a bs.length (cellsOf a bs), undef := punch a (a + bs.length) s.undef }

/-- Give the `n` bytes from address `a` undefined contents. -/
def Store.blur (s : Store) (a n stamp : Nat) : Store :=
  if n = 0 then s else { s with cells := splice s.cells a n [], undef := ⟨a, a + n, stamp⟩ :: punch a (a + n) s.undef }

/-- The entries of `l` from `a` to below `a + n`, moved to `b`. -/
def shift (a n b : Nat) (l : List Nat) : List Nat :=
  (l.filter fun k => decide (a ≤ k ∧ k < a + n)).map fun k => k - a + b

/-- The entries of `l` outside `a` to `a + n`. -/
def outside (a n : Nat) (l : List Nat) : List Nat := l.filter fun k => !decide (a ≤ k ∧ k < a + n)

/-- The piece of a memory at the `n` addresses from `a`, moved to `b`. -/
def Store.cut (s : Store) (a n b : Nat) : Store where
  cells := (s.cells.filter fun e => decide (a ≤ e.1 ∧ e.1 < a + n)).map fun e => (e.1 - a + b, e.2)
  undef := s.undef.filterMap fun r =>
    if max r.lo a < min r.hi (a + n) then some ⟨max r.lo a - a + b, min r.hi (a + n) - a + b, r.stamp⟩ else none
  poison := shift a n b s.poison
  ue := shift a n b s.ue
  ce := shift a n b s.ce
  fix := shift a n b s.fix
  onDie := shift a n b s.onDie

/-- Overlay the `n` addresses from `b` with a piece made by `Store.cut`. -/
def Store.paste (s : Store) (b n : Nat) (p : Store) : Store where
  cells := splice s.cells b n p.cells
  undef := p.undef ++ punch b (b + n) s.undef
  poison := outside b n s.poison ++ p.poison
  ue := outside b n s.ue ++ p.ue
  ce := outside b n s.ce ++ p.ce
  fix := outside b n s.fix ++ p.fix
  onDie := outside b n s.onDie ++ p.onDie

/-- The canonical form of a memory: addresses rise, no listed byte is zero or inside an undefined range. -/
def Store.wf (s : Store) : Bool :=
  tsorted none s.cells && s.cells.all fun e => decide (e.2 ≠ 0) && (spanAt s.undef e.1).isNone

/-- The canonical form of the memories of a chip. -/
def Memory.wf (m : Memory) : Bool := m.sram0.wf && m.sram1.wf && m.sram2.wf && m.sram3.wf && m.hbm.wf && m.system.wf

end Sys2Proof.Machine
end

