-- ==== Sys2Proof/Machine/Bits.lean ====
section
/-! DEFINITION. Fields of byte runs: little-endian numbers, bit fields, signed values (00 R9, R10). -/
namespace Sys2Proof.Machine

/-- The number that `bs` holds, lowest byte first (00 R10). -/
def leNat : Bytes → Nat
  | [] => 0
  | b :: r => b.toNat + 256 * leNat r

/-- The `n` low bytes of `v`, lowest first. -/
def toLE : Nat → Nat → Bytes
  | 0, _ => []
  | n + 1, v => BitVec.ofNat 8 v :: toLE n (v / 256)

/-- Byte `k` of `bs`, zero past its end. -/
def byteAt (bs : Bytes) (k : Nat) : Nat := (bs.getD k 0).toNat

/-- The `n`-byte field at byte `off`. -/
def field (bs : Bytes) (off n : Nat) : Nat := leNat ((bs.drop off).take n)

/-- Bits `[lo + n - 1 : lo]` of `v`. -/
def bits (v lo n : Nat) : Nat := v / 2 ^ lo % 2 ^ n

/-- Bit `k` of `v`. -/
def bit (v k : Nat) : Bool := v.testBit k

/-- The bit field of `n` bits from bit `lo` of byte `off`. -/
def bitsAt (bs : Bytes) (off lo n : Nat) : Nat := bits (field bs off 8) lo n

/-- Bit `k` of byte `off`. -/
def bitAt (bs : Bytes) (off k : Nat) : Bool := (byteAt bs off).testBit k

/-- 1 for true. -/
def b2n (b : Bool) : Nat := if b then 1 else 0

/-- All bytes from `lo` to below `hi` are zero. -/
def zeros (bs : Bytes) (lo hi : Nat) : Bool := ((bs.drop lo).take (hi - lo)).all fun b => b == 0

/-- `n` zero bytes. -/
def zeroBytes (n : Nat) : Bytes := List.replicate n 0

/-- `bs` cut or padded with zeros to `n` bytes. -/
def fit (n : Nat) (bs : Bytes) : Bytes := bs.take n ++ zeroBytes (n - bs.length)

/-- `bs` padded with `pad` to `n` bytes. -/
def padded (n : Nat) (pad : Byte) (bs : Bytes) : Bytes := bs.take n ++ List.replicate (n - bs.length) pad

/-- The ASCII bytes of a text. -/
def ascii (t : String) : Bytes := t.toList.map fun ch => BitVec.ofNat 8 ch.toNat

/-- The signed value of the low `n` bits of `v`. -/
def signed (n v : Nat) : Int := if v % 2 ^ n < 2 ^ (n - 1) then (v % 2 ^ n : Nat) else (v % 2 ^ n : Nat) - (2 ^ n : Nat)

/-- The low `n` bits of a signed value in two's complement. -/
def unsigned (n : Nat) (v : Int) : Nat := (v % (2 ^ n : Nat)).toNat

/-- Ceiling of a quotient. -/
def ceilDiv (a b : Nat) : Nat := (a + b - 1) / b

/-- `a + n` saturating at `2^w - 1`. -/
def satAdd (w a n : Nat) : Nat := min (a + n) (2 ^ w - 1)

/-- The first position of `l` at which `p` holds. -/
def firstIdx {α : Type} (p : α → Bool) (l : List α) : Option Nat := l.findIdx? p

/-- Split into runs of `n`, at most `fuel` of them. -/
def chunks {α : Type} : Nat → Nat → List α → List (List α)
  | 0, _, _ => []
  | f + 1, n, l => if l.isEmpty then [] else l.take n :: chunks f n (l.drop n)

/-- Two ranges `[a, a + n)` and `[b, b + m)` share an address. -/
def overlap (a n b m : Nat) : Bool := decide (a < b + m) && decide (b < a + n)

/-- How many elements of `l` satisfy `p`. -/
def count {α : Type} (p : α → Bool) (l : List α) : Nat := (l.filter p).length

/-- `a` in a list, before the first element that it need not follow. -/
def insertBy {α : Type} (le : α → α → Bool) (a : α) : List α → List α
  | [] => [a]
  | b :: r => if le a b then a :: b :: r else b :: insertBy le a r

/-- A list sorted; equal elements keep their order. -/
def sortBy {α : Type} (le : α → α → Bool) (l : List α) : List α := l.foldr (insertBy le) []

/-- The moments of `l` that lie within the last `w` ns of `now`. -/
def within (now w : Nat) (l : List Nat) : List Nat := l.filter fun t => decide (now < t + w)

end Sys2Proof.Machine
end

