-- ==== Sys2Proof/Machine/Float.lean ====
section
/-! DEFINITION. Number formats and arithmetic: exact dyadic values, roundings, Fast and Strict operations (06). -/
namespace Sys2Proof.Machine

/-! ## Values (06 R154, R155, R158) -/

/-- A floating-point datum: a NaN (signalling or not), an infinity, or the finite number (-1)^neg m 2^e. -/
inductive FV where
  | nan (sig : Bool)
  | inf (neg : Bool)
  | fin (neg : Bool) (m : Nat) (e : Int)
  deriving DecidableEq, Repr

/-- A format with infinities and NaNs as IEEE 754-2019 lays them out: exponent bits, mantissa bits, bias. -/
structure FFmt where
  eb : Nat
  mb : Nat
  bias : Nat
  deriving DecidableEq, Repr

def fp32 : FFmt := ⟨8, 23, 127⟩
def bf16 : FFmt := ⟨8, 7, 127⟩
def fp16 : FFmt := ⟨5, 10, 15⟩

/-- The finite number with these fields (06 R154). -/
def finOf (mb bias : Nat) (neg : Bool) (e m : Nat) : FV :=
  if e = 0 then .fin neg m (1 - (bias : Int) - mb) else .fin neg (2 ^ mb + m) ((e : Int) - bias - mb)

/-- Decode an encoding of an IEEE-like format. -/
def FFmt.decode (f : FFmt) (v : Nat) : FV :=
  let m := v % 2 ^ f.mb
  let e := v / 2 ^ f.mb % 2 ^ f.eb
  let neg := (v / 2 ^ (f.mb + f.eb)) % 2 == 1
  if e = 2 ^ f.eb - 1 then
    if m = 0 then .inf neg else .nan (decide (m < 2 ^ (f.mb - 1)))
  else finOf f.mb f.bias neg e m

def dec32 (v : Word32) : FV := fp32.decode v.toNat

/-- Decode a matrix operand of a float format code (05 R134, 06 R154). -/
def decodeOperand (code v : Nat) : FV :=
  match code with
  | 0 => if v % 128 = 127 then .nan false else finOf 3 7 (v / 128 == 1) (v / 8 % 16) (v % 8)
  | 1 =>
    let e := v / 4 % 32
    if e = 31 then (if v % 4 = 0 then .inf (v / 128 == 1) else .nan false) else finOf 2 15 (v / 128 == 1) e (v % 4)
  | 2 => finOf 2 3 (v / 32 % 2 == 1) (v / 4 % 8) (v % 4)
  | 3 => finOf 3 1 (v / 32 % 2 == 1) (v / 8 % 4) (v % 8)
  | 4 => finOf 1 1 (v / 8 % 2 == 1) (v / 2 % 4) (v % 2)
  | 5 => bf16.decode v
  | _ => fp16.decode v

/-- Decode an integer operand (06 R156). -/
def decodeInt (code v : Nat) : Int :=
  match code with
  | 8 => signed 8 v
  | 9 => (v % 256 : Nat)
  | 0xA => signed 4 v
  | _ => (v % 16 : Nat)

/-! ## Flags -/

def FFlags.or (a b : FFlags) : FFlags :=
  ⟨a.invalid || b.invalid, a.divZero || b.divZero, a.overflow || b.overflow, a.underflow || b.underflow, a.inexact || b.inexact⟩

def flagI : FFlags := { FFlags.clear with invalid := true }
def flagZ : FFlags := { FFlags.clear with divZero := true }
def flagOX : FFlags := { FFlags.clear with overflow := true, inexact := true }
def flagUX : FFlags := { FFlags.clear with underflow := true, inexact := true }
def flagX : FFlags := { FFlags.clear with inexact := true }

/-- A result: its FP32 bits, the flags it raises in Strict, and whether R162 flushed it in Fast. -/
structure FR where
  v : Word32
  flags : FFlags
  flushed : Bool
  deriving DecidableEq, Repr

/-- A result without flags. -/
def FR.plain (v : Word32) : FR := ⟨v, .clear, false⟩

def nan32 : Word32 := 0x7FC00000
def inf32 (neg : Bool) : Word32 := if neg then 0xFF800000 else 0x7F800000
def zero32 (neg : Bool) : Word32 := if neg then 0x80000000 else 0
def one32 : Word32 := 0x3F800000

/-! ## Rounding -/

/-- `m ÷ 2^sh` to the nearest integer, ties to even; `st` marks value below the bits of `m`. -/
def rne (m sh : Nat) (st : Bool) : Nat :=
  let q := m / 2 ^ sh
  let r := 2 * (m % 2 ^ sh)
  if 2 ^ sh < r ∨ (r = 2 ^ sh ∧ 0 < sh ∧ (st = true ∨ q % 2 = 1)) then q + 1 else q

/-- The encoding of a representable number of magnitude `q × 2^e`. -/
def FFmt.encode (f : FFmt) (neg : Bool) (q : Nat) (e : Int) : Nat :=
  let s := if neg then 2 ^ (f.mb + f.eb) else 0
  if q = 0 then s
  else
    let lo : Int := 1 - f.bias - f.mb
    let top : Int := (q.log2 : Int) + e
    if top < 1 - f.bias then s + q * 2 ^ (e - lo).toNat
    else s + (top + f.bias).toNat * 2 ^ f.mb + (if q.log2 ≤ f.mb then q * 2 ^ (f.mb - q.log2) else q / 2 ^ (q.log2 - f.mb)) - 2 ^ f.mb

/-- IEEE rounding of a nonzero magnitude to a format: encoding and flags (06 R160, R166, R168). -/
def FFmt.round (f : FFmt) (neg : Bool) (m : Nat) (e : Int) (st : Bool) : Nat × FFlags :=
  if m = 0 then (f.encode neg 0 0, if st then flagUX else .clear)
  else
    let top : Int := (m.log2 : Int) + e
    let emin : Int := 1 - f.bias
    let lsb : Int := max (top - f.mb) (emin - f.mb)
    let at' := fun (l : Int) => if l ≤ e then m * 2 ^ (e - l).toNat else rne m (l - e).toNat st
    let q := at' lsb
    let exact := (decide (lsb ≤ e) || m % 2 ^ (lsb - e).toNat == 0) && !st
    let u := at' (top - f.mb)
    let tiny := decide ((u.log2 : Int) + (top - f.mb) < emin)
    if q ≠ 0 ∧ (f.bias : Int) < (q.log2 : Int) + lsb then
      (f.encode neg 0 0 + (2 ^ f.eb - 1) * 2 ^ f.mb, flagOX)
    else (f.encode neg q lsb, if exact then .clear else if tiny then flagUX else flagX)

/-- Fast rounding to FP32: unbounded exponent, then overflow to infinity and flush to zero (06 R162). -/
def roundFast (neg : Bool) (m : Nat) (e : Int) (st : Bool) : FR :=
  if m = 0 then .plain (zero32 neg)
  else
    let sh := m.log2 - 23
    let q := rne m sh st
    let top : Int := (q.log2 : Int) + e + sh
    if 128 ≤ top then .plain (inf32 neg)
    else if top < -126 then ⟨zero32 neg, .clear, true⟩
    else .plain (BitVec.ofNat 32 (fp32.encode neg q (e + sh)))

/-- Rounding to FP32 in either mode. -/
def round32 (strict : Bool) (neg : Bool) (m : Nat) (e : Int) (st : Bool) : FR :=
  if strict then
    let r := fp32.round neg m e st
    ⟨BitVec.ofNat 32 r.1, r.2, false⟩
  else roundFast neg m e st

/-! ## Exact operations -/

/-- Sum of two finite numbers; an exact zero is +0 unless both are -0. -/
def finAdd (n1 : Bool) (m1 : Nat) (e1 : Int) (n2 : Bool) (m2 : Nat) (e2 : Int) : FV :=
  let e := min e1 e2
  let a : Int := (m1 * 2 ^ (e1 - e).toNat : Nat)
  let b : Int := (m2 * 2 ^ (e2 - e).toNat : Nat)
  let v := (if n1 then -a else a) + (if n2 then -b else b)
  if v = 0 then .fin (n1 && n2 && m1 == 0 && m2 == 0) 0 e else .fin (decide (v < 0)) v.natAbs e

/-- Exact product: the value, and whether it is an invalid operation. A zero times an infinity is invalid (06 R170). -/
def FV.mul (a b : FV) : FV × Bool :=
  match a, b with
  | .nan s, .nan t => (.nan false, s || t)
  | .nan s, _ => (.nan false, s)
  | _, .nan s => (.nan false, s)
  | .inf n, .inf k => (.inf (n != k), false)
  | .inf n, .fin k m _ => if m = 0 then (.nan false, true) else (.inf (n != k), false)
  | .fin k m _, .inf n => if m = 0 then (.nan false, true) else (.inf (n != k), false)
  | .fin n m e, .fin k l f => (.fin (n != k) (m * l) (e + f), false)

/-- Exact sum: the value, and whether it is an invalid operation. -/
def FV.add (a b : FV) : FV × Bool :=
  match a, b with
  | .nan s, .nan t => (.nan false, s || t)
  | .nan s, _ => (.nan false, s)
  | _, .nan s => (.nan false, s)
  | .inf n, .inf k => if n = k then (.inf n, false) else (.nan false, true)
  | .inf n, .fin .. => (.inf n, false)
  | .fin .., .inf n => (.inf n, false)
  | .fin n m e, .fin k l f => (finAdd n m e k l f, false)

def FV.neg : FV → FV
  | .nan s => .nan s
  | .inf n => .inf (!n)
  | .fin n m e => .fin (!n) m e

/-- Round an exact value to FP32; `inv` marks that an invalid operation formed it. -/
def FV.to32 (strict : Bool) (inv : Bool) : FV → FR
  | .nan s => ⟨nan32, if strict && (inv || s) then flagI else .clear, false⟩
  | .inf n => .plain (inf32 n)
  | .fin n m e => round32 strict n m e false

/-! ## FP32 operations -/

def mul32 (strict : Bool) (a b : Word32) : FR := let r := (dec32 a).mul (dec32 b); r.1.to32 strict r.2

def add32 (strict : Bool) (a b : Word32) : FR := let r := (dec32 a).add (dec32 b); r.1.to32 strict r.2

/-- Fused multiply-add on exact operands: invalid covers the product and the sum. -/
def fmaV (a b c : FV) : FV × Bool :=
  let p := a.mul b
  let s := p.1.add c
  (s.1, p.2 || s.2)

def fma32 (strict : Bool) (a b c : Word32) : FR := let r := fmaV (dec32 a) (dec32 b) (dec32 c); r.1.to32 strict r.2

/-- a × x + b of an SFU MAP: one rounding that keeps subnormals in both modes (07 R184). -/
def fmaKeep (strict : Bool) (a x b : Word32) : FR :=
  let r := fmaV (dec32 a) (dec32 x) (dec32 b)
  let y := r.1.to32 true r.2
  if strict then y else .plain y.v

def isNan (v : Word32) : Bool := match dec32 v with | .nan _ => true | _ => false
def isInf (v : Word32) : Bool := match dec32 v with | .inf _ => true | _ => false
def isZero (v : Word32) : Bool := v.toNat % 2 ^ 31 == 0
def isNeg (v : Word32) : Bool := v.toNat ≥ 2 ^ 31
def isFinite32 (v : Word32) : Bool := v.toNat % 2 ^ 31 < 0x7F800000

/-- A number that orders FP32 values other than NaN, with +0 and -0 equal. -/
def key32 (v : Word32) : Int := if isNeg v then -((v.toNat % 2 ^ 31 : Nat) : Int) else (v.toNat : Int)

def lt32 (a b : Word32) : Bool := !isNan a && !isNan b && decide (key32 a < key32 b)
def le32 (a b : Word32) : Bool := !isNan a && !isNan b && decide (key32 a ≤ key32 b)
def eq32 (a b : Word32) : Bool := !isNan a && !isNan b && decide (key32 a = key32 b)

/-- FP32 of a natural number, rounded to nearest even. -/
def ofNat32 (n : Nat) : Word32 := if n = 0 then 0 else BitVec.ofNat 32 (fp32.round false n 0 false).1

/-- FP32 of an integer, rounded to nearest even (06 R167). -/
def ofInt32 (i : Int) : Word32 := if i = 0 then 0 else BitVec.ofNat 32 (fp32.round (decide (i < 0)) i.natAbs 0 false).1

/-- The quotient of two positive numbers to FP32, rounded once: 64 extra quotient bits and a sticky bit. -/
def div32 (a b : Nat) : Word32 :=
  let q := 2 ^ 96 * a / b
  BitVec.ofNat 32 (fp32.round false q (-96) (decide (2 ^ 96 * a % b ≠ 0))).1

/-! ## Fast accumulation (06 R161) -/

/-- Truncate a magnitude toward zero to a multiple of 2^g. -/
def truncTo (m : Nat) (e g : Int) : Nat := if g ≤ e then m * 2 ^ (e - g).toNat else m / 2 ^ (g - e).toNat

/-- One accumulator update. -/
def accFast (acc : Word32) (t : FV) : FR :=
  match dec32 acc, t with
  | .fin n1 m1 e1, .fin n2 m2 e2 =>
    if m1 = 0 then
      if m2 = 0 then .plain (zero32 (n1 && n2)) else roundFast n2 m2 e2 false
    else if m2 = 0 then .plain acc
    else
      let g : Int := max ((m1.log2 : Int) + e1) ((m2.log2 : Int) + e2) - 26
      match finAdd n1 (truncTo m1 e1 g) g n2 (truncTo m2 e2 g) g with
      | .fin n m e => if m = 0 then .plain 0 else roundFast n m e false
      | _ => .plain nan32
  | a, t => let r := a.add t; r.1.to32 false r.2

/-- The exact sum of products of a K-step or block (05 R148). -/
def sumProducts (l : List (FV × FV)) : FV :=
  match l with
  | [] => .fin false 0 0
  | p :: r => r.foldl (fun s q => (s.add (q.1.mul q.2).1).1) (p.1.mul p.2).1

/-- A block sum scaled by two E8M0 scales (06 R171, 05 R148). -/
def scaleBlock (s : FV) (ea eb : Nat) : FV :=
  if ea = 255 ∨ eb = 255 then .nan false
  else match s with
    | .fin n m e => .fin n m (e + ea + eb - 254)
    | v => v

/-! ## Conversion for output (06 R168, R172) -/

/-- A NaN that the chip produces is canonical (06 R155). -/
def canon32 (v : Word32) : Word32 := if isNan v then nan32 else v

/-- An FP32 value in OUT_FMT 0 to 3: its encoding, Strict flags, and whether it saturated to ±448. -/
def convertOut (fmt : Nat) (v : Word32) : Nat × FFlags × Bool :=
  match fmt with
  | 0 => ((canon32 v).toNat, .clear, false)
  | 3 =>
    match dec32 v with
    | .fin n m e =>
      let s := if n then 128 else 0
      if m = 0 then (s, .clear, false)
      else
        let top : Int := (m.log2 : Int) + e
        let lsb : Int := max (top - 3) (-9)
        let above := decide (464 * 2 ^ 149 < m * 2 ^ (e + 149).toNat)
        if above then (s + 0x7E, .clear, true)
        else
          let q := if lsb ≤ e then m * 2 ^ (e - lsb).toNat else rne m (lsb - e).toNat false
          (s + (if q = 0 then 0 else if (q.log2 : Int) + lsb < -6 then q
            else ((q.log2 : Int) + lsb + 7).toNat * 8 + (q * 8 / 2 ^ q.log2 - 8)), .clear, false)
    | _ => (0x7F, .clear, false)
  | f =>
    let fm := if f = 1 then bf16 else fp16
    match dec32 v with
    | .nan s => (if f = 1 then 0x7FC0 else 0x7E00, if s then flagI else .clear, false)
    | .inf n => (fm.encode n 0 0 + (2 ^ fm.eb - 1) * 2 ^ fm.mb, .clear, false)
    | .fin n m e => let r := fm.round n m e false; (r.1, r.2, false)

/-- Bytes of an output element. -/
def outBytes (fmt : Nat) : Nat := match fmt with | 0 => 4 | 3 => 1 | _ => 2

/-- An output encoding is an infinity or a NaN (06 R169). -/
def outNonfinite (fmt enc : Nat) : Bool :=
  match fmt with
  | 0 => enc % 2 ^ 31 ≥ 0x7F800000
  | 1 => enc % 2 ^ 15 ≥ 0x7F80
  | 2 => enc % 2 ^ 15 ≥ 0x7C00
  | _ => enc % 128 == 127

/-- An element read by the SFU or the selection unit, exactly in FP32: IN_FMT 0 FP32, 1 BF16, 2 FP16 (07 R174). -/
def inTo32 (fmt v : Nat) : Word32 :=
  match fmt with
  | 0 => BitVec.ofNat 32 v
  | 1 => BitVec.ofNat 32 (65536 * v)
  | _ =>
    match fp16.decode v with
    | .nan s => if s then 0x7FA00000 else nan32
    | .inf n => inf32 n
    | .fin n m e => BitVec.ofNat 32 (fp32.encode n m e)

/-- Bytes of an input element. -/
def inBytes (fmt : Nat) : Nat := if fmt = 0 then 4 else 2

end Sys2Proof.Machine
end

