-- ==== Sys2Proof/Machine/Ops.lean ====
section
/-! DEFINITION. The shared operations: one chip's view of a command, counters, trace records, the RAS log, host writes,
completions, events and wake events. -/
namespace Sys2Proof.Machine

/-- What a step answers. -/
abbrev Res := Host.Outcome State Fault Refusal

/-! ## One chip and what it sends -/

/-- For whom a unit of the chip works, and so spends energy: no one, a command of a queue pair, a step, a Super (12 R322). -/
inductive User where
  | none | qp (q : Nat) | step (id : Nat) | super (s : Nat)
  deriving DecidableEq, Repr

/-- A chip while a command acts on it. -/
structure Ctx where
  c : Fin 8
  now : Nat
  free : Nat
  chip : Chip
  /-- What the command has sent so far, oldest first. -/
  out : List Out
  /-- For whom the chip works at this point of the command. -/
  who : User
  deriving DecidableEq, Repr

/-! ## The tray ring (01 R23, R24; 17 R420) -/

/-- The backplane port position of port `p` of the chip at tray position `n`. -/
def ringPos (n p : Nat) : Nat := 18 * n + p

/-- The position that the transmitter of position `b` is wired to on the paddle card; none for a position of a switch plane. -/
def ringPeer (b : Nat) : Option Nat :=
  if b % 18 = 17 then some (ringPos ((b / 18 + 1) % 8) 16)
  else if b % 18 = 16 then some (ringPos ((b / 18 + 7) % 8) 17)
  else none

/-- What a chip sends on a ring port goes onto the wire to its neighbour. -/
def ringSend (r : Tab (List Bytes)) : Out → Tab (List Bytes)
  | .flit c p bytes => match ringPeer (ringPos c p) with
    | some b => tset [] r b (tget [] r b ++ [bytes])
    | none => r
  | _ => r

/-- Run `f` on chip `c`: nothing but that chip, the free-value count, the wires of the ring and the outbox changes. -/
def onChip (c : Fin 8) (f : Ctx → Ctx) (s : State) : State :=
  let x := f ⟨c, s.now, s.free, s.chips.get c, [], .none⟩
  { s with chips := s.chips.set c x.chip, free := x.free, ring := x.out.foldl ringSend s.ring, out := s.out ++ x.out }

/-- `onChip` as the answer of a step. -/
def chipNext (c : Fin 8) (f : Ctx → Ctx) (s : State) : Res := .next (onChip c f s)

/-- Do `f` where `p` holds, else nothing. -/
def onlyIf (p : Bool) (f : Ctx → Ctx) (x : Ctx) : Ctx := if p then f x else x

def Ctx.onBoot (x : Ctx) (f : Boot → Boot) : Ctx := { x with chip := { x.chip with boot := f x.chip.boot } }
def Ctx.onBar (x : Ctx) (f : Bar → Bar) : Ctx := { x with chip := { x.chip with bar := f x.chip.bar } }
def Ctx.onStew (x : Ctx) (f : Steward → Steward) : Ctx := { x with chip := { x.chip with stew := f x.chip.stew } }
def Ctx.onConfig (x : Ctx) (f : Config → Config) : Ctx := { x with chip := { x.chip with config := f x.chip.config } }
def Ctx.onServe (x : Ctx) (f : Serving → Serving) : Ctx := { x with chip := { x.chip with serve := f x.chip.serve } }
def Ctx.onEng (x : Ctx) (f : Engines → Engines) : Ctx := { x with chip := { x.chip with eng := f x.chip.eng } }
def Ctx.onMem (x : Ctx) (f : Memory → Memory) : Ctx := { x with chip := { x.chip with mem := f x.chip.mem } }
def Ctx.onFab (x : Ctx) (f : Fabric → Fabric) : Ctx := { x with chip := { x.chip with fab := f x.chip.fab } }
def Ctx.onPower (x : Ctx) (f : Power → Power) : Ctx := { x with chip := { x.chip with power := f x.chip.power } }
def Ctx.onObs (x : Ctx) (f : Observe → Observe) : Ctx := { x with chip := { x.chip with obs := f x.chip.obs } }
def Ctx.onLedger (x : Ctx) (f : Ledger → Ledger) : Ctx := { x with chip := { x.chip with ledger := f x.chip.ledger } }

/-- Local fabric time (00 Units, 10 R266). DESIGN CHOICE (log entry 94): a stamp of the chip's own is the value of the time
base, and the 3 ns that 01 R42 allows are not used. -/
def Ctx.time (x : Ctx) : Nat := x.chip.fab.time.toNat

/-- A stamp taken in another clock domain is within 3 ns of the time base (01 R42); a value further off is no stamp of this moment,
and the time base stands for it. -/
def Ctx.stampOf (x : Ctx) (t : Word64) : Word64 :=
  if (t - x.chip.fab.time).toNat ≤ 3 ∨ (x.chip.fab.time - t).toNat ≤ 3 then t else x.chip.fab.time

/-- The Lull holds the chip frozen (13 R344). -/
def Ctx.frozen (x : Ctx) : Bool := x.chip.obs.lull == .frozen

/-- The active configuration set. -/
def Ctx.act (x : Ctx) : CfgSet := x.chip.config.active

/-- Queue pair `q`. -/
def Ctx.qp (x : Ctx) (q : Nat) : QPair := tget .none x.chip.stew.qps q

def Ctx.setQp (x : Ctx) (q : Nat) (p : QPair) : Ctx := x.onStew fun w => { w with qps := tset .none w.qps q p }

/-- A fresh stamp for a free value. -/
def Ctx.bump (x : Ctx) : Ctx := { x with free := x.free + 1 }

/-! ## Dynamic energy (12 R322, R324) -/

/-- The chip works for `u` from here on. -/
def Ctx.workFor (x : Ctx) (u : User) : Ctx := { x with who := u }

/-- Do `f` for `u`, and go on for whom the chip worked before. -/
def Ctx.onBehalf (x : Ctx) (u : User) (f : Ctx → Ctx) : Ctx := (f (x.workFor u)).workFor x.who

/-- The tokens of a step's entries, and those of them at draft positions. -/
def StepRec.tokenShares (t : StepRec) : Nat × Nat :=
  ((t.entries.map (·.tokens)).sum, (t.entries.map fun e => if e.decode then e.drafts else 0).sum)

/-- The consumers of energy `e` spent for `u`, and their parts: a step's is divided by tokens, and what its draft positions take is
tentative (R322, R126). -/
def Ctx.consumers (x : Ctx) (u : User) (e : Nat) : List (Nat × Nat) :=
  match u with
  | .none => [(80, e)]
  | .qp q => [(q, e)]
  | .super s => [(72 + s, e)]
  | .step id =>
    match x.chip.serve.steps.find? fun t => t.id == id with
    | none => [(80, e)]
    | some t =>
      let n := t.tokenShares
      let d := e * n.2 / n.1
      [(t.qp, e - d), (64 + t.super, d)]

/-- The unit in which the ledger keeps the energy of a rail: on a die rail (V ÷ 0.80 V)² is (8,750 + 3f)² ÷ 14,000² (R324). -/
def Ctx.railScale (x : Ctx) (rail : Nat) : Nat :=
  if rail < 4 then (8750 + 3 * (tget Die.initial x.chip.eng.dies rail).mhz) ^ 2 else 1

/-- `fj` femtojoules of dynamic energy on a rail (dies 0 to 3, 4 the I/O die, 5 HBM); a frozen chip counts none (13 R345). A die on
which a step spends energy has run a dispatched step (R309). -/
def Ctx.charge (x : Ctx) (rail fj : Nat) : Ctx :=
  if x.frozen || fj = 0 then x
  else
    let isStep := match x.who with | .step _ => true | _ => false
    x.onLedger fun l => { l with
      spent := (x.consumers x.who (fj * x.railScale rail)).foldl (fun t e => tupd 0 t (8 * e.1 + rail) (· + e.2)) l.spent
      ran := if isStep && decide (rail < 4) && !l.ran.contains rail then rail :: l.ran else l.ran }

/-- `n` PCIe payload bytes. -/
def Ctx.pcieBytes (x : Ctx) (n : Nat) : Ctx := x.charge 4 (8000 * n)

/-- `n` HBM bytes read or written. -/
def Ctx.hbmBytes (x : Ctx) (n : Nat) : Ctx :=
  (x.charge 5 (20000 * n)).onLedger fun l => { l with hbmBytes := l.hbmBytes + n }

/-- The energy of what the chip sends: PCIe payload bytes and flits. -/
def Ctx.sendEnergy (x : Ctx) : Out → Ctx
  | .hostWrite _ _ data _ _ => x.pcieBytes data.length
  | .msix .. => x.pcieBytes 4
  | .readAnswer _ (some data) _ => x.pcieBytes data.length
  | .flit .. => x.charge 4 6000000
  | _ => x

/-- Send, and count its energy. -/
def Ctx.emit (x : Ctx) (o : Out) : Ctx := { x with out := x.out ++ [o] }.sendEnergy o

/-- A poisoned completion of a host read is reported (16 R410). -/
def Ctx.poisonedTlp (x : Ctx) : Ctx := x.emit (.aer x.c 1 "Poisoned TLP Received")

/-- A host read that ends in an error completion: the row does not say whether the completion was poisoned or failed its ECRC, which
AER reports, or carried another status, for which 16 R410 names no report. A free value chooses (DESIGN CHOICE, log entry 61). -/
def Ctx.readFails (x : Ctx) : Ctx :=
  let y := x.bump
  match Config.freeNat x.free % 3 with
  | 0 => y.poisonedTlp
  | 1 => y.emit (.aer y.c 1 "ECRC Error")
  | _ => y

/-- A failed host read whose error the row brings: a poisoned completion is reported as such (16 R410). -/
def Ctx.hostError (x : Ctx) (e : SrcErr) : Ctx := if e = .poisoned then x.poisonedTlp else x

/-- A posted write to host memory; after a fatal host-link error nothing is posted (16 R411). -/
def Ctx.postWrite (x : Ctx) (relaxed : Bool) (addr : Nat) (data : Bytes) : Ctx :=
  if x.chip.boot.linkFatal || data.isEmpty then x else x.emit (.hostWrite x.c addr data false relaxed)

/-- A posted write with Relaxed Ordering clear: completion entries and status words (03 R63), and whatever is no result buffer. -/
def Ctx.hostWrite (x : Ctx) (addr : Nat) (data : Bytes) : Ctx := x.postWrite false addr data

/-- A write to a result buffer: Relaxed Ordering is set (03 R63). -/
def Ctx.resultWrite (x : Ctx) (addr : Nat) (data : Bytes) : Ctx := x.postWrite true addr data

/-! ## Arbiters (01 R34) -/

/-- The grants that are left in the round: a new round begins when no waiting producer has one. -/
def Arb.round (a : Arb) (weight : Nat → Nat) (waiting : List Nat) : Tab Nat :=
  if waiting.any fun p => 0 < tget 0 a.left p then a.left else waiting.foldl (fun t p => tset 0 t p (weight p)) []

/-- The arbiter may grant `p`: it waits, has a grant left in this round, and no such producer has been refused more often. -/
def Arb.mayGrant (a : Arb) (weight : Nat → Nat) (waiting : List Nat) (p : Nat) : Bool :=
  let left := a.round weight waiting
  waiting.contains p && decide (0 < tget 0 left p) &&
    waiting.all fun q => decide (tget 0 left q = 0 ∨ tget 0 a.lost q ≤ tget 0 a.lost p)

/-- `p` is granted; every other waiting producer has lost once more. -/
def Arb.grant (a : Arb) (weight : Nat → Nat) (waiting : List Nat) (p : Nat) : Arb where
  lost := (waiting.filter (· != p)).foldl (fun t q => tset 0 t q (tget 0 a.lost q + 1)) []
  left := tupd 0 (a.round weight waiting) p (· - 1)

/-! ## Images of configuration sections -/

/-- Byte `k` of a sparse image. -/
def imgByte (m : Mem) (k : Nat) : Byte := (m.lookup k).getD 0

/-- `n` bytes of a sparse image from `off`. -/
def imgBytes (m : Mem) (off n : Nat) : Bytes := (List.range n).map fun k => imgByte m (off + k)

/-- The `n`-byte field at `off` of a sparse image. -/
def imgField (m : Mem) (off n : Nat) : Nat := leNat (imgBytes m off n)

/-- A sparse image of `bs`. -/
def imgOf (bs : Bytes) : Mem := cellsOf 0 bs

/-- An image with the bytes from `off` replaced by `bs`. -/
def imgWrite (m : Mem) (off : Nat) (bs : Bytes) : Mem := splice m off bs.length (cellsOf off bs)

/-! ## Collective groups (11 R279, R281) -/

/-- The entry of group `g` in a route section. -/
def groupAt (g : Nat) : Nat := 0x20100 + 144 * g

/-- Group `g` is defined and belongs to Super `s`. -/
def groupOf (m : Mem) (g s : Nat) : Bool :=
  decide (g < (imgByte m 0x14).toNat) && (imgByte m (groupAt g)).toNat % 8 == s

/-- The chip of rank `r` of group `g`. -/
def groupMember (m : Mem) (g r : Nat) : Nat := imgField m (groupAt g + 16 + 2 * r) 2

/-- This chip's rank in group `g`. -/
def groupRank (m : Mem) (g : Nat) : Nat := (imgByte m (groupAt g + 2)).toNat

/-- Super `s` may send to rank `r` of group `g`: another member of a group of its own. -/
def groupPeer (m : Mem) (s g r : Nat) : Bool :=
  groupOf m g s && decide (r < (imgByte m (groupAt g + 1)).toNat) && r != groupRank m g

/-! ## Supers (04 R98) -/

/-- The Super record of `s`, 64 B. -/
def superRec (m : Mem) (s : Nat) : Bytes := imgBytes m (64 * s) 64

def superDefined (m : Mem) (s : Nat) : Bool := (imgByte m (64 * s)).toNat.testBit 0
def superFrameCode (m : Mem) (s : Nat) : Nat := (imgByte m (64 * s + 1)).toNat % 8
def superStreamBase (m : Mem) (s : Nat) : Nat := imgField m (64 * s + 4) 2
def superStreamCount (m : Mem) (s : Nat) : Nat := imgField m (64 * s + 6) 2
def superQpBase (m : Mem) (s : Nat) : Nat := (imgByte m (64 * s + 8)).toNat % 64
def superQpCount (m : Mem) (s : Nat) : Nat := (imgByte m (64 * s + 9)).toNat % 128
def superSramMib (m : Mem) (s : Nat) : Nat := imgField m (64 * s + 12) 4
def superHbmMib (m : Mem) (s : Nat) : Nat := imgField m (64 * s + 16) 4
def superFrames (m : Mem) (s : Nat) : Nat := imgField m (64 * s + 20) 4
def superCombs (m : Mem) (s : Nat) : Nat := imgField m (64 * s + 24) 16

/-- Frame size in bytes: 4 KiB shifted left by the code (04 R98). -/
def frameBytes (code : Nat) : Nat := 4096 * 2 ^ code

/-- The Super that owns stream `i` under a map. -/
def superOfStream (m : Mem) (i : Nat) : Option Nat :=
  (List.range 8).find? fun s =>
    superDefined m s && decide (superStreamBase m s ≤ i ∧ i < superStreamBase m s + superStreamCount m s)

/-- How many Combs of die `d` the Super owns. -/
def combsOnDie (m : Mem) (s d : Nat) : Nat := count (fun k => (superCombs m s).testBit (32 * d + k)) (List.range 32)

/-- How many Combs the Super owns. -/
def combsOf (m : Mem) (s : Nat) : Nat := count (fun k => (superCombs m s).testBit k) (List.range 128)

/-- A Super's Comb store share on die `d` in bytes (08 R197). -/
def shareBytes (m : Mem) (s d : Nat) : Nat :=
  if superDefined m s then 65536 * (superSramMib m s * 16 * combsOnDie m s d / combsOf m s) else 0

/-- Where Super `s`'s share on die `d` starts (08 R197). -/
def shareBase (m : Mem) (s d : Nat) : Nat := (List.range s).foldl (fun n t => n + shareBytes m t d) 0

/-- Where Super `s`'s HBM slice starts (08 R199). -/
def sliceBase (m : Mem) (s : Nat) : Nat :=
  (List.range s).foldl (fun n t => n + if superDefined m t then 1048576 * superHbmMib m t else 0) 0

/-- The size of Super `s`'s HBM slice. -/
def sliceBytes (m : Mem) (s : Nat) : Nat := 1048576 * superHbmMib m s

/-- The frame size of Super `s` in bytes (04 R98). -/
def superFrameBytes (m : Mem) (s : Nat) : Nat := frameBytes (superFrameCode m s)

/-- The size of Super `s`'s general area (08 R199). -/
def generalBytes (m : Mem) (s : Nat) : Nat :=
  if superDefined m s then sliceBytes m s - superFrames m s * superFrameBytes m s else 0

/-- The data-space address of frame `k` of Super `s` (08 R199). -/
def frameAddr (m : Mem) (s k : Nat) : Nat := sliceBase m s + generalBytes m s + k * superFrameBytes m s

/-! ## Counters (13 R330 to R336) -/

def ctrKey (block inst val : Nat) : Nat := 2 ^ 24 * block + 2 ^ 8 * inst + val

/-- Energy accumulators are 64 bits wide, every other counter 48 (13 R330). -/
def ctrWidth (block : Nat) : Nat := if block = 0x0F ∨ block = 0x10 ∨ block = 0x11 then 64 else 48

/-- The blocks that count in Dormant (13 R335). -/
def dormantBlock (block : Nat) : Bool := [0x09, 0x0A, 0x0D, 0x0F, 0x10, 0x11].contains block

/-- Counter events of the block are lost: the chip is Dormant, and the block is none that counts there (02 R58, 13 R335). -/
def Ctx.countsOff (x : Ctx) (block : Nat) : Bool := x.chip.boot.pstate == .dormant && !dormantBlock block

/-- The value of a counter. -/
def Ctx.ctr (x : Ctx) (block inst val : Nat) : Nat := tget 0 x.chip.obs.counters (ctrKey block inst val)

/-- Add `n` to a counter; a frozen chip holds the addition until its release (13 R345). -/
def Ctx.count (x : Ctx) (block inst val n : Nat) : Ctx :=
  if n = 0 || x.countsOff block then x
  else if x.frozen then x.onObs fun o => { o with pending := tupd 0 o.pending (ctrKey block inst val) (· + n) }
  else x.onObs fun o =>
    { o with counters := tupd 0 o.counters (ctrKey block inst val) fun v => (v + n) % 2 ^ ctrWidth block }

/-- Add a list of (block, instance, value, amount). -/
def Ctx.counts (x : Ctx) (l : List (Nat × Nat × Nat × Nat)) : Ctx :=
  l.foldl (fun x e => x.count e.1 e.2.1 e.2.2.1 e.2.2.2) x

/-- Add to a count of block 0x13; a frozen chip holds the addition until its release (13 R345, R348). -/
def Ctx.queueAdd (x : Ctx) (k n : Nat) : Ctx :=
  if x.countsOff 0x13 then x
  else if x.frozen then x.onObs fun o => { o with pending := tupd 0 o.pending (0x13 * 2 ^ 24 + k) (· + n) }
  else x.onObs fun o => { o with queueIo := tupd 0 o.queueIo k fun v => (v + n) % 2 ^ 48 }

/-- IN of queue `k` of block 0x13 (13 R348). -/
def Ctx.queueIn (x : Ctx) (k n : Nat) : Ctx := x.queueAdd (2 * k) n

/-- OUT of queue `k` of block 0x13. -/
def Ctx.queueOut (x : Ctx) (k n : Nat) : Ctx := x.queueAdd (2 * k + 1) n

/-- `n` bytes pass a die-to-die queue of die `d`, toward the I/O die (0) or from it (1), in entries of 256 B (01 R35, 13 R348). -/
def Ctx.crossDie (x : Ctx) (d dir n : Nat) : Ctx :=
  let k := 412 + 2 * d + dir
  (x.queueIn k ((n + 255) / 256)).queueOut k ((n + 255) / 256)

/-! ## Trace records (13 R338 to R341) -/

/-- A trace record, 32 B. -/
def traceBytes (type source stream code flags data0 time data1 : Nat) : Bytes :=
  toLE 1 type ++ toLE 1 source ++ toLE 2 stream ++ toLE 5 code ++ toLE 1 flags ++ toLE 6 (min data0 (2 ^ 48 - 1)) ++
    toLE 8 time ++ toLE 8 (min data1 (2 ^ 64 - 1))

/-- Put a record into its source's queue of 16, or count it lost there (13 R341). -/
def Ctx.traceRaw (x : Ctx) (source : Nat) (rec : Bytes) : Ctx :=
  if (tget [] x.chip.obs.sources source).length < 16 then
    x.onObs fun o => { o with sources := tupd [] o.sources source (· ++ [rec]) }
  else
    (x.count 0x12 source 0 1).onObs fun o =>
      { o with lossTime := if o.lossSrc + o.lossRing + o.lossEcc = 0 then x.time else o.lossTime, lossSrc := o.lossSrc + 1 }

/-- Make a record of types 1 to 6 where its class is set and, if it names a Super, that Super's bit; a frozen source makes none
(13 R339, R345). -/
def Ctx.trace (x : Ctx) (type source : Nat) (super : Option Nat) (stream : Option Nat) (code flags data0 data1 : Nat) : Ctx :=
  let named := match super with | none => true | some s => x.chip.obs.superMask.testBit s
  if !x.frozen && x.chip.obs.classMask.testBit (type - 1) && named then
    let st := (match super with | none => 0 | some s => s * 4096) + (match stream with | none => 0 | some i => i + 32768)
    x.traceRaw source (traceBytes type source st code flags data0 x.time data1)
  else x

/-! ## The sticky RAS error log (16 R412) -/

/-- Enter an error; `super` none gives chip scope. -/
def Ctx.ras (x : Ctx) (cls unit index code : Nat) (super : Option Nat) (addr detail : Nat) : Ctx :=
  let sup := match super with | none => 128 | some s => s
  let e := toLE 8 x.time ++ toLE 1 cls ++ toLE 1 unit ++ toLE 2 index ++ toLE 2 code ++ toLE 1 sup ++ toLE 1 0 ++
    toLE 8 addr ++ toLE 8 detail
  x.onObs fun o =>
    if o.rasLog.length < 126 then { o with rasLog := o.rasLog ++ [e] }
    else { o with rasLog := o.rasLog.drop 1 ++ [e], logLost := satAdd 32 o.logLost 1 }

/-- The class under which a command's status is logged (16 R401); an uncorrectable error is logged where it is found. -/
def statusClass (status : Nat) : Option Nat :=
  if status = 0x0402 then some 0x02
  else if status = 0x0403 then some 0x04
  else if status = 0x0404 then some 0x08
  else if status / 256 = 0x05 then some 0x06
  else if status = 0x0601 then some 0x07
  else if status = 0x0700 then some 0x0B
  else none

/-- Class, unit and index of an error met by a step: poison in weights, a frame or a pinned segment is that object's (16 R401, R405,
R413). -/
def stepClass (status r0 r1 : Nat) : Option (Nat × Nat × Nat) :=
  let src := r0 / 2 ^ 48
  if 0x0400 ≤ status ∧ status ≤ 0x0402 then
    some (if status = 0x0402 ∧ src ≠ 3 then 3 else 2, if src ≤ 2 then (6, r1 / 8192 % 8) else (5, r1 / 2 ^ 62))
  else if status = 0x0403 then some (4, 8, 0)
  else if status / 256 = 5 then some (6, 9, 0)
  else none

/-! ## MSI-X (03 R71) -/

/-- Raise vector `v`: sent, or pending while masked; nothing while MSI-X Enable is 0. -/
def Ctx.raise (x : Ctx) (v : Nat) : Ctx :=
  let b := x.chip.bar
  let e := tget .initial b.msix v
  if !b.msixEnable || x.chip.boot.linkFatal then x
  else if b.functionMask || e.masked then x.onBar fun b => { b with pba := if b.pba.contains v then b.pba else b.pba ++ [v] }
  else x.emit (.msix x.c v e.addr e.data)

/-! ## Completion entries (03 R36, R72, R79) -/

/-- A completion queue of depth N holds at most N - 1 unreleased entries (01 R36). -/
def QPair.full (p : QPair) : Bool := decide (p.cqDepth ≤ p.posted - p.released + 1)

/-- The completion entry of 32 B as pair `p` posts it next (03 R79). -/
def cplBytes (p : QPair) (k : Cpl) : Bytes :=
  toLE 2 k.status ++ toLE 2 k.tag ++ toLE 2 p.fetch ++ toLE 1 k.qp ++ toLE 1 0 ++ toLE 8 k.r0 ++ toLE 8 k.r1 ++
    toLE 6 k.time ++ toLE 1 0 ++ toLE 1 (b2n k.late + 128 * (1 - p.posted / p.cqDepth % 2))

/-- Completion queue `q` takes an entry now; `lull` marks a Lull event, the only entry of a frozen chip (13 R345). -/
def Ctx.canPost (x : Ctx) (q : Nat) (lull : Bool) : Bool :=
  let p := x.qp q
  p.live && !p.full && !x.chip.boot.linkFatal && (lull || !x.frozen)

/-- Write an entry and advance the posting position. -/
def Ctx.writeEntry (x : Ctx) (k : Cpl) : Ctx :=
  let p := x.qp k.qp
  (x.onBehalf (.qp k.qp) fun x => x.hostWrite (p.cqBase + 32 * (p.posted % p.cqDepth)) (cplBytes p k)).setQp k.qp
    { p with posted := p.posted + 1 }

/-- Raise or gather the message of a posted completion (03 R67, R74). -/
def Ctx.signal (x : Ctx) (q : Nat) (quiet : Bool) : Ctx :=
  let p := x.qp q
  if quiet || !p.irqEnable then x
  else if q = 0 || p.irqCount ≤ 1 || p.irqTime = 0 || p.irqCount ≤ p.unsignalled + 1 then
    (x.setQp q { p with unsignalled := 0 }).raise p.vector
  else x.setQp q { p with unsignalled := p.unsignalled + 1 }

/-- Post a completion, or hold it while its queue is full (01 R36). -/
def Ctx.post (x : Ctx) (k : Cpl) : Ctx :=
  if x.canPost k.qp false && !(x.chip.stew.held.any fun h => h.qp == k.qp) then (x.writeEntry k).signal k.qp k.quiet
  else x.onStew fun w => { w with held := w.held ++ [k] }

/-! ## Events (03 R81) -/

/-- The Lull events that a frozen chip posts (13 R345, R351). -/
def lullCode (code : Nat) : Bool := code == 0x0C01 || code == 0x0C02

/-- Post the entry of a code that has unposted occurrences and no unreleased entry. -/
def Ctx.postEvent (x : Ctx) (e : EvRec) : Ctx :=
  if e.count = 0 || e.posted.isSome || !x.canPost 0 (lullCode e.code) then x
  else
    let n := (x.qp 0).posted
    let k : Cpl := ⟨0, 4, 0xFFFF, e.code + 65536 * min e.count 0xFFFF + 2 ^ 32 * e.source, e.detail, false, false, x.time, 0, 0⟩
    ((x.writeEntry k).onStew fun w =>
      { w with events := w.events.map fun r => if r.code = e.code then { r with count := 0, posted := some n } else r }).signal 0 false

/-- Post every due event entry. -/
def Ctx.postEvents (x : Ctx) : Ctx := x.chip.stew.events.foldl Ctx.postEvent x

/-- An occurrence of an event: counted, traced (13 R338), and posted where an entry may be. -/
def Ctx.event (x : Ctx) (code source detail : Nat) : Ctx :=
  let x := x.trace 6 152 none none 0 0 code detail
  let x := x.onStew fun w =>
    if w.events.any fun r => r.code == code then
      { w with events := w.events.map fun r =>
          if r.code = code then
            if r.count = 0 then { r with count := 1, source := source, detail := detail } else { r with count := r.count + 1 }
          else r }
    else { w with events := w.events ++ [⟨code, 1, source, detail, none⟩] }
  match x.chip.stew.events.find? fun r => r.code == code with
  | none => x
  | some r => x.postEvent r

/-! ## Commands -/

/-- Header fields of a submission entry (03 R76). -/
def Cmd.opcode (k : Cmd) : Nat := byteAt k.entry 0
def Cmd.fence (k : Cmd) : Bool := bitAt k.entry 1 0
def Cmd.quiet (k : Cmd) : Bool := bitAt k.entry 1 1
def Cmd.tag (k : Cmd) : Nat := field k.entry 2 2
def Cmd.dataLen (k : Cmd) : Nat := field k.entry 4 4
def Cmd.dataPtr (k : Cmd) : Nat := field k.entry 8 8
def Cmd.resultPtr (k : Cmd) : Nat := field k.entry 16 8
def Cmd.resultLen (k : Cmd) : Nat := field k.entry 24 4

/-- The command-specific field of `n` bytes at byte `off`. -/
def Cmd.arg (k : Cmd) (off n : Nat) : Nat := field k.entry off n

/-- The Super of a command's queue pair; none on queue pair 0. -/
def Ctx.superOf (x : Ctx) (k : Cmd) : Option Nat := if k.qp = 0 then none else some (x.qp k.qp).super

/-- Fetched command `id`. -/
def Ctx.cmd? (x : Ctx) (id : Nat) : Option Cmd := x.chip.stew.cmds.find? fun k => k.id == id

def Ctx.dropCmd (x : Ctx) (id : Nat) : Ctx := x.onStew fun w => { w with cmds := w.cmds.filter fun k => k.id != id }

def Ctx.setPhase (x : Ctx) (id : Nat) (ph : CmdPhase) : Ctx :=
  x.onStew fun w => { w with cmds := w.cmds.map fun k => if k.id = id then { k with phase := ph } else k }

/-- Log a status that the error classes name (16 R401, R412). A step that ends with 0x0502 has stalled; what its copies met was
logged as it was met. -/
def Ctx.logStatus (x : Ctx) (k : Cmd) (status r0 r1 : Nat) : Ctx :=
  if k.opcode = 0x30 ∧ status = 0x0502 then x.ras 0x08 9 0 status (x.superOf k) 0 r0
  else match (if k.opcode = 0x30 then stepClass status r0 r1 else none), statusClass status with
    | some e, _ => x.ras e.1 e.2.1 e.2.2 status (x.superOf k) r1 r0
    | none, some cls => x.ras cls (if cls = 0x04 then 8 else 9) 0 status (x.superOf k) 0 r0
    | none, none => x

/-- Drop a fetched command and post its completion (03 R80). -/
def Ctx.endCmd (x : Ctx) (k : Cmd) (late : Bool) (status r0 r1 : Nat) : Ctx :=
  (x.dropCmd k.id).post ⟨k.qp, status, k.tag, r0, r1, late, k.quiet, x.time, k.id, k.opcode⟩

/-- A waiting QUEUE_DELETE completes once its pair's fetched commands have posted (03 R75). -/
def Ctx.settleDelete (x : Ctx) (k : Cmd) : Ctx :=
  let qid := k.arg 28 1 % 64
  if k.opcode = 0x03 ∧ k.phase = .running ∧ (x.chip.stew.cmds.any fun a => a.qp == qid) = false ∧
      (x.chip.stew.held.any fun a => a.qp == qid) = false then
    (x.setQp qid .none).endCmd k false 0 0 0
  else x

def Ctx.settle (x : Ctx) : Ctx := x.chip.stew.cmds.foldl Ctx.settleDelete x

/-- End a fetched command whose error, if any, is in the log already: its output, header bytes 4 to 15, header bytes 0 to 3, then
its completion (03 R82). -/
def Ctx.finishLogged (x : Ctx) (k : Cmd) (late : Bool) (status r0 r1 : Nat) (output : Bytes) : Ctx :=
  let x :=
    if k.resultPtr = 0 then x
    else
      ((x.resultWrite (k.resultPtr + 16) output).resultWrite (k.resultPtr + 4)
        (toLE 1 (b2n late) ++ toLE 3 0 ++ toLE 4 output.length ++ toLE 4 0)).hostWrite k.resultPtr (toLE 2 status ++ toLE 2 k.tag)
  (x.endCmd k late status r0 r1).settle

/-- End a fetched command, logging its status. -/
def Ctx.finishLate (x : Ctx) (k : Cmd) (late : Bool) (status r0 r1 : Nat) (output : Bytes) : Ctx :=
  (x.logStatus k status r0 r1).finishLogged k late status r0 r1 output

def Ctx.finish (x : Ctx) (k : Cmd) (status r0 r1 : Nat) (output : Bytes) : Ctx := x.finishLate k false status r0 r1 output

/-- Refuse a fetched command: its status word, then its completion (03 R62, R82). -/
def Ctx.refuse (x : Ctx) (k : Cmd) (status r0 r1 : Nat) : Ctx :=
  let x := x.logStatus k status r0 r1
  let x := if k.resultPtr = 0 then x else x.hostWrite k.resultPtr (toLE 2 status ++ toLE 2 k.tag)
  (x.endCmd k false status r0 r1).settle

/-- End a command that has no output. -/
def Ctx.done (x : Ctx) (k : Cmd) (status r0 r1 : Nat) : Ctx := x.finish k status r0 r1 []

/-- Post what waited: held completions in order, then due events (01 R36, 03 R81). -/
def Ctx.flush (x : Ctx) : Ctx :=
  let held := x.chip.stew.held
  ((held.foldl Ctx.post (x.onStew fun w => { w with held := [] })).postEvents).settle

/-! ## Power-state events (02 R59, R60) -/

/-- Send WAKE on every DRIZZLE port that is not being woken (10 R264). -/
def Fabric.wakePorts (f : Fabric) : Fabric :=
  { f with ports := f.ports.map fun e =>
      if e.2.state = .drizzle ∧ e.2.driz.waking = false then
        (e.1, { e.2 with driz := { e.2.driz with waking := true }, mgmtTx := e.2.mgmtTx ++ [(2, [4])] })
      else e }

/-- A wake event: it ends Dormant and wakes the ports, or abandons an entry. -/
def Ctx.wakeEvent (x : Ctx) : Ctx :=
  match x.chip.boot.pstate with
  | .dormant => if x.chip.boot.waking then x else (x.onBoot fun b => { b with waking := true }).onFab Fabric.wakePorts
  | .idle =>
    if x.chip.boot.dormantEntry then x.onBoot fun b => { b with dormantEntry := false, waking := true } else x
  | _ => x

/-- Work enters a queue, or a request flit arrives: an Idle chip becomes Active (02 R59). -/
def Ctx.activate (x : Ctx) : Ctx :=
  x.onBoot fun b =>
    match b.pstate with
    | .idle => { b with pstate := .active, dormantEntry := false, waking := false }
    | _ => b

/-- An open Gust window ends: none starts until four times its length has passed (12 R311). -/
def Ctx.endGust (x : Ctx) : Ctx :=
  match x.chip.power.gust with
  | none => x
  | some t => x.onPower fun p => { p with gust := none, lockout := x.now + 4 * (x.now - t) }

/-- What has fallen into the quiet window of POWER_CALIBRATE (12 R327). -/
def Ctx.onQuiet (x : Ctx) (f : QuietWin → QuietWin) : Ctx := x.onPower fun p => { p with quietWin := p.quietWin.map f }

/-- The chip's rails are up and it answers (02 R57). -/
def Ctx.awake (x : Ctx) : Bool := x.chip.boot.pstate == .active || x.chip.boot.pstate == .idle

end Sys2Proof.Machine
end

