-- ==== Sys2Proof/Machine/Flags.lean ====
section
/-! DEFINITION. The register words of BAR0: status, control and pending bits as the host reads them (02 R52, 03 R65 to R71). -/
namespace Sys2Proof.Machine

/-- The PSTATE code (02 R57). -/
def pstateCode : PState → Nat
  | .off => 0
  | .booting => 1
  | .active => 2
  | .idle => 3
  | .dormant => 4
  | .resetting => 5

/-- The RESET_CAUSE code (02 R52). -/
def causeCode : ResetKind → Nat
  | .powerOn => 0
  | .perst => 1
  | .ndevas => 2
  | .flr => 3
  | .watchdog => 4

/-- CHIP_STATUS (02 R52). -/
def chipStatus (b : Boot) : Nat :=
  b2n b.ready + 2 * pstateCode b.pstate + 16 * causeCode b.cause + 256 * b2n b.fwFailed + 65536 * b.bootStage.toNat

/-- QP0_CONTROL (03 R65). -/
def qp0Control (b : Bar) : Nat :=
  b2n b.enable + 2 * b2n b.enabled + 4 * b2n b.setupError + 8 * b2n b.irqEnable + 65536 * b.vector.toNat

/-- FW_VERSION, 0 until BOOT_STAGE reaches 0x02 (03 R65). -/
def fwVersionReg (b : Boot) : Nat := if b.bootStage.toNat < 2 then 0 else b.fwVersion.toNat

/-- The value of an aligned BAR0 register as a read finds it; a read of an RC register clears it besides (03 R64, R65, R68, R71). -/
def bar0Value (x : Ctx) (off : Nat) : Nat :=
  let b := x.chip.bar
  let boot := x.chip.boot
  if off = 0x00 then chipStatus boot
  else if off = 0x04 then b.earlyDb.toNat
  else if off = 0x08 then b.badDb.toNat
  else if off = 0x0C then fwVersionReg boot
  else if off = 0x10 then b.heartbeat.toNat
  else if off = 0x14 then b.stewardFault.toNat
  else if off = 0x20 then b.sqBase.toNat % 2 ^ 32
  else if off = 0x24 then b.sqBase.toNat / 2 ^ 32
  else if off = 0x28 then b.cqBase.toNat % 2 ^ 32
  else if off = 0x2C then b.cqBase.toNat / 2 ^ 32
  else if off = 0x30 then b.depth.toNat
  else if off = 0x34 then qp0Control b
  else if 0x10000 ≤ off ∧ off < 0x10200 then (tget 0 b.doorbells (off % 0x10000 / 4)).toNat
  else if 0x20000 ≤ off ∧ off < 0x28000 then
    let e := tget .initial b.msix (off % 0x8000 / 16)
    match off % 16 / 4 with
    | 0 => e.addr.toNat % 2 ^ 32
    | 1 => e.addr.toNat / 2 ^ 32
    | 2 => e.data.toNat
    | _ => b2n e.masked
  else if 0x28000 ≤ off ∧ off < 0x28100 then
    (List.range 32).foldl (fun n k => n + if b.pba.contains (8 * (off % 0x8000) + k) then 2 ^ k else 0) 0
  else 0

/-- The low half of a 64-bit register replaced. -/
def setLo (r : Word64) (v : Word32) : Word64 := BitVec.ofNat 64 (2 ^ 32 * (r.toNat / 2 ^ 32) + v.toNat)

/-- The high half of a 64-bit register replaced. -/
def setHi (r : Word64) (v : Word32) : Word64 := BitVec.ofNat 64 (2 ^ 32 * v.toNat + r.toNat % 2 ^ 32)

/-- A 32-bit count that saturates (02 R52, 03 R65). -/
def satInc (v : Word32) : Word32 := if v = 0xFFFFFFFF then v else v + 1

end Sys2Proof.Machine
end

