-- ==== Sys2Proof/Machine/Admit.lean ====
section
/-! DEFINITION. How a command is admitted: the header checks of 03 R77 and the conditions under which a fetched command starts. -/
namespace Sys2Proof.Machine

/-! ## Shapes of the commands -/

/-- What a command needs behind a pointer. -/
inductive Need where
  | unused | atLeast (n : Nat) | exactly (n : Nat)
  deriving DecidableEq, Repr

/-- Where a command may be sent (03 R84). -/
inductive QueueRule where
  | any | zeroOnly | superOnly
  deriving DecidableEq, Repr

/-- The shape of a command: its queue, its argument structure, its result buffer, its reserved bits as (byte, low bit, width),
and whether a field holds a reserved encoding. -/
structure Shape where
  queue : QueueRule
  data : Need
  result : Need
  reserved : List (Nat × Nat × Nat)
  badCode : Bool
  deriving DecidableEq, Repr

/-- Whole bytes `lo` to `hi`, reserved. -/
def spareBytes (lo hi : Nat) : List (Nat × Nat × Nat) := (List.range (hi + 1 - lo)).map fun k => (lo + k, 0, 8)

/-- The raw image length of a section (03 R92). -/
def sectionLen (n : Nat) : Nat :=
  match n with
  | 1 => 512
  | 2 => 64
  | 3 => 140544
  | 4 => 32768
  | 5 => 21504
  | 6 => 64
  | _ => 0

/-- The shape of the command in a submission entry; none for a reserved opcode (03 R84 and each command's chapter). -/
def shapeOf (e : Bytes) : Option Shape :=
  let b28 := byteAt e 28
  match byteAt e 0 with
  | 0x01 => some ⟨.any, .unused, .atLeast 4112, spareBytes 30 63, false⟩
  | 0x02 => some ⟨.zeroOnly, .unused, .unused, [(28, 6, 2), (29, 3, 5), (30, 5, 3)] ++ spareBytes 56 63, false⟩
  | 0x03 => some ⟨.zeroOnly, .unused, .unused, (28, 6, 2) :: spareBytes 29 63, false⟩
  | 0x10 => some ⟨.zeroOnly, .exactly 512, .unused, spareBytes 28 63, false⟩
  | 0x11 => some ⟨.zeroOnly, if b28 % 16 = 0 then .unused else .exactly (sectionLen (b28 % 16)), .unused,
      (28, 4, 4) :: spareBytes 29 63, decide (7 ≤ b28 % 16)⟩
  | 0x12 => some ⟨.zeroOnly, .unused, .unused, spareBytes 32 63, false⟩
  | 0x20 => some ⟨.superOnly, .unused, .unused, spareBytes 31 63, false⟩
  | 0x21 => some ⟨.superOnly, .unused, .unused, [(29, 4, 4), (32, 1, 7)] ++ spareBytes 33 63, false⟩
  | 0x22 => some ⟨.superOnly, .unused, .unused, (29, 4, 4) :: spareBytes 32 63, false⟩
  | 0x23 => some ⟨.superOnly, .unused, .unused,
      [(29, 4, 4), (34, 1, 7), (35, 0, 8), (39, 4, 4), (42, 0, 8), (43, 0, 8)] ++ spareBytes 48 63, false⟩
  | 0x24 => some ⟨.superOnly, .unused, .unused, (29, 4, 4) :: spareBytes 36 63, false⟩
  | 0x30 => some ⟨.superOnly, .atLeast (32 * field e 32 2), .atLeast (16 + field e 32 2 * (32 + 8 * byteAt e 29)),
      [(30, 0, 8), (31, 0, 8), (34, 0, 8), (35, 0, 8)] ++ spareBytes 40 63, false⟩
  | 0x31 => some ⟨.superOnly, .atLeast (16 * field e 32 2), .atLeast (16 + field e 32 2 * (32 + 64 * b28)),
      spareBytes 29 31 ++ spareBytes 34 63, false⟩
  | 0x40 =>
      if bitAt e 29 0 then some ⟨.superOnly, .unused, .unused, [(29, 1, 7), (30, 0, 8), (31, 0, 8)] ++ spareBytes 36 63, false⟩
      else some ⟨.superOnly, .atLeast 128, .unused,
        [(29, 3, 5), (37, 7, 1)] ++ (List.range 10).map (fun j => (45 + 2 * j, 7, 1)), decide (bitsAt e 29 1 2 = 3)⟩
  | 0x41 => some ⟨.superOnly, .unused, .unused, [(29, 1, 7), (30, 0, 8), (31, 0, 8)] ++ spareBytes 40 63, false⟩
  | 0x42 => some ⟨.superOnly, .atLeast 0, .unused, [(30, 2, 6), (31, 0, 8)] ++ spareBytes 36 63, decide (2 ≤ bitsAt e 30 0 2)⟩
  | 0x43 => some ⟨.superOnly, .unused, .unused, [(29, 1, 7), (30, 0, 8), (31, 0, 8)] ++ spareBytes 36 63, false⟩
  | 0x50 => some ⟨.any, .atLeast (64 * field e 32 4), .unused,
      (28, 3, 5) :: spareBytes 29 31 ++ spareBytes 36 63, false⟩
  | 0x60 => some ⟨.zeroOnly, if b28 % 4 = 0 then .exactly 64 else .unused, .unused, (28, 2, 6) :: spareBytes 29 63, decide (2 ≤ b28 % 4)⟩
  | 0x61 => some ⟨.zeroOnly, .unused, .unused, spareBytes 32 63, false⟩
  | 0x70 => some ⟨.zeroOnly, if b28 % 4 = 0 then .exactly 32768 else .unused,
      if b28 % 4 = 1 then .atLeast 65552 else .unused, (28, 2, 6) :: spareBytes 29 63, decide (2 ≤ b28 % 4)⟩
  | 0x71 => some ⟨.zeroOnly, .exactly 64, .unused, spareBytes 28 63, false⟩
  | 0x72 => some ⟨.zeroOnly, .unused, .unused, [(28, 7, 1), (30, 0, 8), (31, 0, 8)] ++ spareBytes 44 63, false⟩
  | 0x80 => some ⟨.zeroOnly, .exactly 140544, .unused, spareBytes 28 63, false⟩
  | 0x81 => some ⟨.zeroOnly, .unused, .unused, [(28, 5, 3), (29, 4, 4)] ++ spareBytes 30 63, decide (7 ≤ bitsAt e 29 0 4)⟩
  | 0x90 => some ⟨.zeroOnly, if bitAt e 28 7 then .unused else .exactly 448, .unused, spareBytes 29 63, false⟩
  | 0xA0 => some ⟨if b28 % 4 = 1 then .zeroOnly else .any, .unused, .atLeast 4112, (28, 2, 6) :: spareBytes 29 63, decide (2 ≤ b28 % 4)⟩
  | _ => none

/-- The commands that a Dormant chip carries out without waking (02 R58). -/
def dormantOpcode (op : Nat) : Bool :=
  [0x01, 0x02, 0x03, 0x10, 0x11, 0x12, 0x60, 0x70, 0x71, 0x72, 0x80, 0x81, 0xA0].contains op

/-- The configuration commands of queue pair 0, which run one at a time (03 R89). -/
def configOpcode (op : Nat) : Bool := [0x10, 0x11, 0x12, 0x60, 0x70, 0x71, 0x80, 0x90].contains op

/-! ## Header checks (03 R77) -/

def Need.used : Need → Bool
  | .unused => false
  | _ => true

/-- A length the need refuses with 0x0104. -/
def Need.badLen (n : Need) (len : Nat) : Bool :=
  match n with
  | .unused => false
  | .atLeast m => decide (len < m ∨ 2 ^ 30 < len)
  | .exactly m => decide (len ≠ m)

/-- The range of a result buffer meets a queue of the chip or the buffer of an unfinished command (03 R77 check 6). -/
def Ctx.bufferBusy (x : Ctx) (ptr len : Nat) : Bool :=
  (x.chip.stew.qps.any fun e =>
    e.2.live && (overlap ptr len e.2.sqBase (64 * e.2.sqDepth) || overlap ptr len e.2.cqBase (32 * e.2.cqDepth))) ||
  x.chip.stew.cmds.any fun k => k.resultPtr != 0 && overlap ptr len k.resultPtr k.resultLen

/-- The status of the first header check that fails, none where all pass (03 R77, R96). -/
def headerStatus (x : Ctx) (q : Nat) (e : Bytes) : Option Nat :=
  let dataPtr := field e 8 8
  let dataLen := field e 4 4
  let resPtr := field e 16 8
  let resLen := field e 24 4
  if field e 2 2 = 0xFFFF then some 0x0105
  else match shapeOf e with
  | none => some 0x0101
  | some sh =>
    if x.chip.stew.agreed.isNone && byteAt e 0 != 0x01 then some 0x0200
    else if (sh.queue == .zeroOnly && q != 0) || (sh.queue == .superOnly && q == 0) then some 0x0102
    else if bitsAt e 1 2 6 != 0 || sh.badCode || (sh.reserved.any fun r => bitsAt e r.1 r.2.1 r.2.2 != 0) ||
        (!sh.data.used && (dataPtr != 0 || dataLen != 0)) || (!sh.result.used && (resPtr != 0 || resLen != 0)) then some 0x0100
    else if (sh.data.used && (dataPtr == 0 || dataPtr % 64 != 0)) || (sh.result.used && (resPtr == 0 || resPtr % 64 != 0)) then
      some 0x0103
    else if sh.data.badLen dataLen || sh.result.badLen resLen then some 0x0104
    else if sh.result.used && x.bufferBusy resPtr resLen then some 0x0205
    else none

/-- A command refused at its header with `st` still writes its status word, but for a fault of its result buffer (03 R82). -/
def refusalWrites (x : Ctx) (st : Nat) (e : Bytes) : Bool :=
  let resPtr := field e 16 8
  let resLen := field e 24 4
  match shapeOf e with
  | none => false
  | some sh => sh.result.used && resPtr != 0 && resPtr % 64 == 0 && decide (16 ≤ resLen ∧ resLen ≤ 2 ^ 30) &&
      !x.bufferBusy resPtr resLen && !(st == 0x0104 && !sh.data.badLen (field e 4 4))

/-! ## When a fetched command starts (03 R87 to R89) -/

/-- The copies of FORAGER_COPY command `id` that have not ended, in the Foragers' hands or waiting for a queue. -/
def Ctx.copyJobs (x : Ctx) (id : Nat) : List CopyJob :=
  let e := x.chip.eng
  ((e.foragers.flatMap fun f => f.2.queue ++ f.2.running.toList) ++ e.backlog).filter fun j => j.cmd == some id

/-- The streams a command names: none where they are not known until its argument structure is read. -/
def Ctx.cmdStreams (x : Ctx) (k : Cmd) : Option (List Nat) :=
  match k.opcode with
  | 0x20 => some (if k.arg 28 2 = 0xFFFF then [] else [k.arg 28 2])
  | 0x21 | 0x22 | 0x24 => some [k.arg 28 2 % 4096]
  | 0x23 => some (k.arg 28 2 % 4096 :: if k.arg 34 1 % 2 = 1 then [k.arg 38 2 % 4096] else [])
  | 0x30 | 0x31 =>
    match x.chip.serve.steps.find? fun t => t.id == k.id with
    | none => none
    | some t => some (t.entries.map (·.stream))
  | 0x50 =>
    if k.phase = .fetched then none
    else some (((x.copyJobs k.id).filter fun j => bitsAt j.bytes 0 0 4 == 3).map fun j => field j.bytes 40 2 % 4096)
  | _ => some []

/-- The model a command names. -/
def cmdModel (k : Cmd) : Option Nat :=
  match k.opcode with
  | 0x20 => some (k.arg 30 1)
  | 0x30 | 0x40 | 0x41 | 0x42 | 0x43 => some (k.arg 28 1)
  | _ => none

/-- Two lists of streams, either unknown, may share one. -/
def mayShare (a b : Option (List Nat)) : Bool :=
  match a, b with
  | some a, some b => a.any fun i => b.contains i
  | none, some b => !b.isEmpty
  | some a, none => !a.isEmpty
  | none, none => true

/-- The model order of R87: a step's model counts only against loads, unloads and an earlier SWAP_BEGIN (04 R116, 09 R234). -/
def modelOrder (a b : Cmd) : Bool :=
  (cmdModel a).isSome && cmdModel a == cmdModel b &&
  (if a.opcode = 0x30 then b.opcode == 0x40
   else if b.opcode = 0x30 then a.opcode == 0x40 || a.opcode == 0x41
   else true)

/-- Earlier command `a` holds back `b`, which names `streams` (03 R87, R89). -/
def Ctx.holdsBack (x : Ctx) (a b : Cmd) (streams : Option (List Nat)) : Bool :=
  a.qp == b.qp && decide (a.id < b.id) &&
  (b.fence ||
   (configOpcode a.opcode && configOpcode b.opcode) ||
   ((a.opcode == 0x02 || a.opcode == 0x03) && (b.opcode == 0x02 || b.opcode == 0x03) && a.arg 28 1 == b.arg 28 1) ||
   (b.opcode != 0x30 && mayShare (x.cmdStreams a) streams) ||
   modelOrder a b)

/-- A held completion of an earlier command keeps `k` waiting: FENCE and the configuration commands wait until it is posted
(03 R76, R89). -/
def Cpl.holdsBack (h : Cpl) (k : Cmd) : Bool :=
  h.qp == k.qp && decide (h.id < k.id) && (k.fence || (configOpcode h.op && configOpcode k.opcode))

/-- The power state lets a command run: in Dormant those of 02 R58 only; one that had to wake the chip waits until the chip is
Active (02 R60). -/
def Ctx.mayRun (x : Ctx) (op : Nat) : Bool :=
  if dormantOpcode op then x.awake || x.chip.boot.pstate == .dormant else x.awake && !x.chip.boot.waking

/-- A fetched command may start, given the streams it names. -/
def Ctx.mayStart (x : Ctx) (k : Cmd) (streams : Option (List Nat)) : Bool :=
  x.chip.boot.ready && !x.frozen && !x.chip.boot.linkFatal && x.mayRun k.opcode &&
  !(x.chip.stew.held.any fun h => h.holdsBack k) && !(x.chip.stew.cmds.any fun a => x.holdsBack a k streams)

/-- Fetched command `id` with this opcode, where it may start now and is of the sub-form asked for. -/
def Ctx.start? (x : Ctx) (id op : Nat) (sub : Cmd → Bool) (streams : Option (List Nat)) : Option Cmd :=
  match x.cmd? id with
  | none => none
  | some k =>
    if k.phase = .fetched ∧ k.opcode = op ∧ sub k = true ∧
        x.mayStart k (match streams with | some l => some l | none => x.cmdStreams k) = true then some k
    else none

/-- The chip works on command `k`, whose argument structure it has read (03 R78, 12 R322). -/
def Ctx.begin (x : Ctx) (k : Cmd) : Ctx := (x.workFor (.qp k.qp)).pcieBytes k.dataLen

/-- Start command `id` and run `f` on it; where it cannot start, nothing happens. -/
def Ctx.run (x : Ctx) (id op : Nat) (sub : Cmd → Bool) (f : Cmd → Ctx → Ctx) : Ctx :=
  match x.start? id op sub none with
  | none => x
  | some k => f k (x.begin k)

/-- A command of phase `running` with this opcode. -/
def Ctx.running? (x : Ctx) (id op : Nat) : Option Cmd :=
  match x.cmd? id with
  | none => none
  | some k => if k.phase = .running ∧ k.opcode = op then some k else none

end Sys2Proof.Machine
end

