-- ==== Sys2Proof/Machine/Steward.lean ====
section
/-! DEFINITION. The Steward control interface: doorbells, BAR0, MSI-X, fetching, IDENTIFY and queue pairs (03). -/
namespace Sys2Proof.Machine

/-- The host reaches BAR0: the PCIe link is in L0 (02 R50). -/
def Ctx.barOpen (x : Ctx) : Bool := x.chip.boot.linkL0

/-! ## Queue pair 0 (03 R66) -/

/-- The registers of queue pair 0 are valid: aligned addresses, depths of 2 to 4,096. -/
def qp0Valid (l : Word64 × Word64 × Word32) : Bool :=
  let sq := l.2.2.toNat % 65536
  let cq := l.2.2.toNat / 65536
  l.1.toNat % 4096 == 0 && l.2.1.toNat % 4096 == 0 && decide (2 ≤ sq ∧ sq ≤ 4096 ∧ 2 ≤ cq ∧ cq ≤ 4096)

/-- Start a change of queue pair 0 where ENABLE differs from ENABLED and none is in progress (03 R66). -/
def Ctx.startQp0 (x : Ctx) : Ctx :=
  let b := x.chip.bar
  if x.chip.boot.ready && b.change.isNone && b.enable != b.enabled && !(b.enable && b.needsToggle) then
    x.onBar fun b => { b with change := some b.enable, latched := (b.sqBase, b.cqBase, b.depth) }
  else x

/-- QP0_CONTROL written (03 R65, R66). -/
def Ctx.writeQp0Control (x : Ctx) (v : Word32) : Ctx :=
  let n := v.toNat
  let x := x.onBar fun b =>
    let b := if n.testBit 2 then { b with setupError := false } else b
    let b := if b.enabled then b else { b with irqEnable := n.testBit 3, vector := BitVec.ofNat 11 (n / 65536) }
    if x.chip.boot.ready then { b with enable := n.testBit 0, needsToggle := b.needsToggle && n.testBit 0 } else b
  x.startQp0

/-- The enabling in progress ends: both queues empty and ENABLED, or SETUP_ERROR (03 R66); held events are posted (R81). -/
def Ctx.endEnabling (x : Ctx) : Ctx :=
  if x.chip.bar.change != some true then x
  else if qp0Valid x.chip.bar.latched then
    let b := x.chip.bar
    let p : QPair :=
      { QPair.none with
        live := true, irqEnable := b.irqEnable, vector := b.vector.toNat, sqDepth := b.latched.2.2.toNat % 65536,
        cqDepth := b.latched.2.2.toNat / 65536, sqBase := b.latched.1.toNat, cqBase := b.latched.2.1.toNat }
    (((x.onBar fun b => { b with enabled := true, change := none }).setQp 0 p).postEvents).startQp0
  else (x.onBar fun b => { b with setupError := true, change := none, needsToggle := b.enable }).startQp0

/-- The disabling in progress ends once every fetched command of queue pair 0 has posted (03 R66, R81). -/
def Ctx.endDisabling (x : Ctx) : Ctx :=
  if x.chip.bar.change != some false || (x.chip.stew.cmds.any fun k => k.qp == 0) ||
      (x.chip.stew.held.any fun k => k.qp == 0) then x
  else
    (((x.onBar fun b => { b with enabled := false, change := none }).setQp 0 .none).onStew fun w =>
      { w with events := w.events.map fun e => { e with posted := none } }).startQp0

def execQp0ControlWrite (c : Fin 8) (v : Word32) (s : State) : Res :=
  chipNext c (fun x => onlyIf x.barOpen (·.writeQp0Control v) x) s

def execQp0EnablingComplete (c : Fin 8) (s : State) : Res := chipNext c Ctx.endEnabling s

def execQp0DisablingComplete (c : Fin 8) (s : State) : Res := chipNext c Ctx.endDisabling s

/-! ## Doorbells (03 R68 to R70; 02 R51, R60) -/

def Ctx.badDoorbell (x : Ctx) : Ctx := x.onBar fun b => { b with badDb := satInc b.badDb }

/-- A doorbell write that arrives while READY is 0 (02 R51). -/
def Ctx.earlyDoorbell (x : Ctx) : Ctx := x.onBar fun b => { b with earlyDb := satInc b.earlyDb }

/-- Every doorbell write is stored for reading back, whatever the Steward does with it (00 R13, 03 R68). -/
def Ctx.storeDoorbell (x : Ctx) (k : Nat) (v : Nat) : Ctx :=
  x.onBar fun b => { b with doorbells := tset 0 b.doorbells k (BitVec.ofNat 32 v) }

/-- SQ_TAIL of pair `q`; `opcodes` are those of the entries between the old and the new tail, as the host wrote them. -/
def Ctx.sqTail (x : Ctx) (q : Nat) (v : Word32) (opcodes : List Byte) : Ctx :=
  let i := v.toNat % 65536
  let x := x.storeDoorbell (2 * q) i
  let p := x.qp q
  if !x.chip.boot.ready then x.earlyDoorbell
  else if !p.live || decide (p.sqDepth ≤ i) then x.badDoorbell
  else
    let x := x.setQp q { p with tail := i }
    if p.tail ≠ i ∧ opcodes.any (fun o => !dormantOpcode o.toNat) = true then x.wakeEvent else x

/-- CQ_HEAD of pair `q`: it releases entries up to the new head (01 R36, 03 R69). -/
def Ctx.cqHead (x : Ctx) (q : Nat) (v : Word32) : Ctx :=
  let i := v.toNat % 65536
  let x := x.storeDoorbell (2 * q + 1) i
  let p := x.qp q
  let n := (i + p.cqDepth - p.released % p.cqDepth) % p.cqDepth
  if !x.chip.boot.ready then x.earlyDoorbell
  else if !p.live || decide (p.cqDepth ≤ i) || decide (p.posted - p.released < n) then x.badDoorbell
  else
    let x := x.setQp q { p with released := p.released + n }
    let x :=
      if q = 0 then
        x.onStew fun w => { w with events := w.events.map fun e =>
          match e.posted with
          | some m => if m < p.released + n then { e with posted := none } else e
          | none => e }
      else x
    x.flush

def execSqTailDoorbellWrite (c : Fin 8) (q : Fin 64) (v : Word32) (opcodes : List Byte) (s : State) : Res :=
  chipNext c (fun x => onlyIf x.barOpen (·.sqTail q v opcodes) x) s

def execCqHeadDoorbellWrite (c : Fin 8) (q : Fin 64) (v : Word32) (s : State) : Res :=
  chipNext c (fun x => onlyIf x.barOpen (·.cqHead q v) x) s

/-- A read of an RC register answers the count and clears it (02 R52, 03 R65). -/
def Ctx.readEarly (x : Ctx) : Ctx :=
  (x.emit (.readAnswer x.c (some (toLE 4 x.chip.bar.earlyDb.toNat)) false)).onBar fun b => { b with earlyDb := 0 }

def Ctx.readBad (x : Ctx) : Ctx :=
  (x.emit (.readAnswer x.c (some (toLE 4 x.chip.bar.badDb.toNat)) false)).onBar fun b => { b with badDb := 0 }

def execEarlyDoorbellsRead (c : Fin 8) (s : State) : Res := chipNext c (fun x => onlyIf x.barOpen Ctx.readEarly x) s

def execBadDoorbellsRead (c : Fin 8) (s : State) : Res := chipNext c (fun x => onlyIf x.barOpen Ctx.readBad x) s

/-! ## MSI-X (03 R71) -/

/-- Send the messages of the pending vectors that are no longer held back; a frozen chip sends them at its release (13 R345). -/
def Ctx.sendPending (x : Ctx) : Ctx :=
  let b := x.chip.bar
  if b.functionMask || !b.msixEnable || x.frozen then x
  else
    let go := b.pba.filter fun v => !(tget .initial b.msix v).masked
    let x := x.onBar fun b => { b with pba := b.pba.filter fun v => (tget Msix.initial b.msix v).masked }
    go.foldl Ctx.raise x

/-- A change of MSI-X entry `v`; what it unmasks is sent. -/
def Ctx.setMsix (x : Ctx) (v : Nat) (f : Msix → Msix) : Ctx :=
  (x.onBar fun b => { b with msix := tupd .initial b.msix v f }).sendPending

def Ctx.unmask (x : Ctx) : Unmask → Ctx
  | .vector v => x.setMsix v fun e => { e with masked := false }
  | .functionMask => (x.onBar fun b => { b with functionMask := false }).sendPending

def execMsixVectorUnmask (c : Fin 8) (what : Unmask) (s : State) : Res :=
  chipNext c (fun x => onlyIf x.barOpen (·.unmask what) x) s

/-- The gathered message of pair `q` is sent when IRQ_TIME elapses (03 R74). -/
def Ctx.irqTime (x : Ctx) (q : Nat) : Ctx :=
  let p := x.qp q
  if !p.live || p.unsignalled = 0 || x.frozen then x else (x.setQp q { p with unsignalled := 0 }).raise p.vector

def execIrqTimeExpiry (c : Fin 8) (q : Fin 64) (s : State) : Res := chipNext c (·.irqTime q) s

/-! ## Other BAR0 accesses (00 R13, 03 R64 to R66) -/

/-- A write at byte `d` of the MSI-X table. -/
def Ctx.writeMsix (x : Ctx) (d : Nat) (v : Word32) : Ctx :=
  let k := d / 16
  match d % 16 / 4 with
  | 0 => x.setMsix k fun e => { e with addr := setLo e.addr v }
  | 1 => x.setMsix k fun e => { e with addr := setHi e.addr v }
  | 2 => x.setMsix k fun e => { e with data := v }
  | _ => x.setMsix k fun e => { e with masked := v.toNat.testBit 0 }

/-- An aligned write to a register that has no row of its own: the RW registers of queue pair 0 while it is not enabled, and the
MSI-X table; every other offset ignores it. -/
def Ctx.writeReg (x : Ctx) (off : Nat) (v : Word32) : Ctx :=
  let open0 := !x.chip.bar.enabled
  if off = 0x20 then (if open0 then x.onBar fun b => { b with sqBase := setLo b.sqBase v } else x)
  else if off = 0x24 then (if open0 then x.onBar fun b => { b with sqBase := setHi b.sqBase v } else x)
  else if off = 0x28 then (if open0 then x.onBar fun b => { b with cqBase := setLo b.cqBase v } else x)
  else if off = 0x2C then (if open0 then x.onBar fun b => { b with cqBase := setHi b.cqBase v } else x)
  else if off = 0x30 then (if open0 then x.onBar fun b => { b with depth := v } else x)
  else if 0x20000 ≤ off ∧ off < 0x28000 then
    x.writeMsix (off % 0x8000) v
  else x

def execRegisterWrite (c : Fin 8) (off : BitVec 18) (v : Word32) (s : State) : Res :=
  chipNext c (fun x => onlyIf (x.barOpen && off.toNat % 4 == 0) (·.writeReg off.toNat v) x) s

/-- Any other BAR0 access completes: its write data is ignored, a read answers zeros (03 R64). -/
def Ctx.oddAccess (x : Ctx) (write : Bool) (len : Nat) : Ctx :=
  if write then x else x.emit (.readAnswer x.c (some (zeroBytes len)) false)

def execBar0NonalignedAccess (c : Fin 8) (write : Bool) (off : BitVec 18) (len : Nat) (s : State) : Res :=
  chipNext c (fun x => onlyIf (x.barOpen && !(off.toNat % 4 == 0 && len == 4)) (·.oddAccess write len) x) s

/-- HEARTBEAT counts while Steward firmware runs (03 R65). -/
def execHeartbeatTick (c : Fin 8) (s : State) : Res :=
  chipNext c (fun x => onlyIf x.chip.boot.fwRunning (·.onBar fun b => { b with heartbeat := b.heartbeat + 1 }) x) s

/-! ## PCIe configuration requests (02 R47, R50) -/

/-- The link of a Dormant chip rests in L1 where the host has enabled ASPM L1 (02 R57). -/
def Ctx.restLink (x : Ctx) : Ctx :=
  let rests := x.chip.boot.pstate == .dormant && x.chip.boot.linkL0 && x.chip.bar.aspmL1
  x.onBoot fun b => { b with linkL1 := rests }

/-- A configuration register of the function. -/
def Ctx.cfgServe (x : Ctx) (bootRom : Bool) : CfgReq → Ctx
  | .read off => x.emit (.cfgAnswer x.c false bootRom (tget 0 x.chip.bar.cfg off))
  | .write off v => x.onBar fun b => { b with cfg := tset 0 b.cfg off v }
  | .msixControl en fm => (x.onBar fun b => { b with msixEnable := en, functionMask := fm }).sendPending
  | .aspmControl l1 => (x.onBar fun b => { b with aspmL1 := l1 }).restLink

/-- RRS until firmware runs; from FW_FAILED on the boot ROM answers; no answer while the controller is in reset. -/
def Ctx.cfgRequest (x : Ctx) (req : CfgReq) : Ctx :=
  let b := x.chip.boot
  if !b.linkL0 then x
  else if b.fwFailed then x.cfgServe true req
  else if b.fwRunning then x.cfgServe false req
  else x.emit (.cfgAnswer x.c true false 0)

def execConfigurationRequest (c : Fin 8) (req : CfgReq) (s : State) : Res := chipNext c (·.cfgRequest req) s

/-! ## Fetching (03 R70, R73, R77, R78, R82) -/

/-- Pair `q` has an entry to fetch and is fetched from (03 R66, R75; 13 R345). -/
def Ctx.fetchable (x : Ctx) (q : Nat) : Bool :=
  let p := x.qp q
  (x.chip.boot.ready || x.chip.boot.isolating) && p.live && !p.deleting && p.fetch != p.tail && !x.frozen && !x.chip.boot.linkFatal &&
    !(q == 0 && x.chip.bar.change == some false)

/-- The pairs of 1 to 63 that have an entry to fetch. -/
def Ctx.fetchWaiting (x : Ctx) : List Nat := ((List.range 64).drop 1).filter x.fetchable

/-- The weight that pair `q` was given at its creation (03 R74). -/
def Ctx.qpWeight (x : Ctx) (q : Nat) : Nat := (x.qp q).weight

/-- Pair `q` is the one to fetch from: pair 0 before all others, pairs 1 to 63 by weighted round-robin with ageing (03 R73). -/
def Ctx.canFetch (x : Ctx) (q : Nat) : Bool :=
  x.fetchable q &&
    (q == 0 || (!x.fetchable 0 && x.chip.stew.fetchArb.mayGrant x.qpWeight x.fetchWaiting q))

/-- Serve pair `q`: its turn is taken, and its fetch position moves on. -/
def Ctx.advance (x : Ctx) (q : Nat) : Ctx :=
  let x := (x.workFor (.qp q)).pcieBytes 64
  let p := x.qp q
  let arb := if q = 0 then x.chip.stew.fetchArb else x.chip.stew.fetchArb.grant x.qpWeight x.fetchWaiting q
  (x.setQp q { p with fetch := (p.fetch + 1) % p.sqDepth }).onStew fun w => { w with fetchArb := arb }

/-- A fetched command that 02 R58 does not list wakes a Dormant chip, and one that enters Dormant. -/
def Ctx.wakeFor (x : Ctx) (op : Nat) : Ctx := if dormantOpcode op then x else x.wakeEvent

/-- Fetch a submission entry: refuse it at its header, or write PENDING and hold it to be started. While the chip is being
isolated every command ends with 0x0700 (15 R385). -/
def Ctx.fetchEntry (x : Ctx) (q : Nat) (e : Bytes) : Ctx :=
  if !x.canFetch q then x
  else
    let y := x.advance q
    let k : Cmd := ⟨y.chip.stew.nextId, q, e, .fetched⟩
    let st := if x.chip.boot.isolating then some 0x0700 else headerStatus x q e
    match st with
    | some st =>
      let y := y.logStatus k st 0 0
      let y := if refusalWrites x st e then y.hostWrite (field e 16 8) (toLE 2 st ++ toLE 2 (field e 2 2)) else y
      (y.onStew fun w => { w with nextId := w.nextId + 1 }).post ⟨q, st, field e 2 2, 0, 0, false, bitAt e 1 1, y.time, k.id, k.opcode⟩
    | none =>
      let y := if field e 16 8 = 0 then y else y.hostWrite (field e 16 8) (toLE 2 1 ++ toLE 2 (field e 2 2) ++ zeroBytes 12)
      (y.onStew fun w => { w with cmds := w.cmds ++ [k], nextId := w.nextId + 1 }).wakeFor k.opcode

/-- A failed read of a submission entry (03 R78). -/
def Ctx.fetchError (x : Ctx) (q : Nat) : Ctx :=
  if !x.canFetch q then x
  else
    let y := (x.advance q).ras 0x04 8 0 0x0403 (if q = 0 then none else some (x.qp q).super) 0 0
    (y.onStew fun w => { w with nextId := w.nextId + 1 }).post ⟨q, 0x0403, 0xFFFF, 0, 0, false, false, y.time, y.chip.stew.nextId, 0⟩

def execSubmissionReadError (c : Fin 8) (q : Fin 64) (s : State) : Res :=
  chipNext c (fun x => (onlyIf (x.canFetch q) (·.readFails) x).fetchError q) s

/-- A fetched command whose argument structure is still to be read. -/
def Cmd.readsArgument (k : Cmd) : Bool := decide (k.phase = .fetched ∧ k.dataPtr ≠ 0)

/-- A command whose argument structure the host does not give ends with 0x0403 and changes nothing else (03 R78). -/
def Ctx.argumentError (x : Ctx) (id : Nat) : Ctx :=
  match x.cmd? id with
  | none => x
  | some k => if k.readsArgument ∧ x.frozen = false then x.refuse k 0x0403 0 0 else x

def execArgumentReadError (c : Fin 8) (id : Nat) (s : State) : Res :=
  chipNext c (fun x => (onlyIf ((x.cmd? id).any (·.readsArgument) && !x.frozen) (·.readFails) x).argumentError id) s

/-! ## IDENTIFY (03 R95, R96) -/

/-- CHIP_ID of a route section: the ID in [14:0], [15] 1 when none is assigned (11 R275, R279). -/
def chipIdWord (m : Mem) : Nat := imgField m 16 2

/-- The IDENTIFY structure, 4,096 B. -/
def Ctx.identifyBytes (x : Ctx) (variantU : Bool) : Bytes :=
  let b := x.chip.boot
  toLE 2 4096 ++ toLE 1 0xB0 ++ toLE 1 x.c ++ toLE 1 1 ++ toLE 1 b.ifMinor.toNat ++
    (match x.chip.stew.agreed with | none => toLE 1 0xFF | some m => [m]) ++ toLE 1 0 ++
    toLE 4 (fwVersionReg b) ++ toLE 4 b.fwBuild.toNat ++ (List.range 48).map (Config.identity x.c) ++
    toLE 8 (b2n variantU + 2) ++ toLE 2 4096 ++ toLE 2 64 ++ toLE 1 8 ++ zeroBytes 3 ++ toLE 2 2048 ++ toLE 2 128 ++
    toLE 4 4194304 ++ toLE 2 1280 ++ toLE 2 288 ++ zeroBytes 4 ++
    toLE 4 x.chip.config.activeGen.toNat ++ toLE 4 x.chip.config.shadowGen.toNat ++
    toLE 2 (chipIdWord x.act.routes) ++ zeroBytes 6 ++ toLE 8 x.time ++ zeroBytes 3976

/-- IDENTIFY: it fixes the agreed minor version on queue pair 0 with HOST_MAJOR 1. -/
def Ctx.identify (x : Ctx) (variantU : Bool) (k : Cmd) : Ctx :=
  let major := k.arg 28 1
  if k.qp = 0 ∧ major ≠ 0 ∧ major ≠ 1 then x.refuse k 0x0109 0 0
  else
    let x :=
      if k.qp = 0 ∧ major = 1 then
        x.onStew fun w => { w with agreed := some (BitVec.ofNat 8 (min (k.arg 29 1) x.chip.boot.ifMinor.toNat)) }
      else x
    x.finish k 0 0 0 (x.identifyBytes variantU)

def execIdentify (c : Fin 8) (id : Nat) (s : State) : Res :=
  chipNext c (fun x => x.run id 0x01 (fun _ => true) fun k x => x.identify s.nd.variantU k) s

/-! ## QUEUE_CREATE and QUEUE_DELETE (03 R74, R75) -/

/-- QUEUE_CREATE. DESIGN CHOICE (log entry 95): R74 gives 0x0105 for depths, WEIGHT, SUPER and QID; where it only says that a
value is refused (IRQ_TIME) or must hold (VECTOR, the alignment of SQ_BASE and CQ_BASE) the model posts 0x0105 too. -/
def Ctx.queueCreate (x : Ctx) (k : Cmd) : Ctx :=
  let qid := k.arg 28 1 % 64
  let sup := k.arg 29 1 % 8
  let m := x.act.superMap
  let sq := k.arg 36 2
  let cq := k.arg 38 2
  let w := k.arg 30 1 % 16
  if (x.qp qid).live && qid != 0 then x.refuse k 0x0206 0 0
  else if qid = 0 ∨ sq < 2 ∨ 4096 < sq ∨ cq < 2 ∨ 4096 < cq ∨ w < 1 ∨ 8 < w ∨ superDefined m sup = false ∨
      qid < superQpBase m sup ∨ superQpBase m sup + superQpCount m sup ≤ qid ∨ 1023 < k.arg 32 2 ∨ 2047 < k.arg 34 2 ∨
      k.arg 40 8 % 4096 ≠ 0 ∨ k.arg 48 8 % 4096 ≠ 0 then x.refuse k 0x0105 0 0
  else
    (x.setQp qid
      { QPair.none with
        live := true, super := sup, weight := w, irqEnable := (k.arg 30 1).testBit 4, irqCount := k.arg 31 1,
        irqTime := k.arg 32 2, vector := k.arg 34 2, sqDepth := sq, cqDepth := cq, sqBase := k.arg 40 8,
        cqBase := k.arg 48 8 }).done k 0 0 0

def execQueueCreate (c : Fin 8) (id : Nat) (s : State) : Res :=
  chipNext c (fun x => x.run id 0x02 (fun _ => true) fun k x => x.queueCreate k) s

/-- QUEUE_DELETE: fetching stops at once; the pair goes, and the command completes, when its fetched commands have posted
(`Ctx.settle`). DESIGN CHOICE (log entry 95): R75 names no outcome for QID 0, which the model refuses with 0x0105. -/
def Ctx.queueDelete (x : Ctx) (k : Cmd) : Ctx :=
  let qid := k.arg 28 1 % 64
  if qid = 0 then x.refuse k 0x0105 0 0
  else if !(x.qp qid).live then x.done k 2 0 0
  else ((x.setQp qid { x.qp qid with deleting := true }).setPhase k.id .running).settle

def execQueueDelete (c : Fin 8) (id : Nat) (s : State) : Res :=
  chipNext c (fun x => x.run id 0x03 (fun _ => true) fun k x => x.queueDelete k) s

end Sys2Proof.Machine
end

