-- ==== Sys2Proof/Machine/MemOps.lean ====
section
/-! DEFINITION. How the chip's units read and write the Comb store and HBM: errors, poison, counters and events (08 R196 to R217),
and the weight buffer tags that a write invalidates (05 R139). -/
namespace Sys2Proof.Machine

/-- An addressed memory of a chip: the Comb store of a die, the HBM data space, or the HBM system space. -/
inductive Spc where
  | sram (d : Nat) | hbm | system
  deriving DecidableEq, Repr

def Memory.store (m : Memory) : Spc → Store
  | .sram 0 => m.sram0
  | .sram 1 => m.sram1
  | .sram 2 => m.sram2
  | .sram _ => m.sram3
  | .hbm => m.hbm
  | .system => m.system

def Memory.setStore (m : Memory) (p : Spc) (s : Store) : Memory :=
  match p with
  | .sram 0 => { m with sram0 := s }
  | .sram 1 => { m with sram1 := s }
  | .sram 2 => { m with sram2 := s }
  | .sram _ => { m with sram3 := s }
  | .hbm => { m with hbm := s }
  | .system => { m with system := s }

def Ctx.store (x : Ctx) (p : Spc) : Store := x.chip.mem.store p

def Ctx.setStore (x : Ctx) (p : Spc) (s : Store) : Ctx := x.onMem fun m => m.setStore p s

/-- The unit of the error-correcting code: a 64-bit word of Comb store, a 64 B granule of HBM (08 R211, R212). -/
def Spc.unit : Spc → Nat
  | .sram _ => 8
  | _ => 64

/-- The stack of a data-space address (08 R198). -/
def stackOf (a : Nat) : Nat := a / 8192 % 8

/-- Granule `g` of stack `k`'s system space of 16 MiB. -/
def systemAddr (k g : Nat) : Nat := 2 ^ 24 * k + g % 262144 * 64

/-- The counter block and instance of an address (13 R336). -/
def Spc.inst (p : Spc) (a : Nat) : Nat × Nat :=
  match p with
  | .sram d => (0x07, d)
  | .hbm => (0x08, stackOf a)
  | .system => (0x08, a / 2 ^ 24 % 8)

/-- An address as an event and the error log name it: a Comb store offset with its die, a system-space address with [63] (08
R217). -/
def Spc.named (p : Spc) (a : Nat) : Nat :=
  match p with
  | .sram d => 2 ^ 62 * d + a
  | .hbm => a
  | .system => 2 ^ 63 + a

/-- The 64 B granule of an address. -/
def granule (a : Nat) : Nat := a / 64 * 64

/-- The energy of `n` bytes read or written (12 R324). -/
def Ctx.memEnergy (x : Ctx) (p : Spc) (n : Nat) : Ctx :=
  match p with
  | .sram d => x.charge d (600 * n)
  | _ => x.hbmBytes n

/-! ## Corrections and errors found (08 R211 to R217) -/

/-- A correction at `a` enters the sliding 1 s window of its die or stack; the count rising above 64 is one event (08 R217). -/
def Ctx.ceWindow (x : Ctx) (p : Spc) (a : Nat) : Ctx :=
  let i := (p.inst a).2
  let key := match p with | .sram _ => i | _ => 4 + i
  let old := within x.now 1000000000 (tget [] x.chip.mem.ceTimes key)
  let x := x.onMem fun m => { m with ceTimes := tset [] m.ceTimes key (old ++ [x.now]) }
  if old.length = 64 then x.event (match p with | .sram _ => 0x0801 | _ => 0x0803) i 65 else x

/-- A correction written back counts (08 R216). -/
def Ctx.corrected (x : Ctx) (p : Spc) (a : Nat) : Ctx :=
  let b := p.inst a
  (x.count b.1 b.2 0 1).ceWindow p a

/-- The granule at `g` written as poisoned: the pattern in all of it replaces whatever its check bits held (08 R213). -/
def Store.poisoned (st : Store) (g : Nat) : Store :=
  { st with
    ue := st.ue.filter (fun k => granule k != g), ce := st.ce.filter (fun k => granule k != g)
    fix := st.fix.filter (fun k => granule k != g), onDie := st.onDie.filter (fun k => granule k != g)
    poison := if st.poison.contains g then st.poison else g :: st.poison }

/-- An uncorrectable error found at `a`: counted, reported, logged, and its granule written back poisoned (08 R213, R217). -/
def Ctx.foundUe (x : Ctx) (p : Spc) (super : Option Nat) (a : Nat) : Ctx :=
  let b := p.inst a
  let x := x.setStore p ((x.store p).poisoned (granule a))
  let x := x.count b.1 b.2 (match p with | .sram _ => 1 | _ => 2) 1
  match p with
  | .sram d => (x.ras 0x02 5 d 0x0400 super (p.named a) 0).event 0x0802 b.2 a
  | _ => (x.ras 0x02 6 b.2 0x0401 super (p.named a) 0).event 0x0804 b.2 (p.named a)

/-- A poisoned granule is read (08 R216). -/
def Ctx.poisonRead (x : Ctx) (p : Spc) (g : Nat) : Ctx :=
  let b := p.inst g
  x.count b.1 b.2 (match p with | .sram _ => 2 | _ => 3) 1

/-- A correction that a stack reports is read (08 R212). -/
def Ctx.onDieRead (x : Ctx) (p : Spc) (a : Nat) : Ctx := (x.count 0x08 (p.inst a).2 1 1).ceWindow p a

/-- The entries of `l` whose granule meets the `n` bytes from `a`. -/
def touching (a n : Nat) (l : List Nat) : List Nat :=
  l.filter fun k => decide (granule a ≤ k ∧ granule k < a + n)

/-- Read the `n` bytes from `a` as a unit of the chip does: what the check bits reveal, and the bad granules met, in address order
with the error of each. The bytes themselves are those of `Store.readN`. -/
def Ctx.inspect (x : Ctx) (p : Spc) (super : Option Nat) (a n : Nat) : Ctx × List (Nat × SrcErr) :=
  if n = 0 then (x, []) else
  let st := x.store p
  let pois := touching a n st.poison
  let ues := (touching a n st.ue).filter fun k => !pois.contains (granule k)
  let ces := (touching a n st.ce).filter fun k => !pois.contains (granule k)
  let ods := touching a n st.onDie
  let x := (x.memEnergy p n).setStore p { st with ce := st.ce.filter (fun k => !ces.contains k), fix := st.fix ++ ces }
  let x := ods.foldl (fun x k => x.onDieRead p k) x
  let x := pois.foldl (fun x k => x.poisonRead p k) x
  let x := ues.foldl (fun x k => x.foundUe p super k) x
  let bad := pois.map (fun g => (g, SrcErr.poisoned)) ++
    (ues.map granule).eraseDups.map fun g => (g, match p with | .sram _ => SrcErr.sramUe | _ => SrcErr.hbmUe)
  (x, sortBy (fun e f => decide (e.1 ≤ f.1)) bad)

/-! ## Writes -/

/-- Bits of an element of a format code (05 R134). -/
def fmtBits (f : Nat) : Nat :=
  match f with
  | 0 | 1 | 8 | 9 => 8
  | 2 | 3 => 6
  | 4 | 0xA | 0xB => 4
  | _ => 16

/-- Bytes of `n` packed elements. -/
def rowBytes (f n : Nat) : Nat := (n * fmtBits f + 7) / 8

/-- The `n` bytes from `a` meet the tile of a tag, or its `sc` scale bytes, in some quadrant (05 R139). -/
def BankTag.hit (t : BankTag) (sc a n : Nat) : Bool :=
  let quads := if t.shape = 1 then 4 else 1
  (List.range quads).any fun q =>
    overlap a n (t.bAddr + q * t.qStride) ((t.k - 1) * t.bPitch + rowBytes t.fmtB t.n) ||
    (sc != 0 && overlap a n (t.sbAddr + q * t.qStride) sc)

/-- A tag after a write of `n` bytes at `a`: invalid where the write meets the tile or its scales, of which the bank holds `len`
bytes. -/
def BankTag.afterWrite (len a n : Nat) (t : BankTag) : Option BankTag :=
  if t.hit (len / if t.shape = 1 then 4 else 1) a n then none else some t

/-- A bank after a write to its die's Comb store: no tile that the write meets is used again (05 R139). -/
def Bank.afterWrite (b : Bank) (a n : Nat) : Bank :=
  { b with tag := b.tag.bind (BankTag.afterWrite b.scales.length a n), fresh := b.fresh.bind (BankTag.afterWrite b.scales.length a n) }

/-- Invalidate the tags that a write of `n` bytes at `a` on die `d` covers (05 R139). -/
def Ctx.dropTags (x : Ctx) (d a n : Nat) : Ctx :=
  x.onEng fun e =>
    { e with combs := e.combs.map fun c =>
        if c.1 / 32 = d then (c.1, { c.2 with bank0 := c.2.bank0.afterWrite a n, bank1 := c.2.bank1.afterWrite a n }) else c }

/-- The unit at `k` lies wholly inside the `n` bytes from `a`. -/
def covers (a n w k : Nat) : Bool := decide (a ≤ k ∧ k + w ≤ a + n)

/-- The granules at `l` that a write of `n` bytes at `a` reads first: it covers one of their units in part (08 R196, R212). -/
def readFirst (w a n : Nat) (l : List Nat) : List Nat :=
  l.filter fun g => (List.range (64 / w)).any fun i => overlap a n (g + w * i) w && !covers a n w (g + w * i)

/-- Write the `n` bytes from `a` with `f` as a unit of the chip does: a granule covered whole loses its poison and errors; a unit
covered in part is a read-modify-write, which finds and corrects or reports (08 R196, R212, R213, R216); a write-back pending on a
written granule is abandoned (08 R211). -/
def Ctx.overwrite (x : Ctx) (p : Spc) (super : Option Nat) (a n : Nat) (f : Store → Store) : Ctx :=
  if n = 0 then x else
  let w := p.unit
  let st := x.store p
  let part := fun k => overlap a n k w && !covers a n w k
  let ues := st.ue.filter part
  let ces := (st.ce ++ st.fix).filter part
  let ods := st.onDie.filter part
  let pois := readFirst w a n st.poison
  let x := (x.memEnergy p n).setStore p
    { f st with
      poison := st.poison.filter fun g => !covers a n 64 g
      ue := st.ue.filter fun k => !covers a n w k
      ce := (st.ce.filter fun k => !covers a n w k && !ces.contains k) ++
        st.fix.filter fun k => !covers a n w k && !ces.contains k && decide (granule a ≤ k ∧ granule k < a + n)
      fix := st.fix.filter fun k => !decide (granule a ≤ k ∧ granule k < a + n)
      onDie := st.onDie.filter fun k => !overlap a n k w }
  let x := ods.foldl (fun x k => x.onDieRead p k) x
  let x := pois.foldl (fun x k => x.poisonRead p k) x
  let x := ces.foldl (fun x k => x.corrected p k) x
  let x := ues.foldl (fun x k => x.foundUe p super k) x
  match p with
  | .sram d => x.dropTags d a n
  | _ => x

/-- Write bytes. -/
def Ctx.put (x : Ctx) (p : Spc) (super : Option Nat) (a : Nat) (bs : Bytes) : Ctx := x.overwrite p super a bs.length (·.write a bs)

/-- Write `n` bytes whose values the spec leaves open. -/
def Ctx.putOpen (x : Ctx) (p : Spc) (super : Option Nat) (a n : Nat) : Ctx := (x.overwrite p super a n (·.blur a n x.free)).bump

/-- Mark a granule poisoned. -/
def Ctx.poisonGranule (x : Ctx) (p : Spc) (g : Nat) : Ctx :=
  x.setStore p ((x.store p).poisoned g)

/-- Mark every granule that meets the `n` bytes from `a`. -/
def Ctx.poisonRange (x : Ctx) (p : Spc) (a n : Nat) : Ctx :=
  (List.range ((a + n + 63) / 64 - a / 64)).foldl (fun x k => x.poisonGranule p (granule a + 64 * k)) x

/-- Give a range undefined contents. -/
def Ctx.blur (x : Ctx) (p : Spc) (a n : Nat) : Ctx :=
  let y := x.setStore p ((x.store p).blur a n x.free)
  match p with
  | .sram d => y.bump.dropTags d a n
  | _ => y.bump

/-! ## The trace ring in the system space (08 R198, R217; 13 R340, R341) -/

/-- The system-space address of the granule that holds record `n` of the trace ring. DESIGN CHOICE (log entry 98): the ring
takes the lower 8 MiB of each stack's system space, its granules go round the stacks, and the Steward's memory takes the upper
half. -/
def ringGranule (n : Nat) : Nat := systemAddr (n % 2097152 / 2 % 8) (n % 2097152 / 2 / 8)

/-- The granule at `key` of the system space is uncorrectable: the records of the ring that it holds are lost. -/
def Ctx.loseRing (x : Ctx) (key : Nat) : Ctx :=
  let gone := x.chip.obs.ring.filter fun e => ringGranule e.1 == key
  if gone.isEmpty then x
  else
    (x.onObs fun o =>
      { o with lossTime := if o.lossSrc + o.lossRing + o.lossEcc = 0 then x.time else o.lossTime,
               lossEcc := o.lossEcc + gone.length, ring := o.ring.filter fun e => ringGranule e.1 != key }).count 0x0A 0 17 gone.length

/-- Read the granule of record `n`: what its check bits reveal, and whether its records are lost. -/
def Ctx.readRing (x : Ctx) (n : Nat) : Ctx × Bool :=
  let r := x.inspect .system none (ringGranule n) 64
  if r.2.isEmpty then (r.1, true) else (r.1.loseRing (ringGranule n), false)

/-! ## Patrol scrubbing and write-back (08 R211, R215) -/

/-- Granules that one scrubber reads in a pass: a die's Comb store, a stack's data space, a stack's system space. -/
def scrubCount (key : Nat) : Nat := if key < 4 then 5242880 else if key < 12 then 603979776 else 262144

/-- The address of granule `n` of a scrubber: rising addresses, a stack's own 8 KiB of every 64 KiB of the data space (08 R198). -/
def scrubAddr (key n : Nat) : Nat :=
  if key < 4 then 64 * n else if key < 12 then n / 128 * 65536 + (key - 4) * 8192 + n % 128 * 64 else systemAddr (key - 12) n

/-- The scrubber of an address. -/
def Spc.scrubber (p : Spc) (a : Nat) : Nat :=
  match p with
  | .sram d => d
  | .hbm => 4 + stackOf a
  | .system => 12 + a / 2 ^ 24 % 8

/-- Scrubbing moves on from granule `g`; the last granule of a Comb store or of a stack's data space ends a pass (08 R216). -/
def Ctx.scrubOn (x : Ctx) (p : Spc) (g : Nat) : Ctx :=
  let key := p.scrubber g
  let n := tget 0 x.chip.mem.scrubAt key
  if scrubAddr key n ≠ g then x
  else if n + 1 = scrubCount key then
    let x := x.onMem fun m => { m with scrubAt := tset 0 m.scrubAt key 0 }
    match p with
    | .sram d => x.count 0x07 d 3 1
    | .hbm => x.count 0x08 (stackOf g) 4 1
    | .system => x
  else x.onMem fun m => { m with scrubAt := tset 0 m.scrubAt key (n + 1) }

/-- Scrub the granule at `a`: it is read, corrected and written back, or marked poisoned. Paused in a Lull, in Dormant and in a
quiet window (08 R215, 12 R327). -/
def Ctx.scrub (x : Ctx) (p : Spc) (a size : Nat) : Ctx :=
  if x.frozen || x.chip.boot.pstate == .dormant || !x.chip.boot.ready || x.chip.power.quietWin.isSome || size ≤ a then x else
  let g := granule a
  let r := x.inspect p none g 64
  let x := if p == .system && !r.2.isEmpty then r.1.loseRing g else r.1
  let st := x.store p
  let here := touching g 64 st.fix
  let x := x.setStore p { st with fix := st.fix.filter fun k => !here.contains k }
  (here.foldl (fun x k => x.corrected p k) x).scrubOn p g

def sramSize : Nat := 335544320
def hbmSize : Nat := 309237645312

/-- The memory and the address that a scrub read or a write-back names. -/
def placeOf : Where → Spc × Nat × Nat
  | .sram d off => (.sram d, off, sramSize)
  | .hbm a => (.hbm, a, hbmSize)
  | .system k off => (.system, 2 ^ 24 * k + off % 2 ^ 24, 2 ^ 27)

def execScrubRead (c : Fin 8) (w : Where) (s : State) : Res :=
  chipNext c (·.scrub (placeOf w).1 (placeOf w).2.1 (placeOf w).2.2) s

/-- The pending correction of a unit is written back and counted. -/
def Ctx.writeBack (x : Ctx) (p : Spc) (a : Nat) : Ctx :=
  let st := x.store p
  if st.fix.contains a then (x.setStore p { st with fix := st.fix.filter (· != a) }).corrected p a else x

def execEccWriteBack (c : Fin 8) (w : Where) (s : State) : Res :=
  chipNext c (·.writeBack (placeOf w).1 (placeOf w).2.1) s

/-! ## The BAR2 peer window (08 R200, R201, R214) -/

/-- The data-space address of a BAR2 access that lies wholly in a mapped range. -/
def Ctx.bar2Addr (x : Ctx) (off len : Nat) : Option Nat :=
  let s := off / 2 ^ 31
  let o := off % 2 ^ 31
  let m := x.act.superMap
  if o + len ≤ min (2 ^ 31) (generalBytes m s) ∧ superDefined m s = true then some (sliceBase m s + o) else none

/-- An access outside a mapped range: reported and counted. -/
def Ctx.bar2Outside (x : Ctx) : Ctx := (x.emit (.aer x.c 1 "Unsupported Request")).count 0x0A 0 0 1

def Ctx.bar2Read (x : Ctx) (off len : Nat) : Ctx :=
  match x.bar2Addr off len with
  | none => (x.emit (.readAnswer x.c none false)).bar2Outside
  | some a =>
    let r := x.inspect .hbm none a len
    if r.2.isEmpty then r.1.emit (.readAnswer x.c (some ((r.1.store .hbm).readN a len)) false)
    else r.1.emit (.readAnswer x.c (some (zeroBytes len)) true)

def Ctx.bar2Write (x : Ctx) (off : Nat) (data : Bytes) : Ctx :=
  match x.bar2Addr off data.length with
  | none => x.bar2Outside
  | some a => x.put .hbm none a data

def execBar2Read (c : Fin 8) (off : BitVec 34) (len : Nat) (s : State) : Res :=
  chipNext c (fun x => onlyIf x.barOpen (·.bar2Read off.toNat len) x) s

def execBar2Write (c : Fin 8) (off : BitVec 34) (data : Bytes) (s : State) : Res :=
  chipNext c (fun x => onlyIf x.barOpen (·.bar2Write off.toNat data) x) s

end Sys2Proof.Machine
end

