-- ==== Sys2Proof/Machine/Operands.lean ====
section
/-! DEFINITION. The operands of the engines: fields, ranges and checks of operation, row-operation and copy descriptors
(05 R133 to R138, 07 R174 to R176, 08 R203 to R204), and the raising of addresses for arena 1 (09 R223). -/
namespace Sys2Proof.Machine

/-- A range of bytes: first byte and length. -/
abbrev Range := Nat × Nat

def Range.meets (a b : Range) : Bool := a.2 != 0 && b.2 != 0 && overlap a.1 a.2 b.1 b.2

/-- A range lies inside another. -/
def Range.inside (a b : Range) : Bool := decide (b.1 ≤ a.1 ∧ a.1 + a.2 ≤ b.1 + b.2)

/-- The span of `rows` rows of `len` bytes at `pitch` from `addr`. -/
def span (addr rows pitch len : Nat) : Range := (addr, (rows - 1) * pitch + len)

/-- No two ranges of a list meet. -/
def disjoint : List Range → Bool
  | [] => true
  | a :: r => (r.all fun b => !a.meets b) && disjoint r

/-! ## Fields common to operation descriptors (05 R133) -/

def dOp (b : Bytes) : Nat := bitsAt b 0 0 4
def dShape (b : Bytes) : Nat := bitsAt b 0 4 2
def dStrict (b : Bytes) : Bool := bitAt b 0 6
def dFmtA (b : Bytes) : Nat := bitsAt b 1 0 4
def dFmtB (b : Bytes) : Nat := bitsAt b 1 4 4
def dScale (b : Bytes) : Nat := bitsAt b 2 0 2
def dOutFmt (b : Bytes) : Nat := bitsAt b 2 2 2
def dAccIn (b : Bytes) : Bool := bitAt b 2 4
def dWKeep (b : Bytes) : Bool := bitAt b 2 5
def dWBank (b : Bytes) : Nat := bitsAt b 2 6 1
def dWaitId (b : Bytes) : Nat := bitsAt b 3 0 6
def dWaitEn (b : Bytes) : Bool := bitAt b 3 6
def dSignalEn (b : Bytes) : Bool := bitAt b 3 7
def dSignalId (b : Bytes) : Nat := bitsAt b 4 0 6
def dWaitValue (b : Bytes) : Nat := field b 6 2
def dRows (b : Bytes) : Nat := field b 8 4
def dK (b : Bytes) : Nat := field b 12 2
def dN (b : Bytes) : Nat := field b 14 2
def dA (b : Bytes) : Nat := field b 16 4
def dB (b : Bytes) : Nat := field b 20 4
def dC (b : Bytes) : Nat := field b 24 4
def dSA (b : Bytes) : Nat := field b 28 4
def dSB (b : Bytes) : Nat := field b 32 4
def dAPitch (b : Bytes) : Nat := field b 36 2
def dBPitch (b : Bytes) : Nat := field b 38 2
def dCPitch (b : Bytes) : Nat := field b 40 2
def dQStride (b : Bytes) : Nat := field b 44 4

/-- Rows per group and columns of a shape (05 R130). -/
def shapeRows (s : Nat) : Nat := match s with | 0 => 32 | 1 => 16 | _ => 8
def shapeCols (s : Nat) : Nat := match s with | 0 => 32 | 1 => 16 | _ => 128

/-- Quadrants of a shape. -/
def shapeQuads (s : Nat) : Nat := if s = 1 then 4 else 1

def fmtFloat (f : Nat) : Bool := decide (f ≤ 6)
def fmtInt (f : Nat) : Bool := decide (8 ≤ f ∧ f ≤ 0xB)

/-- The Stream K limit (05 R138). -/
def streamKLimit (fmt shape : Nat) : Nat :=
  match fmtBits fmt, shape with
  | 8, 0 => 2048
  | 8, 1 => 1024
  | 8, _ => 512
  | 6, 0 => 2720
  | 6, 1 => 1344
  | 6, _ => 672
  | 4, 0 => 4096
  | 4, 1 => 2048
  | 4, _ => 1024
  | _, 0 => 1024
  | _, 1 => 512
  | _, _ => 256

/-- The K-step of a format (05 R129). -/
def kStep (fmt : Nat) : Nat := match fmtBits fmt with | 4 => 8 | 16 => 2 | _ => 4

/-- Bytes of a C element: FP32 and INT32 take four (05 R133). -/
def cBytes (out : Nat) : Nat := match out with | 0 => 4 | 3 => 1 | _ => 2

/-- Bytes of the scales of A and of B in one quadrant (05 R133). -/
def saBytes (b : Bytes) : Nat := match dScale b with | 1 => dRows b * (dK b / 32) | 2 => 4 * dRows b | _ => 0
def sbBytes (b : Bytes) : Nat := match dScale b with | 1 => dK b / 32 * dN b | 2 => 4 * dN b | _ => 0

def rangeA (b : Bytes) (q : Nat) : Range := span (dA b + q * dQStride b) (dRows b) (dAPitch b) (rowBytes (dFmtA b) (dK b))
def rangeB (b : Bytes) (q : Nat) : Range := span (dB b + q * dQStride b) (dK b) (dBPitch b) (rowBytes (dFmtB b) (dN b))
def rangeC (b : Bytes) (q : Nat) : Range := span (dC b + q * dQStride b) (dRows b) (dCPitch b) (cBytes (dOutFmt b) * dN b)
def rangeSA (b : Bytes) (q : Nat) : Range := (dSA b + q * dQStride b, saBytes b)
def rangeSB (b : Bytes) (q : Nat) : Range := (dSB b + q * dQStride b, sbBytes b)

/-- What a matrix descriptor reads as operands, and what it writes. -/
def matrixReads (b : Bytes) : List Range :=
  (List.range (shapeQuads (dShape b))).flatMap fun q => [rangeA b q, rangeB b q, rangeSA b q, rangeSB b q]

def matrixWrites (b : Bytes) : List Range := (List.range (shapeQuads (dShape b))).map (rangeC b)

/-- The Comb store slice of a Super on a die, as a range (08 R197). -/
def sliceRange (m : Mem) (super die : Nat) : Range := (shareBase m super die, shareBytes m super die)

/-- The first failing condition of a list of (status, order, fails). -/
def firstFail (l : List (Nat × Nat × Bool)) : Option (Nat × Nat) :=
  (l.find? fun e => e.2.2).map fun e => (e.1, e.2.1)

/-- The checks of a matrix descriptor: status and order of the first that fails (05 R135). -/
def matrixCheck (m : Mem) (super die : Nat) (b : Bytes) : Option (Nat × Nat) :=
  let fa := dFmtA b
  let fb := dFmtB b
  let sh := dShape b
  let sc := dScale b
  let fill := dOp b = 1
  let badFmt := fun f => f = 7 ∨ 0xC ≤ f
  let limit := if fill then 65504 else streamKLimit fa sh
  let rowLimit := if fill then shapeRows sh else 16777216
  let addrs := [dA b, dB b, dC b, dSA b, dSB b] ++ if sh = 1 then [dQStride b] else []
  firstFail [
    (0x0100, 1, decide (bitAt b 0 7 = true ∨ bitAt b 2 7 = true ∨ bitsAt b 4 6 2 ≠ 0 ∨ byteAt b 5 ≠ 0 ∨ field b 42 2 ≠ 0 ∨
      zeros b 48 64 = false ∨ (dOp b ≠ 1 ∧ dOp b ≠ 2) ∨ sh = 3 ∨ sc = 3 ∨ badFmt fa ∨ badFmt fb)),
    (0x0106, 2, (fmtFloat fa && fmtFloat fb && fa != fb) || (fmtFloat fa != fmtFloat fb) || (fmtBits fa != fmtBits fb)),
    (0x0106, 3, decide (sc = 1 ∧ 4 < fa)),
    (0x0106, 4, dStrict b && decide ((fa ≠ 5 ∧ fa ≠ 6) ∨ dOutFmt b = 3)),
    (0x0106, 5, fmtInt fa && decide (sc = 0 ∧ dOutFmt b ≠ 0)),
    (0x0105, 6, decide (dRows b < 1 ∨ rowLimit < dRows b ∨ dK b < 32 ∨ dK b % 32 ≠ 0 ∨ limit < dK b ∨ dN b < 1 ∨
      shapeCols sh < dN b)),
    (0x0105, 7, (decide fill && (dWKeep b || dWBank b == 1)) || (sh != 1 && dQStride b != 0) || (dAccIn b && dOutFmt b != 0) ||
      (sc == 0 && (dSA b != 0 || dSB b != 0))),
    (0x0105, 8, (addrs.any fun a => a % 64 != 0) || ([dAPitch b, dBPitch b, dCPitch b].any fun p => p % 16 != 0) ||
      decide (dAPitch b < rowBytes fa (dK b) ∨ dBPitch b < rowBytes fb (dN b) ∨ dCPitch b < cBytes (dOutFmt b) * dN b)),
    (0x0105, 9, (matrixReads b ++ matrixWrites b).any fun r => r.2 != 0 && !r.inside (sliceRange m super die)),
    (0x0105, 10, (matrixReads b).any fun r => (matrixWrites b).any fun w => r.meets w)]

/-! ## Row-operation descriptors (07 R174 to R176) -/

def rLen (b : Bytes) : Nat := field b 12 4
def sRowOp (b : Bytes) : Nat := bitsAt b 16 0 2
def sFunc (b : Bytes) : Nat := bitsAt b 17 0 6
def sInFmt (b : Bytes) : Nat := bitsAt b 18 0 2
def sIn (b : Bytes) : Nat := field b 20 4
def sOut (b : Bytes) : Nat := field b 24 4
def sAux (b : Bytes) : Nat := field b 28 4
def sStat (b : Bytes) : Nat := field b 32 4
def sParam0 (b : Bytes) : Word32 := BitVec.ofNat 32 (field b 36 4)
def sParam1 (b : Bytes) : Word32 := BitVec.ofNat 32 (field b 40 4)
def sInPitch (b : Bytes) : Nat := field b 44 4
def sOutPitch (b : Bytes) : Nat := field b 48 4
def lK (b : Bytes) : Nat := field b 16 4
def lInFmt (b : Bytes) : Nat := bitsAt b 20 0 2
def lOrder (b : Bytes) : Bool := bitAt b 20 2
def lIn (b : Bytes) : Nat := field b 24 4
def lOut (b : Bytes) : Nat := field b 28 4
def lScratch (b : Bytes) : Nat := field b 32 4
def lInPitch (b : Bytes) : Nat := field b 36 4
def lOutPitch (b : Bytes) : Nat := field b 40 4

/-- Bytes of an SFU output row; a SOFTMAX row occupies 4 B per element (07 R176). -/
def sOutRow (b : Bytes) : Nat := rLen b * if sRowOp b = 1 then 4 else outBytes (dOutFmt b)

def sInRange (b : Bytes) : Range := span (sIn b) (dRows b) (sInPitch b) (rLen b * inBytes (sInFmt b))
def sOutRange (b : Bytes) : Range := span (sOut b) (dRows b) (sOutPitch b) (sOutRow b)
def sAuxRange (b : Bytes) : Range := (sAux b, rLen b * inBytes (sInFmt b) * if sRowOp b = 3 then 2 else 1)
def sStatRange (b : Bytes) : Range := (sStat b, dRows b * 8)
def lInRange (b : Bytes) : Range := span (lIn b) (dRows b) (lInPitch b) (rLen b * inBytes (lInFmt b))
def lOutRange (b : Bytes) : Range := span (lOut b) (dRows b) (lOutPitch b) (8 * lK b)
def lScratchRange (b : Bytes) : Range := (lScratch b, 16 * rLen b)

/-- The ranges a row operation uses; an address of 0 that means none names none. -/
def rowRanges (b : Bytes) : List Range :=
  if dOp b = 3 then
    [sInRange b, sOutRange b] ++ (if sAux b = 0 then [] else [sAuxRange b]) ++ (if sStat b = 0 then [] else [sStatRange b])
  else [lInRange b, lOutRange b] ++ if lK b ≤ 64 ∧ lScratch b = 0 then [] else [lScratchRange b]

/-- Slot `n` of a microprogram table holds a program: 0 to 11 are shipped, 12 to 15 empty, 16 to 63 loaded (07 R178, R182). -/
def slotFull (micro : Mem) (n : Nat) : Bool :=
  if n < 12 then true else if n < 16 then false else !((imgBytes micro (448 * (n - 16)) 448).all fun v => v == 0)

/-- The checks of a row-operation descriptor (07 R176). DEDUCED (log entry 99): 06 R153 gives FP8 E4M3 no SFU role, while check
3 and 07 R188 speak of it as an output in Fast; the check of R176 decides. -/
def rowCheck (m micro : Mem) (super die : Nat) (b : Bytes) : Option (Nat × Nat) :=
  let sfu := dOp b = 3
  let op := sRowOp b
  let common := dShape b ≠ 0 ∨ byteAt b 1 ≠ 0 ∨ dScale b ≠ 0 ∨ dAccIn b = true ∨ dWKeep b = true ∨ dWBank b ≠ 0
  let spare :=
    if sfu then bitsAt b 16 2 6 ≠ 0 ∨ bitsAt b 17 6 2 ≠ 0 ∨ bitsAt b 18 2 6 ≠ 0 ∨ byteAt b 19 ≠ 0 ∨ zeros b 52 64 = false ∨ sInFmt b = 3
    else bitsAt b 20 3 5 ≠ 0 ∨ zeros b 21 24 = false ∨ zeros b 44 64 = false ∨ lInFmt b = 3
  let sfuZero := sfu ∧ ((op ≠ 0 ∧ (sFunc b ≠ 0 ∨ sParam1 b ≠ 0)) ∨ (op ≤ 1 ∧ sAux b ≠ 0) ∨ (op ≠ 1 ∧ sStat b ≠ 0))
  let selZero := ¬ sfu ∧ (dOutFmt b ≠ 0 ∨ (lK b ≤ 64 ∧ lScratch b ≠ 0))
  let lenMax := if sfu ∧ op ≠ 0 then 1048576 else 16777216
  let addrs := if sfu then [sIn b, sOut b, sAux b, sStat b] else [lIn b, lOut b, lScratch b]
  let pitches :=
    if sfu then [(sInPitch b, rLen b * inBytes (sInFmt b)), (sOutPitch b, sOutRow b)]
    else [(lInPitch b, rLen b * inBytes (lInFmt b)), (lOutPitch b, 8 * lK b)]
  let inPlace := sfu ∧ op = 0 ∧ sIn b = sOut b ∧ sInPitch b = sOutPitch b ∧ inBytes (sInFmt b) = outBytes (dOutFmt b)
  firstFail [
    (0x0100, 1, decide (bitAt b 0 7 = true ∨ bitAt b 2 7 = true ∨ bitsAt b 4 6 2 ≠ 0 ∨ byteAt b 5 ≠ 0 ∨ spare)),
    (0x0105, 2, decide (common ∨ sfuZero ∨ selZero)),
    (0x0106, 3, dStrict b && decide (¬ sfu ∨ dOutFmt b = 3)),
    (0x0105, 4, decide (sfu ∧ op = 0) && !slotFull micro (sFunc b)),
    (0x0105, 5, decide (dRows b < 1 ∨ 65536 < dRows b ∨ rLen b < 1 ∨ lenMax < rLen b ∨ (¬ sfu ∧ (lK b < 1 ∨ rLen b < lK b)))),
    (0x0105, 6, (addrs.any fun a => a % 64 != 0) || pitches.any fun p => p.1 % 16 != 0 || decide (p.1 < p.2)),
    (0x0105, 7, decide (¬ sfu ∧ 64 < lK b ∧ lScratch b = 0)),
    (0x0105, 8, (rowRanges b).any fun r => !r.inside (sliceRange m super die)),
    (0x0105, 9, if inPlace then !disjoint ((rowRanges b).drop 1) else !disjoint (rowRanges b))]

/-- The checks of any operation descriptor (05 R132). -/
def opCheck (m micro : Mem) (super die : Nat) (b : Bytes) : Option (Nat × Nat) :=
  if dOp b = 3 ∨ dOp b = 4 then rowCheck m micro super die b else matrixCheck m super die b

/-! ## Copy descriptors (08 R203, R204) -/

def cSrc (b : Bytes) : Nat := bitsAt b 0 0 4
def cDst (b : Bytes) : Nat := bitsAt b 0 4 4
def cSrcDie (b : Bytes) : Nat := bitsAt b 1 0 2
def cDstDie (b : Bytes) : Nat := bitsAt b 1 2 2
def cRowBytes (b : Bytes) : Nat := field b 8 4
def cRows (b : Bytes) : Nat := field b 12 4
def cSrcAddr (b : Bytes) : Nat := field b 16 8
def cDstAddr (b : Bytes) : Nat := field b 24 8
def cSrcPitch (b : Bytes) : Nat := field b 32 4
def cDstPitch (b : Bytes) : Nat := field b 36 4
def cStream (b : Bytes) : Nat := field b 40 2 % 4096
def cGen (b : Bytes) : Nat := field b 42 2

/-- The bytes a copy moves. -/
def cBytesMoved (b : Bytes) : Nat := cRowBytes b * cRows b

/-- Source and destination spans, as addresses of their spaces. -/
def cSrcRange (b : Bytes) : Range := span (cSrcAddr b % 2 ^ (if cSrc b = 3 then 48 else 64)) (cRows b) (cSrcPitch b) (cRowBytes b)
def cDstRange (b : Bytes) : Range := span (cDstAddr b % 2 ^ (if cDst b = 4 then 48 else 64)) (cRows b) (cDstPitch b) (cRowBytes b)

/-- A range of a space lies where the space allows. -/
def spaceHolds (m : Mem) (super space die frames : Nat) (r : Range) : Bool :=
  match space with
  | 0 => decide (r.1 + r.2 ≤ 2 ^ 64)
  | 1 => decide (r.1 + r.2 ≤ generalBytes m super)
  | 2 => r.inside (sliceRange m super die)
  | 3 => decide (r.1 + r.2 ≤ frames)
  | _ => true

/-- Two ends of copies lie in one memory and meet. -/
def endsMeet (s1 d1 : Nat) (r1 : Range) (s2 d2 : Nat) (r2 : Range) : Bool :=
  s1 == s2 && (s1 != 2 || d1 == d2) && s1 != 3 && s1 != 4 && s1 != 5 && r1.meets r2

/-- The checks of a copy descriptor; `image` for one of a model image, `st` the stream a frames source names (08 R204). -/
def copyCheck (m : Mem) (super : Nat) (image : Bool) (st : Stream) (b : Bytes) : Option (Nat × Nat) :=
  let src := cSrc b
  let dst := cDst b
  let frames := st.table.length * superFrameBytes m super
  let tokens := byteAt b 3 ≠ 0 ∨ bitsAt b 4 0 6 ≠ 0 ∨ field b 6 2 ≠ 0
  firstFail [
    (0x0100, 1, decide (bitsAt b 1 4 4 ≠ 0 ∨ byteAt b 2 ≠ 0 ∨ bitsAt b 4 6 2 ≠ 0 ∨ byteAt b 5 ≠ 0 ∨ bitsAt b 41 4 4 ≠ 0 ∨
      zeros b 44 64 = false ∨ 5 < src ∨ 5 < dst ∨ (src = 4 ∧ bit (cSrcAddr b) 63 = true) ∨ (dst = 4 ∧ bit (cDstAddr b) 63 = true))),
    (0x0105, 2, decide (src = 4 ∨ dst = 3 ∨ dst = 5 ∨
      (if image then src = 0 ∨ src = 3 ∨ dst = 0 ∨ dst = 4 else tokens) ∨ (src ≠ 3 ∧ field b 40 4 ≠ 0))),
    (0x0105, 3, decide (cRowBytes b < 64 ∨ 16777216 < cRowBytes b ∨ cRowBytes b % 64 ≠ 0 ∨ cRows b < 1 ∨ 1048576 < cRows b ∨
      (1 < cRows b ∧ (cSrcPitch b < cRowBytes b ∨ cDstPitch b < cRowBytes b)))),
    (0x0103, 4, decide ((src ≠ 5 ∧ cSrcAddr b % 64 ≠ 0) ∨ cDstAddr b % 64 ≠ 0 ∨
      (1 < cRows b ∧ (cSrcPitch b % 64 ≠ 0 ∨ cDstPitch b % 64 ≠ 0)))),
    (0x0209, 5, decide (src = 3 ∧ superOfStream m (cStream b) ≠ some super)),
    (0x0203, 6, decide (src = 3 ∧ cGen b ≠ st.gen)),
    (0x0201, 7, decide (src = 3 ∧ st.state = .free)),
    (0x0105, 8, !spaceHolds m super src (cSrcDie b) frames (cSrcRange b) || !spaceHolds m super dst (cDstDie b) 0 (cDstRange b)),
    (0x0105, 9, endsMeet src (cSrcDie b) (cSrcRange b) dst (cDstDie b) (cDstRange b))]

/-! ## Arena 1 (09 R223) -/

/-- Bytes with the `n`-byte field at `off` replaced. -/
def setField (b : Bytes) (off n v : Nat) : Bytes := b.take off ++ toLE n v ++ b.drop (off + n)

/-- Raise the 32-bit Comb store address at `off` by `len` where it lies in arena 0. -/
def raiseAt (base len : Nat) (b : Bytes) (off n : Nat) : Bytes :=
  let v := field b off n
  if base ≤ v ∧ v < base + len then setField b off n (v + len) else b

/-- Raise the addresses of an operation descriptor. -/
def raiseOp (base len : Nat) (b : Bytes) : Bytes :=
  if dOp b = 3 then
    let b' := raiseAt base len (raiseAt base len b 20 4) 24 4
    let b' := if sAux b = 0 then b' else raiseAt base len b' 28 4
    if sStat b = 0 then b' else raiseAt base len b' 32 4
  else if dOp b = 4 then
    let b' := raiseAt base len (raiseAt base len b 24 4) 28 4
    if lK b ≤ 64 ∧ lScratch b = 0 then b' else raiseAt base len b' 32 4
  else
    let b' := raiseAt base len (raiseAt base len (raiseAt base len b 16 4) 20 4) 24 4
    if dScale b = 0 then b' else raiseAt base len (raiseAt base len b' 28 4) 32 4

/-- Raise the Comb store addresses of a copy descriptor; `arena d` gives base and length on die `d`. -/
def raiseCopy (arena : Nat → Nat × Nat) (b : Bytes) : Bytes :=
  let b' := if cSrc b = 2 then raiseAt (arena (cSrcDie b)).1 (arena (cSrcDie b)).2 b 16 8 else b
  if cDst b = 2 then raiseAt (arena (cDstDie b)).1 (arena (cDstDie b)).2 b' 24 8 else b'

end Sys2Proof.Machine

/-! ## Rounding -/
namespace Sys2Proof

/-- What rounding adds to a number rounded down. -/
def Rounding.more : Rounding → Nat
  | .down => 0
  | .up => 1

/-- A quotient, rounded one way or the other where it is not whole. -/
def Rounding.div (way : Rounding) (a b : Nat) : Nat := a / b + if a % b = 0 then 0 else way.more

end Sys2Proof
end

