-- ==== Sys2Proof/Machine/Streams.lean ====
section
/-! DEFINITION. Streams and frames (04 R102 to R112, R121, R126; 08 R195, R199, R208). -/
namespace Sys2Proof.Machine

/-! ## Streams and the frames of a Super's pool -/

def Ctx.stream (x : Ctx) (i : Nat) : Stream := tget .free x.chip.serve.streams i

def Ctx.setStream (x : Ctx) (i : Nat) (t : Stream) : Ctx :=
  x.onServe fun v => { v with streams := tset .free v.streams i t }

def Ctx.model (x : Ctx) (m : Nat) : Model := tget .empty x.chip.serve.models m

def Ctx.setModel (x : Ctx) (m : Nat) (d : Model) : Ctx :=
  x.onServe fun v => { v with models := tset .empty v.models m d }

/-- The key of frame `k` of Super `s`. -/
def frameKey (s k : Nat) : Nat := 4194304 * s + k

/-- The reference count of a frame (04 R108). -/
def Ctx.refs (x : Ctx) (s k : Nat) : Nat := tget 0 x.chip.serve.refs (frameKey s k)

def Ctx.addRef (x : Ctx) (s k : Nat) : Ctx :=
  x.onServe fun v => { v with refs := tupd 0 v.refs (frameKey s k) (· + 1) }

/-- The frames of Super `s` that are in use, rising. -/
def Ctx.usedFrames (x : Ctx) (s : Nat) : List Nat :=
  (x.chip.serve.refs.filter fun e => e.1 / 4194304 == s).map fun e => e.1 % 4194304

/-- How many frames of Super `s`'s pool are free. -/
def Ctx.freeFrames (x : Ctx) (s : Nat) : Nat := superFrames x.act.superMap s - (x.usedFrames s).length

/-- The `n`-th number that a rising list leaves out. -/
def nthMissing : List Nat → Nat → Nat
  | [], n => n
  | u :: r, n => if u ≤ n then nthMissing r (n + 1) else n

/-- Take one free frame of Super `s`, any of them: the spec does not say which. -/
def Ctx.takeFrame (x : Ctx) (s : Nat) : Ctx × Nat :=
  let k := nthMissing (x.usedFrames s) (Config.freeNat x.free % x.freeFrames s)
  (x.bump.addRef s k, k)

/-- Take `n` free frames of Super `s`. -/
def Ctx.takeFrames (x : Ctx) (s : Nat) : Nat → Ctx × List Nat
  | 0 => (x, [])
  | n + 1 =>
    let r := x.takeFrame s
    let q := r.1.takeFrames s n
    (q.1, r.2 :: q.2)

/-- Append `n` indexes of `layers` new frames to a table. -/
def Ctx.growTable (x : Ctx) (s layers n : Nat) (table : List (List Nat)) : Ctx × List (List Nat) :=
  match n with
  | 0 => (x, table)
  | n + 1 =>
    let r := x.takeFrames s layers
    r.1.growTable s layers n (table ++ [r.2])

/-- Drop one reference; a frame whose count reaches zero is free, with undefined contents (04 R108). -/
def Ctx.dropRef (x : Ctx) (s k : Nat) : Ctx :=
  let n := x.refs s k
  let x := x.onServe fun v => { v with refs := tset 0 v.refs (frameKey s k) (n - 1) }
  if n ≤ 1 then x.blur .hbm (frameAddr x.act.superMap s k) (superFrameBytes x.act.superMap s) else x

/-- Release the indexes from `n` on of stream `i`, of Super `s`. -/
def Ctx.cutTable (x : Ctx) (s i n : Nat) : Ctx :=
  let t := x.stream i
  let x := (t.table.drop n).flatten.foldl (fun x k => x.dropRef s k) x
  x.setStream i { t with table := t.table.take n }

/-- End the tentative range of stream `i`: its drafts count as rejected (04 R126), and with `frames` the indexes that were
appended only for them are released (04 R121). -/
def Ctx.dropTent (x : Ctx) (s i : Nat) (frames : Bool) : Ctx :=
  let t := x.stream i
  match t.tent with
  | none => x
  | some r =>
    let x := (x.count 0x06 s 2 r.count).setStream i { t with tent := none }
    if frames ∧ 0 < r.frames ∧ r.first + r.frames = t.table.length then x.cutTable s i r.first else x

/-- A copy from the frames of stream `i` is running: R208 keeps commands on the stream away until it has completed. -/
def Ctx.copyReads (x : Ctx) (i : Nat) : Bool :=
  x.chip.eng.foragers.any fun e => match e.2.running with
    | some j => bitsAt j.bytes 0 0 4 == 3 && field j.bytes 40 2 % 4096 == i
    | none => false

/-! ## What a command may name (04 R103) -/

/-- The Super of a stream command's queue pair. -/
def Ctx.sup (x : Ctx) (k : Cmd) : Nat := (x.qp k.qp).super

/-- Checks 1 and 2 of R103 on stream `i` with generation `gen`. -/
def Ctx.nameCheck (x : Ctx) (s i gen : Nat) : Option Nat :=
  if superOfStream x.act.superMap i ≠ some s then some 0x0209
  else if gen ≠ (x.stream i).gen then some 0x0203
  else none

/-- Run a stream command on the stream of bytes 28 to 31: R208, then R103, then the states that allow it. -/
def Ctx.onStreamCmd (x : Ctx) (k : Cmd) (copies : Bool) (states : List StreamState) (f : Nat → Nat → Ctx) : Ctx :=
  let i := k.arg 28 2 % 4096
  let s := x.sup k
  if copies && x.copyReads i then x
  else match x.nameCheck s i (k.arg 30 2) with
    | some st => x.refuse k st 0 0
    | none => if states.contains (x.stream i).state then f s i else x.refuse k 0x0201 0 0

/-- The 16-bit generation after `g` (04 R103). -/
def nextGen (g : Nat) : Nat := if g = 0xFFFF then 1 else g + 1

/-! ## STREAM_OPEN (04 R104) -/

/-- The lowest FREE stream of Super `s`. -/
def Ctx.lowestFree (x : Ctx) (s : Nat) : Option Nat :=
  ((List.range (superStreamCount x.act.superMap s)).map (superStreamBase x.act.superMap s + ·)).find? fun i =>
    (x.stream i).state == .free

/-- The model check of a STREAM_OPEN: a model loaded in the Super, of a frame size that fits. -/
def Ctx.openModelCheck (x : Ctx) (s m : Nat) : Option Nat :=
  let d := x.model m
  if (d.gen ≠ 0 ∨ d.loading) ∧ d.super ≠ s then some 0x0209
  else if d.gen = 0 ∨ superFrameCode x.act.superMap s < d.frameSize then some 0x0105
  else none

def Ctx.streamOpen (x : Ctx) (k : Cmd) : Ctx :=
  let i := k.arg 28 2
  let m := k.arg 30 1
  let s := x.sup k
  if 4096 ≤ i ∧ i ≠ 0xFFFF then x.refuse k 0x0105 0 0
  else if i ≠ 0xFFFF ∧ superOfStream x.act.superMap i ≠ some s then x.refuse k 0x0209 0 0
  else match x.openModelCheck s m with
    | some st => x.refuse k st 0 0
    | none =>
      match (if i = 0xFFFF then x.lowestFree s else some i) with
      | none => x.refuse k 0x0300 0 0
      | some i =>
        let t := x.stream i
        if t.state ≠ .free then x.refuse k 0x0201 0 0
        else
          let g := nextGen t.gen
          (x.setStream i ⟨.opened, g, false, m, 0, [], none⟩).done k 0 (i + 65536 * g) 0

def execStreamOpen (c : Fin 8) (id : Nat) (s : State) : Res :=
  chipNext c (fun x => x.run id 0x20 (fun _ => true) fun k x => x.streamOpen k) s

/-! ## STREAM_CLOSE (04 R105) -/

def Ctx.streamClose (x : Ctx) (k : Cmd) : Ctx :=
  x.onStreamCmd k false [.opened] fun s i =>
    let y := x.dropTent s i true
    (y.setStream i { y.stream i with state := .closed }).done k 0 ((x.stream i).table.flatten.length - (y.stream i).table.flatten.length) 0

def execStreamClose (c : Fin 8) (id : Nat) (s : State) : Res :=
  chipNext c (fun x => x.run id 0x21 (fun k => !bitAt k.entry 32 0) fun k x => x.streamClose k) s

def Ctx.streamCloseFree (x : Ctx) (k : Cmd) : Ctx :=
  x.onStreamCmd k true [.opened, .closed] fun s i =>
    let y := (x.dropTent s i true).cutTable s i 0
    (y.setStream i { Stream.free with gen := (y.stream i).gen }).done k 0 (x.stream i).table.flatten.length 0

def execStreamCloseFree (c : Fin 8) (id : Nat) (s : State) : Res :=
  chipNext c (fun x => x.run id 0x21 (fun k => bitAt k.entry 32 0) fun k x => x.streamCloseFree k) s

/-! ## STREAM_CANCEL (04 R106, R107, R127) -/

/-- The record is that of a committed entry of stream `i` as its occupant `gen` holds it. -/
def OutRec.ofStream (r : OutRec) (i gen : Nat) : Bool := r.stream == i && r.gen == gen && !r.cancelled

/-- A step past its commit point still has to write a record of stream `i`. -/
def Ctx.recordDue (x : Ctx) (i gen : Nat) : Bool :=
  x.chip.serve.steps.any fun t => t.phase == .committed && t.records.any fun r => r.ofStream i gen

/-- Mark the unwritten records of stream `i` CANCEL_LATE (04 R127). -/
def Ctx.markLate (x : Ctx) (i gen : Nat) : Ctx :=
  x.onServe fun v =>
    { v with steps := v.steps.map fun t =>
        if t.phase = .committed then
          { t with records := t.records.map fun r => if r.ofStream i gen then { r with late := true } else r }
        else t }

def Ctx.streamCancel (x : Ctx) (k : Cmd) : Ctx :=
  x.onStreamCmd k true [.opened, .running, .cancelling, .closed] fun s i =>
    let t := x.stream i
    match t.state with
    | .opened =>
      let y := (x.dropTent s i true).markLate i t.gen
      (y.setStream i { y.stream i with state := .closed, cancel := true }).done k 0 (if x.recordDue i t.gen then 2 else 0) 0
    | .running => ((x.markLate i t.gen).setStream i { t with state := .cancelling, cancel := true }).done k 0 1 0
    | _ => x.done k 0x0002 0 0

/-! ## FRAME_MAP (04 R109, R110) -/

def Ctx.frameMapFresh (x : Ctx) (k : Cmd) : Ctx :=
  let n := k.arg 36 2
  if n < 1 ∨ 16384 < n ∨ 16384 < k.arg 32 2 ∨ k.arg 38 4 ≠ 0 ∨ k.arg 44 4 ≠ 0 then x.refuse k 0x0105 0 0
  else
    x.onStreamCmd k false [.opened] fun s i =>
      let t := x.stream i
      let layers := (x.model t.model).layers
      if k.arg 32 2 ≠ t.table.length then x.refuse k 0x0202 0 0
      else if 16384 < t.table.length + n then x.refuse k 0x0105 0 0
      else if x.freeFrames s < n * layers then x.refuse k 0x0301 0 0
      else
        let r := x.growTable s layers n t.table
        (r.1.setStream i { t with table := r.2 }).done k 0 (r.2.length + 2 ^ 32 * t.position) 0

def execFrameMapFresh (c : Fin 8) (id : Nat) (s : State) : Res :=
  chipNext c (fun x => x.run id 0x23 (fun k => !bitAt k.entry 34 0) fun k x => x.frameMapFresh k) s

/-- The conditions of a share in order (04 R110). -/
def Ctx.shareCheck (x : Ctx) (s i : Nat) (k : Cmd) : Option Nat :=
  let j := k.arg 38 2 % 4096
  let t := x.stream i
  let u := x.stream j
  if superOfStream x.act.superMap j ≠ some s then some 0x0209
  else if k.arg 40 2 ≠ u.gen then some 0x0203
  else if u.state ≠ .opened ∧ u.state ≠ .closed then some 0x0201
  else if u.model ≠ t.model then some 0x0105
  else if t.table ≠ [] ∨ t.position ≠ 0 then some 0x0201
  else if u.position < k.arg 44 4 then some 0x0202
  else none

def Ctx.frameMapShare (x : Ctx) (k : Cmd) : Ctx :=
  if k.arg 36 2 ≠ 0 ∨ k.arg 44 4 < 1 ∨ 16384 < k.arg 32 2 then x.refuse k 0x0105 0 0
  else
    x.onStreamCmd k false [.opened] fun s i =>
      let t := x.stream i
      if k.arg 32 2 ≠ t.table.length then x.refuse k 0x0202 0 0
      else match x.shareCheck s i k with
        | some st => x.refuse k st 0 0
        | none =>
          let table := (x.stream (k.arg 38 2 % 4096)).table.take ((k.arg 44 4 + 63) / 64)
          let y := table.flatten.foldl (fun y f => y.addRef s f) x
          (y.setStream i { t with table := table, position := k.arg 44 4 }).done k 0 (table.length + 2 ^ 32 * k.arg 44 4) 0

def execFrameMapShare (c : Fin 8) (id : Nat) (s : State) : Res :=
  chipNext c (fun x => x.run id 0x23 (fun k => bitAt k.entry 34 0) fun k x => x.frameMapShare k) s

/-! ## FRAME_RELEASE (04 R112) -/

def Ctx.frameRelease (x : Ctx) (k : Cmd) : Ctx :=
  x.onStreamCmd k true [.opened, .closed] fun s i =>
    let n := (x.stream i).table.length
    let from' := k.arg 34 2
    if k.arg 32 2 ≠ n ∨ k.arg 32 2 ≤ from' then x.refuse k 0x0202 0 0
    else
      let y := (x.dropTent s i false).cutTable s i from'
      let t := y.stream i
      let p := min t.position (64 * from')
      (y.setStream i { t with position := p }).done k 0 (t.table.length + 2 ^ 32 * p) 0

def execFrameRelease (c : Fin 8) (id : Nat) (s : State) : Res :=
  chipNext c (fun x => x.run id 0x24 (fun _ => true) fun k x => x.frameRelease k) s

end Sys2Proof.Machine
end

