-- ==== Sys2Proof/Machine/Engine.lean ====
section
/-! DEFINITION. The queues between the Steward and the engines, token counters and the work of a step
(01 R33 to R36, 05 R143, 08 R202, R209, 09 R230, 16 R404). -/
namespace Sys2Proof.Machine

/-! ## Engines by index -/

def Ctx.die (x : Ctx) (d : Nat) : Die := tget .initial x.chip.eng.dies d
def Ctx.setDie (x : Ctx) (d : Nat) (v : Die) : Ctx := x.onEng fun e => { e with dies := tset .initial e.dies d v }
def Ctx.comb (x : Ctx) (k : Nat) : Comb := tget .empty x.chip.eng.combs k
def Ctx.setComb (x : Ctx) (k : Nat) (v : Comb) : Ctx := x.onEng fun e => { e with combs := tset .empty e.combs k v }
def Ctx.forager (x : Ctx) (f : Nat) : Forager := tget .idle x.chip.eng.foragers f
def Ctx.setForager (x : Ctx) (f : Nat) (v : Forager) : Ctx :=
  x.onEng fun e => { e with foragers := tset .idle e.foragers f v }

/-- The step of command `id`. -/
def Ctx.step? (x : Ctx) (id : Nat) : Option StepRec := x.chip.serve.steps.find? fun t => t.id == id

/-- Change the step of command `id`. -/
def Ctx.onStep (x : Ctx) (id : Nat) (f : StepRec → StepRec) : Ctx :=
  x.onServe fun v => { v with steps := v.steps.map fun t => if t.id = id then f t else t }

def Ctx.dropStep (x : Ctx) (id : Nat) : Ctx := x.onServe fun v => { v with steps := v.steps.filter fun t => t.id != id }

/-- The stream that a step serves, where it serves exactly one (13 R337). -/
def Ctx.oneStream (x : Ctx) (id : Nat) : Option Nat :=
  match x.step? id with
  | some t => match t.entries with | [e] => some e.stream | _ => none
  | none => none

/-- Log an error that a step met; an uncorrectable granule is logged where it is found (16 R404, R412). -/
def Ctx.logStepError (x : Ctx) (id status r0 r1 : Nat) : Ctx :=
  match x.step? id, stepClass status r0 r1 with
  | some t, some e => if status ≤ 0x0401 then x else x.ras e.1 e.2.1 e.2.2 status (some t.super) (if status ≤ 0x0402 then r1 else 0) r0
  | _, _ => x

/-- A step meets an error, which is logged; the first one decides its status (16 R404). -/
def Ctx.stepError (x : Ctx) (id status r0 r1 : Nat) : Ctx :=
  (x.logStepError id status r0 r1).onStep id fun t => if t.error.isNone then { t with error := some (status, r0, r1) } else t

/-- RESULT0 of a step ended by a data error (16 R405). -/
def dataDetail (entry layer index source : Nat) : Nat := entry + 2 ^ 16 * layer + 2 ^ 32 * index + 2 ^ 48 * source

/-- The status of a bad granule as a step or a load reports it (16 R404, 09 R227). -/
def srcStatus : SrcErr → Nat
  | .sramUe => 0x0400
  | .hbmUe => 0x0401
  | .poisoned => 0x0402
  | .hostRead => 0x0403

/-! ## Programmable counters and samples (13 R331, R332) -/

def selEvent (m : Mem) (i : Nat) : Nat := (imgByte m (16 * i)).toNat
def selFlags (m : Mem) (i : Nat) : Nat := (imgByte m (16 * i + 1)).toNat
def selLo (m : Mem) (i : Nat) : Nat := imgField m (16 * i + 2) 5
def selHi (m : Mem) (i : Nat) : Nat := imgField m (16 * i + 7) 5
def selLog (m : Mem) (i : Nat) : Nat := (imgByte m (16 * i + 12)).toNat

/-- The records that are not all zero. -/
def selRecords (m : Mem) : List Nat := (m.map fun e => e.1 / 16).eraseDups

/-- A counter's value after an addition; each multiple of 2^SAMPLE_LOG2 that it crosses makes a SAMPLE record. -/
def Ctx.samples (x : Ctx) (k n event lg old amount : Nat) (held : Option QDesc) : Ctx :=
  if lg = 0 then x
  else
    let s := 2 ^ lg
    let super := held.map (·.super)
    let stream := match held with | some q => x.oneStream q.step | none => none
    let code := match held with | some q => q.code | none => 0
    (List.range ((old + amount) / s - old / s)).foldl (fun x j =>
      x.trace 1 k super stream code n ((old / s + 1 + j) * s % 2 ^ 48) event) x

/-- Selection record `i` lets an event of the held descriptor pass. -/
def selPasses (m : Mem) (i : Nat) (held : Option QDesc) : Bool :=
  let f := selFlags m i
  match held with
  | some q => (!bit f 3 || f % 8 == q.super) && (!bit f 4 || decide (selLo m i ≤ q.code ∧ q.code < selHi m i))
  | none => !bit f 3 && !bit f 4

/-- Count events of Comb `k`: (event, amount). -/
def Ctx.combEvents (x : Ctx) (k : Nat) (held : Option QDesc) (l : List (Nat × Nat)) : Ctx :=
  let m := x.act.counters
  let recs := (selRecords m).filter fun i => i / 16 == k
  recs.foldl (fun x i =>
    l.foldl (fun x e =>
      if e.1 = selEvent m i ∧ e.2 ≠ 0 ∧ selPasses m i held = true then
        let old := x.ctr 0x01 k (i % 16)
        (x.count 0x01 k (i % 16) e.2).samples k (i % 16) e.1 (selLog m i) old e.2 held
      else x) x) x

/-! ## Work queues -/

/-- The Steward writes a descriptor into a die work queue, which makes an Idle chip Active (02 R59), or holds it while the queue
gives no credit. -/
def Ctx.pushWork (x : Ctx) (d : Nat) (q : QDesc) : Ctx :=
  let v := x.die d
  if v.work.length < 1024 ∧ v.backlog = [] then ((x.setDie d { v with work := v.work ++ [q] }).queueIn d 1).activate
  else x.setDie d { v with backlog := v.backlog ++ [q] }

/-- Take the head of a die work queue; a held descriptor takes the free entry. -/
def Ctx.popWork (x : Ctx) (d : Nat) : Ctx :=
  let v := x.die d
  let x := x.queueOut d 1
  match v.backlog with
  | [] => x.setDie d { v with work := v.work.drop 1 }
  | q :: r => (x.setDie d { v with work := v.work.drop 1 ++ [q], backlog := r }).queueIn d 1

/-- The Foragers that may run a copy descriptor (08 R202). -/
def foragersFor (b : Bytes) : List Nat :=
  let four := fun d => (List.range 4).map (4 * d + ·)
  if cSrc b = 2 then four (cSrcDie b) else if cDst b = 2 then four (cDstDie b) else List.range 16

/-- The Forager with the fewest queued entries, the lowest index on a tie. -/
def Ctx.fewest (x : Ctx) (l : List Nat) : Nat :=
  l.foldl (fun m f => if (x.forager f).queue.length < (x.forager m).queue.length then f else m) (l.headD 0)

/-- A copy descriptor enters a Forager queue, which makes an Idle chip Active (02 R59), or is held while none of its queues gives a
credit. -/
def Ctx.placeCopy (x : Ctx) (j : CopyJob) : Ctx :=
  let f := x.fewest (foragersFor j.bytes)
  let v := x.forager f
  if v.queue.length < 64 then ((x.setForager f { v with queue := v.queue ++ [j] }).queueIn (4 + f) 1).activate
  else x.onEng fun e => { e with backlog := e.backlog ++ [j] }

/-- Offer the held copy descriptors again, in order. -/
def Ctx.refillCopies (x : Ctx) : Ctx :=
  x.chip.eng.backlog.foldl Ctx.placeCopy (x.onEng fun e => { e with backlog := [] })

/-! ## Tokens (05 R143) -/

def tokenKey (step id : Nat) : Nat := step * 64 + id

/-- Counter `id` of a step on die `d`. -/
def Ctx.token (x : Ctx) (d step id : Nat) : Nat := tget 0 (x.die d).tokens (tokenKey step id)

/-- The token wait in the common bytes of a descriptor is met. -/
def Ctx.tokenMet (x : Ctx) (d step : Nat) (b : Bytes) : Bool :=
  !dWaitEn b || decide (dWaitValue b ≤ x.token d step (dWaitId b))

/-- Signal as a descriptor asks; a step that has ended has released its counters. -/
def Ctx.signalToken (x : Ctx) (d step : Nat) (b : Bytes) : Ctx :=
  if dSignalEn b && (x.step? step).isSome then
    let v := x.die d
    x.setDie d { v with tokens := tupd 0 v.tokens (tokenKey step (dSignalId b)) fun n => min (n + 1) 0xFFFF }
  else x

/-! ## Outstanding work of a step (09 R230) -/

/-- The descriptors that a Comb holds. -/
def Comb.descs (c : Comb) : List QDesc :=
  c.buf ++ c.hold.toList ++ (c.drain ++ c.pipe).map (·.desc) ++ (c.sfu ++ c.sel).map (·.desc)

/-- The layers of a step's descriptors that have not ended. -/
def Ctx.outstanding (x : Ctx) (id : Nat) : List Nat :=
  let e := x.chip.eng
  let ds := (e.dies.flatMap fun d => d.2.work ++ d.2.backlog) ++ e.combs.flatMap fun c => c.2.descs
  let js := (e.foragers.flatMap fun f => f.2.queue ++ f.2.running.toList) ++ e.backlog
  (ds.filter fun q => q.step == id).map (·.layer) ++ (js.filter fun j => j.step == some id).map (·.layer)

/-- Write the layers that are due into the queues: layer L waits until no work of layer L - 2 or before is outstanding (08 R209). -/
def Ctx.issueDue (x : Ctx) (id : Nat) : Nat → Ctx
  | 0 => x
  | n + 1 =>
    match x.step? id with
    | none => x
    | some t =>
      match t.due with
      | [] => x
      | w :: r =>
        if (x.outstanding id).any fun l => decide (l + 2 ≤ w.layer) then x
        else
          let x := x.onStep id fun t => { t with due := r }
          let x := w.copies.foldl Ctx.placeCopy x
          let x := w.ops.foldl (fun x o => x.pushWork o.1 o.2) x
          x.issueDue id n

/-- A descriptor of a step has ended: it signals, and layers that waited for it are issued. -/
def Ctx.descEnd (x : Ctx) (d step : Nat) (b : Bytes) : Ctx := (x.signalToken d step b).issueDue step 4

/-- Count the cycles that the head of a die's work queue has waited on its token, in all, with no Comb of the die advancing, and
with none of its Super's (12 R309, 13 R331). -/
def Ctx.waitCounts (x : Ctx) (d k : Nat) (q : QDesc) (w : TokenWait) : Ctx :=
  (x.counts [(0x0B, d, 0, w.die), (0x0C, 8 * d + q.super, 0, w.barrier)]).combEvents k (some q) [(0xC, w.head)]

/-- The head of a die's work queue is taken out while it still waits on its token. DESIGN CHOICE (log entry 43): how long it has
waited, and at which Comb of its Super, are free values. -/
def Ctx.dropWait (x : Ctx) (id d : Nat) : Ctx :=
  match (x.die d).work with
  | [] => x
  | q :: _ =>
    if q.step = id ∧ x.tokenMet d q.step q.bytes = false then
      let n := Config.freeNat x.free
      let ks := (List.range 32).filter fun k => (superCombs x.act.superMap q.super).testBit (32 * d + k)
      let k := 32 * d + ks.getD (Config.freeNat (x.free + 1) % ks.length) 0
      let w : TokenWait := ⟨Config.freeNat (x.free + 2) % (n + 1), Config.freeNat (x.free + 3) % (n + 1), n⟩
      { x with free := x.free + 4 }.waitCounts d k q w
    else x

/-- Take a step's descriptors out of every queue of the Steward's making, and release its counters (16 R406). -/
def Ctx.purge (x : Ctx) (id : Nat) : Ctx :=
  let keep := fun (q : QDesc) => q.step != id
  let keepJ := fun (j : CopyJob) => j.step != some id
  let x := (List.range 4).foldl (fun x d => x.dropWait id d) x
  let x := (List.range 4).foldl (fun x d =>
    let v := x.die d
    let n := v.work.countP fun q => !keep q
    let v' := v.work.filter keep ++ (v.backlog.filter keep).take (1024 - (v.work.filter keep).length)
    ((x.setDie d { v with
        work := v', backlog := (v.backlog.filter keep).drop (1024 - (v.work.filter keep).length)
        tokens := v.tokens.filter fun e => e.1 / 64 != id }).queueOut d n).queueIn d (v'.length + n - v.work.length)) x
  let x := (List.range 16).foldl (fun x f =>
    let v := x.forager f
    (x.setForager f { v with queue := v.queue.filter keepJ }).queueOut (4 + f) (v.queue.countP fun j => !keepJ j)) x
  (x.onEng fun e => { e with backlog := e.backlog.filter keepJ }).refillCopies

/-! ## Copying bytes on the chip -/

/-- Copy `n` bytes from `a` to `b` as a Forager does: bad granules arrive poisoned (08 R213). The second result lists them by
offset. -/
def Ctx.copyBytes (x : Ctx) (super : Option Nat) (p : Spc) (a : Nat) (q : Spc) (b n : Nat) : Ctx × List (Nat × SrcErr) :=
  let r := x.inspect p super a n
  let x := r.1.put q super b ((r.1.store p).readN a n)
  (r.2.foldl (fun x g => x.poisonGranule q (granule (b + (g.1 - a)))) x, r.2.map fun g => (g.1 - a, g.2))

end Sys2Proof.Machine
end

