-- ==== Sys2Proof/Machine/Link.lean ====
section
/-! DEFINITION. Hivelink ports: flits, sequence and replay, virtual channels and credits, routing, training, Drizzle, violations
(10 R248 to R265, R270 to R273; 11 R286 to R288). -/
namespace Sys2Proof.Machine

def Ctx.port (x : Ctx) (p : Nat) : Port := tget .initial x.chip.fab.ports p
def Ctx.setPort (x : Ctx) (p : Nat) (v : Port) : Ctx := x.onFab fun f => { f with ports := tset .initial f.ports p v }
def Ctx.onPort (x : Ctx) (p : Nat) (f : Port → Port) : Ctx := x.setPort p (f (x.port p))

def Port.vc (v : Port) (k : Nat) : Vc := tget .empty v.vcs k
def Port.setVc (v : Port) (k : Nat) (c : Vc) : Port := { v with vcs := tset .empty v.vcs k c }

/-- Receive depths of channels 0 to 5 (10 R256). -/
def vcDepth (k : Nat) : Nat := [48, 64, 128, 128, 8, 16].getD k 0

/-- The weights of channels 0 to 3 (10 R256). -/
def vcWeight (k : Nat) : Nat := [2, 4, 1, 2].getD k 0

/-- The slots that the buffer of a channel holds on its way to a port: 64 entries, each a flit of 15 slots (01 R39). -/
def vcRoom : Nat := 64 * 15

/-! ## Flits (10 R248, R249) -/

/-- One bit into the CRC register. -/
def crcBit (r : Nat) (b : Bool) : Nat :=
  let s := r * 2 % 65536
  if (r / 32768 == 1) != b then s ^^^ 0x8BB7 else s

/-- CRC-16, polynomial 0x8BB7, initial value 0xFFFF, each byte least significant bit first. -/
def crc16 (bs : Bytes) : Nat :=
  bs.foldl (fun r b => (List.range 8).foldl (fun r k => crcBit r (b.toNat.testBit k)) r) 0xFFFF

/-- The fields of a link header. -/
structure Head where
  kind : Nat
  vc : Nat
  seq : Nat
  ackSeq : Nat
  ackValid : Bool
  nak : Bool
  credVc : Nat
  credCount : Nat
  slots : Nat
  start : Nat
  deriving DecidableEq, Repr

def Head.bytes (h : Head) : Bytes :=
  toLE 14 (h.kind + 2 ^ 4 * h.vc + 2 ^ 8 * h.seq + 2 ^ 20 * h.ackSeq + 2 ^ 32 * b2n h.ackValid + 2 ^ 33 * b2n h.nak +
    2 ^ 34 * h.credVc + 2 ^ 37 * h.credCount + 2 ^ 45 * h.slots + 2 ^ 49 * h.start)

def headOf (b : Bytes) : Head :=
  let v := field b 0 8
  ⟨bits v 0 4, bits v 4 3, bits v 8 12, bits v 20 12, bit v 32, bit v 33, bits v 34 3, bits v 37 8, bits v 45 4, bits v 49 15⟩

/-- A flit of 256 B. -/
def flitBytes (h : Head) (body : Bytes) : Bytes :=
  let b := h.bytes ++ fit 240 body
  b ++ toLE 2 (crc16 b)

/-- The header that port `v` sends: its acknowledgement, and what the flit adds. -/
def Port.head (v : Port) (kind vc seq slots start : Nat) : Head :=
  ⟨kind, vc, seq, (v.rxSeq + 4095) % 4096, v.heard, false, 0, 0, slots, start⟩

/-- Send a flit; the acknowledgement that was due is given with it. -/
def Ctx.sendFlit (x : Ctx) (p : Nat) (h : Head) (body : Bytes) : Ctx :=
  (x.emit (.flit x.c p (flitBytes h body))).onPort p fun v => { v with ackDue := false }

/-- Send an IDLE flit. -/
def Ctx.sendIdle (x : Ctx) (p : Nat) (f : Head → Head) : Ctx := x.sendFlit p (f ((x.port p).head 0 0 0 0 0)) []

/-- Queue a management flit. -/
def Ctx.sendMgmt (x : Ctx) (p kind : Nat) (body : Bytes) : Ctx :=
  x.onPort p fun v => { v with mgmtTx := v.mgmtTx ++ [(kind, body)] }

/-! ## Outcomes of WRITEs (10 R272, 08 R207) -/

/-- Which of two failures a copy reports: the first class of R207, then the lower status, then the lower offset. -/
def worse (a : Option (Nat × Nat)) (b : Nat × Nat) : Option (Nat × Nat) :=
  let key := fun s => if s ≤ 0x0401 then 0 else s
  match a with
  | none => some b
  | some a => if key b.1 < key a.1 ∨ (key b.1 = key a.1 ∧ b.2 < a.2) then some b else some a

/-- The WRITE with this tag has ended; a status other than 0 fails its copy. -/
def Ctx.writeEnded (x : Ctx) (tag status : Nat) : Ctx :=
  match x.chip.fab.outstanding.find? fun o => o.tag == tag with
  | none => x
  | some o =>
    let v := x.forager o.forager
    let x := x.onFab fun f => { f with outstanding := f.outstanding.filter fun o => o.tag != tag }
    x.setForager o.forager
      { v with unacked := v.unacked.filter (· != tag)
               failed := if status = 0 then v.failed else worse v.failed (status, o.offset)
               badGranules := if status = 0 then v.badGranules else v.badGranules + o.granules }

/-- Discard what port `p` holds to send: the WRITEs in it fail with 0x0500 (10 R261, R272). -/
def Ctx.discardTx (x : Ctx) (p : Nat) : Ctx :=
  let v := x.port p
  let tags := v.replay.flatMap (·.tags) ++ (v.vcs.flatMap fun c => c.2.tx.filterMap (·.tag))
  let vcs := (List.range 6).foldl (fun t k => tset .empty t k { tget .empty t k with tx := [] }) v.vcs
  let x := x.setPort p { v with replay := [], toReplay := 0, mgmtTx := [], vcs := vcs }
  tags.foldl (fun x t => if t < 65536 then x.writeEnded t 0x0500 else x) x

/-- Entries of the receive buffer of channel `k` in use. -/
def Port.occupied (v : Port) (k : Nat) : Nat := (v.vc k).rx.length + if k = 4 then v.mgmtRx.length else 0

/-- The receive buffers of port `p` are emptied: every entry in them is removed (13 R348). -/
def Ctx.emptyRx (x : Ctx) (p : Nat) : Ctx :=
  ((List.range 6).foldl (fun x k => x.queueOut (420 + 6 * p + k) ((x.port p).occupied k)) x).onPort p fun v =>
    { v with mgmtRx := [], vcs := [] }

/-- The port leaves its link for good: nothing it held is kept. -/
def Ctx.clearLink (x : Ctx) (p : Nat) : Ctx :=
  ((x.discardTx p).emptyRx p).onPort p fun v =>
    { v with
      fresh := true, heard := false, txSeq := 0, rxSeq := 0, sent := 0, nakSent := false, ackDue := false, helloRx := none
      syncRx := [], driz := { Drizzle.initial with allow := v.driz.allow } }

/-! ## Routes (11 R279, R286) -/

/-- The destination entry of chip `d` in the active route section. -/
def Ctx.dest (x : Ctx) (d : Nat) : Nat := imgField x.act.routes (0x100 + 4 * d) 4

/-- This chip's ID, if it has one. -/
def Ctx.chipId (x : Ctx) : Option Nat :=
  let w := chipIdWord x.act.routes
  if bit w 15 then none else some (w % 32768)

/-- The current fabric epoch. -/
def Ctx.epoch (x : Ctx) : Nat := imgField x.act.routes 0 4

/-- Ports that the entry of `d` allows. -/
def Ctx.allowed (x : Ctx) (d : Nat) : List Nat :=
  let e := x.dest d
  (List.range 18).filter fun p => e.testBit p && (decide (p < 16) || (x.port p).partnerId == some d)

/-- Allowed ports that are UP. -/
def Ctx.allowedUp (x : Ctx) (d : Nat) : List Nat := (x.allowed d).filter fun p => (x.port p).state == .up

/-- The port of a list whose channel holds the most credits, the lowest on a tie. -/
def Ctx.mostCredits (x : Ctx) (vc : Nat) (l : List Nat) : Option Nat :=
  l.foldl (fun m p => match m with
    | none => some p
    | some q => if ((x.port q).vc vc).credits < ((x.port p).vc vc).credits then some p else some q) none

/-- A message enters the virtual-channel buffer of port `p` and takes the current epoch (11 R283). -/
def Ctx.enqueue (x : Ctx) (p vc : Nat) (bytes : Bytes) (tag : Option Nat) : Ctx :=
  let b := setField bytes 6 2 (x.epoch % 65536)
  let slots := chunks (b.length / 16) 16 b
  let slots := (List.range slots.length).map fun i => (⟨i == 0, slots.getD i [], tag⟩ : Slot)
  x.onPort p fun v => v.setVc vc { v.vc vc with tx := (v.vc vc).tx ++ slots }

/-- Wake a DRIZZLE port that has a DATA flit to send (10 R264). -/
def Ctx.wakePort (x : Ctx) (p : Nat) : Ctx :=
  let v := x.port p
  if v.state = .drizzle ∧ v.driz.waking = false then
    (x.setPort p { v with driz := { v.driz with waking := true } }).sendMgmt p 2 (toLE 1 4)
  else x

/-- No message reaches chip `d`: its entry is not VALID, or it is this chip (11 R288). -/
def Ctx.noRoute (x : Ctx) (d : Nat) : Bool := !bit (x.dest d) 22 || x.chipId == some d

/-- The port that a message takes: the lowest for a ROUTED one, the one with the most credits for any other (11 R286). -/
def Ctx.portFor (x : Ctx) (m : WaitMsg) : Option Nat :=
  if m.vc = 4 then (x.allowedUp m.dst).head? else x.mostCredits m.vc (x.allowedUp m.dst)

/-- The buffer of channel `vc` on port `p` has room for a message of `n` bytes, and no earlier message waits for it (01 R32). -/
def Ctx.hasRoom (x : Ctx) (p vc n : Nat) : Bool :=
  decide (((x.port p).vc vc).tx.length + n / 16 ≤ vcRoom) &&
    !(x.chip.fab.txWait.any fun w => w.vc == vc && x.portFor w == some p)

/-- A message enters the buffer of its port, or waits for room in it. -/
def Ctx.enter (x : Ctx) (p : Nat) (m : WaitMsg) : Ctx :=
  if m.vc = 4 then x.sendMgmt p 2 m.bytes
  else if x.hasRoom p m.vc m.bytes.length then x.enqueue p m.vc m.bytes m.tag
  else x.onFab fun f => { f with txWait := f.txWait ++ [m] }

/-- Send a message: it leaves on an allowed port that is UP, waits for one, or fails (11 R286, R288). -/
def Ctx.sendMsg (x : Ctx) (m : WaitMsg) : Ctx :=
  if x.noRoute m.dst then
    match m.tag with
    | some t => if t < 65536 then x.writeEnded t 0x0501 else x
    | none => x
  else match x.portFor m with
    | some p => x.enter p m
    | none =>
      let x := (x.onFab fun f => { f with noPort := f.noPort ++ [m] }).count 0x0A 0 3 1
      (x.allowed m.dst).foldl Ctx.wakePort x

/-- The messages that wait for room choose a port again, oldest first. -/
def Ctx.offerRoom (x : Ctx) : Ctx :=
  x.chip.fab.txWait.foldl Ctx.sendMsg (x.onFab fun f => { f with txWait := [] })

/-- A port has come UP, or the routes have changed: the messages that waited for a port are offered again. -/
def Ctx.offerWaiting (x : Ctx) : Ctx :=
  let stays := fun m : WaitMsg => !x.noRoute m.dst && (x.allowedUp m.dst).isEmpty
  let go := x.chip.fab.noPort.filter fun m => !stays m
  (go.foldl Ctx.sendMsg (x.onFab fun f => { f with noPort := f.noPort.filter stays })).offerRoom

/-! ## State changes (10 R258 to R261, R270, R271, R274) -/

def linkCode : LinkState → Nat
  | .disabled => 0
  | .down => 1
  | .training => 2
  | .notReady => 3
  | .up => 4
  | .drizzle => 5
  | .fenced => 6

/-- A port that runs its link: NOT_READY, UP or DRIZZLE. -/
def LinkState.live (s : LinkState) : Bool := s == .notReady || s == .up || s == .drizzle

/-- Take a port to a state, with a reason where it departs from UP (10 R262). -/
def Port.goto (v : Port) (s : LinkState) (reason : Nat) : Port :=
  { v with state := s, reason := if v.state = .up ∨ v.state = .drizzle then reason else v.reason }

/-- A port is FENCED (10 R261, R271). -/
def Ctx.fence (x : Ctx) (p row : Nat) : Ctx :=
  if (x.port p).state.live then
    let x := ((x.onPort p fun v => { v.goto .fenced 5 with fences := (v.fences + 1) % 65536 }).clearLink p).offerRoom
    x.event 0x0903 p row
  else x

/-- A port retrains: its unacknowledged flits are kept and replayed after training (10 R261). -/
def Ctx.retrain (x : Ctx) (p reason : Nat) : Ctx :=
  if !(x.port p).state.live then x
  else
    let old := within x.now 60000000000 (tget [] (x.port p).violations 1)
    let limit := reason = 4
    let x := x.count 9 p 7 1
    let x := if limit then x.onPort p fun v => { v with violations := tset [] v.violations 1 (old ++ [x.now]) } else x
    if limit ∧ 2 ≤ old.length then x.fence p 1
    else
      (x.onPort p fun v =>
        { v.goto .training reason with
          helloSeen := false, helloRx := none, syncRx := [], nakSent := false, naks := []
          driz := { Drizzle.initial with allow := v.driz.allow }
          replay := v.replay.map fun f => { f with times := 0 } }).offerRoom.event 0x0902 p reason

/-- The counter and the window of a violation row: threshold, ns (10 R270, R273). -/
def violationRow (row : Nat) : Nat × Option (Nat × Nat) :=
  match row with
  | 1 => (4, none)
  | 2 => (9, some (64, 1000000))
  | 3 => (10, some (16, 1000000000))
  | 4 => (11, some (16, 1000000000))
  | 5 => (12, none)
  | 6 => (13, some (16, 1000000000))
  | _ => (14, none)

/-- A partner's violation: counted, and the port fenced at the row's threshold. -/
def Ctx.violation (x : Ctx) (p row : Nat) : Ctx :=
  let r := violationRow row
  let x := x.count 9 p r.1 1
  match r.2 with
  | none => x
  | some (n, w) =>
    let l := within x.now w (tget [] (x.port p).violations row) ++ [x.now]
    let x := x.onPort p fun v => { v with violations := tset [] v.violations row l }
    if n ≤ l.length then x.fence p row else x

/-- A NAK leaves at the first discard after an accepted flit (10 R254); a FENCED port and one in training send none. -/
def Ctx.nakNow (x : Ctx) (p : Nat) : Ctx :=
  let v := x.port p
  if v.nakSent || !v.state.live then x
  else ((x.sendIdle p fun h => { h with nak := true }).onPort p fun v => { v with nakSent := true }).count 9 p 5 1

/-! ## Receiving (10 R254, R257, R270) -/

/-- Slots still to come of the message at the end of `l`, none where the slots do not follow the rules of R251. -/
def toCome : Nat → List (Bool × Bytes) → Option Nat
  | n, [] => some n
  | n, (st, b) :: r =>
    if n = 0 then
      if st && decide (byteAt b 1 % 32 ≤ 16) then toCome (1 + 4 * (byteAt b 1 % 32)) r else none
    else if st then none
    else toCome (n - 1) r

/-- The slots of a channel's receive buffer. -/
def Vc.slots (c : Vc) : List Slot := c.rx.flatten

/-- Slots of the incomplete message at the end of a receive buffer. -/
def Vc.pendingSlots (c : Vc) : Nat := (toCome 0 (c.slots.map fun s => (s.start, s.bytes))).getD 0

/-- The flits of a receive buffer with the incomplete message at the end removed. -/
def Vc.dropPartial (c : Vc) : Vc :=
  let tail := ((c.slots.reverse.findIdx? (·.start)).getD 0) + 1
  if c.pendingSlots = 0 then c
  else
    let r := c.rx.reverse.foldl (fun (a : List (List Slot) × Nat) f =>
      (f.take (f.length - a.2) :: a.1, a.2 - f.length)) ([], tail)
    { c with rx := r.1 }

/-- The slots of a DATA flit. -/
def flitSlots (h : Head) (flit : Bytes) : List Slot :=
  (List.range h.slots).map fun i => ⟨h.start.testBit i, (flit.drop (14 + 16 * i)).take 16, none⟩

/-- The kinds that a port accepts in its state (10 R259). -/
def accepts (s : LinkState) (kind : Nat) : Bool :=
  match s with
  | .disabled | .down => false
  | .training | .fenced => kind == 5
  | .notReady => kind == 5 || kind == 2 || kind == 3 || kind == 0
  | .up => true
  | .drizzle => kind == 5 || kind == 2 || kind == 3 || kind == 4 || kind == 0

/-- The flits that a sequence number leaves unacknowledged: how many, none where it names a flit never sent. One that was
acknowledged before, as a replay carries it, leaves as many as there are (10 R255, R270). -/
def Port.ackLeaves (v : Port) (seq : Nat) : Option Nat :=
  let n := (v.txSeq + 4095 - seq) % 4096
  if n < v.sent then some (min n v.replay.length) else none

/-- A type byte in the body that its kind reserves (10 R263, R266, R269; 00 R4): DEDUCED (log entry 100), a malformed flit. -/
def badCode (h : Head) (flit : Bytes) : Bool :=
  let code := byteAt flit 14
  match h.kind with
  | 2 => !([1, 2, 3, 4, 5, 0x10].contains code)
  | 3 | 4 => code != 1 && code != 2
  | _ => false

/-- A header field is malformed (10 R270). -/
def Port.badHead (v : Port) (h : Head) (flit : Bytes) : Bool :=
  let body := flit.drop 14
  bitsAt flit 0 7 1 != 0 || !zeros flit 8 14 || decide (6 ≤ h.kind) || decide (6 ≤ h.credVc) ||
  (h.ackValid && (v.ackLeaves h.ackSeq).isNone) ||
  (h.kind != 1 && h.kind != 2 && h.kind != 4 && h.seq != 0) || (h.kind == 0 && h.slots != 0) ||
  (h.kind == 5 && !zeros body 12 240) || ((h.kind == 2 || h.kind == 4) && decide (h.vc < 6) && h.vc != 4) ||
  (h.kind == 1 && h.vc == 4) || decide (h.start / 2 ^ h.slots ≠ 0) ||
  ((h.kind == 2 || h.kind == 4) && (h.slots != 15 || h.start != 1)) || badCode h flit

/-- The slots of a DATA flit do not continue its channel's messages. -/
def Port.badSlots (v : Port) (h : Head) (flit : Bytes) : Bool :=
  h.kind == 1 && decide (h.vc < 6) && (h.slots == 0 ||
    (toCome (v.vc h.vc).pendingSlots ((flitSlots h flit).map fun s => (s.start, s.bytes))).isNone)

/-- Act on the acknowledgement, the NAK and the credits of a header (10 R253, R255, R257). Credits beyond the partner's depth are
a breach without an answer: not acted upon, and logged (16 R403). -/
def Ctx.actHead (x : Ctx) (p : Nat) (h : Head) : Ctx :=
  let v := x.port p
  let left := if h.ackValid then (v.ackLeaves h.ackSeq).getD v.replay.length else v.replay.length
  let replay := v.replay.drop (v.replay.length - left)
  let naks := if h.nak then within x.now 1000000 v.naks ++ [x.now] else v.naks
  let v := { v with replay := replay, toReplay := if h.nak then left else min v.toReplay left, naks := naks }
  let c := v.vc h.credVc
  let above := v.partnerDepths.getD h.credVc 0 < c.credits + h.credCount
  let x := if h.credCount = 0 then x.setPort p v
    else if above then (x.setPort p v).ras 0x0D 7 p 0 none 0 0
    else x.setPort p (v.setVc h.credVc { c with credits := c.credits + h.credCount })
  if 1024 < naks.length then x.retrain p 4 else x

/-- DRIZZLE begins once every request on the port is accepted and everything sent is acknowledged (10 R263); a DATA flit that
waits for the port wakes it (10 R264). -/
def Ctx.settleDrizzle (x : Ctx) (p : Nat) : Ctx :=
  let v := x.port p
  if v.driz.entering ∧ v.driz.asked = false ∧ v.state = .up ∧ v.replay = [] ∧ v.mgmtTx = [] then
    let x := x.setPort p { v with state := .drizzle, driz := { Drizzle.initial with allow := v.driz.allow } }
    if v.vcs.any fun c => !c.2.tx.isEmpty then x.wakePort p else x.offerRoom
  else x

/-- A sequenced flit in order is accepted. -/
def Ctx.acceptFlit (x : Ctx) (p : Nat) : Ctx :=
  ((x.onPort p fun v => { v with rxSeq := (v.rxSeq + 1) % 4096, nakSent := false, heard := true, ackDue := true }).count 9 p 1 1).charge
    4 6000000

/-- Place an accepted flit in its receive buffer; with `keep` false its content is discarded, and the entry waits only for its
credit to be returned. -/
def Ctx.placeFlit (x : Ctx) (p : Nat) (h : Head) (flit : Bytes) (keep : Bool) : Ctx :=
  let x := if h.vc < 6 then x.queueIn (420 + 6 * p + h.vc) 1 else x
  x.onPort p fun v =>
    if 6 ≤ h.vc then v
    else if keep && h.kind != 1 then { v with mgmtRx := v.mgmtRx ++ [(h.kind, (flit.drop 14).take 240)] }
    else
      let c := if keep then v.vc h.vc else (v.vc h.vc).dropPartial
      v.setVc h.vc { c with rx := c.rx ++ [if keep then flitSlots h flit else []] }

/-- An accepted unsequenced flit. -/
def Ctx.takeLoose (x : Ctx) (p : Nat) (h : Head) (flit : Bytes) (stamp : Word64) : Ctx :=
  (x.charge 4 6000000).onPort p fun v =>
    if h.kind = 5 then { v with helloRx := some ((flit.drop 14).take 240) }
    else if h.kind = 3 then { v with syncRx := v.syncRx ++ [((flit.drop 14).take 240, stamp.toNat)] }
    else v

/-- A flit is damaged: it overlaps an uncorrectable codeword, or its CRC does not match (10 R247, R249). -/
def damaged (flit : Bytes) (unc : Option Nat) : Bool :=
  unc.isSome || crc16 (flit.take 254) != field flit 254 2

/-- A flit arrives: `unc` where an uncorrectable codeword overlaps it, with how many such codewords no earlier flit has told of, and
`corrected` symbols corrected in it. -/
def Ctx.flitReceive (x : Ctx) (p : Nat) (flit : Bytes) (unc : Option Nat) (corrected : Nat) (stamp : Word64) : Ctx :=
  let v := x.port p
  let stamp := x.stampOf stamp
  if v.state = .disabled ∨ v.state = .down then x
  else
    let x := (x.count 9 p 2 corrected).count 9 p 3 (unc.getD 0)
    if damaged flit unc then (x.violation p 1).nakNow p
    else
      let h := headOf flit
      let sequenced := h.kind == 1 || h.kind == 2 || h.kind == 4
      if v.state = .fenced ∨ v.state = .training then
        if h.kind = 5 && !v.badHead h flit then x.takeLoose p h flit stamp else x.violation p 4
      else if !sequenced then
        if v.badHead h flit || !accepts v.state h.kind then x.violation p 4
        else ((x.takeLoose p h flit stamp).actHead p h).settleDrizzle p
      else if v.state = .drizzle ∧ h.kind = 1 then (((x.actHead p h).nakNow p).wakePort p).wakeEvent
      else if h.seq != v.rxSeq then (x.actHead p h).nakNow p
      else if 6 ≤ h.vc then ((x.acceptFlit p).actHead p h).violation p 3
      else if vcDepth h.vc ≤ v.occupied h.vc then (x.nakNow p).violation p 2
      else if v.badHead h flit || v.badSlots h flit || !accepts v.state h.kind then
        ((x.acceptFlit p).placeFlit p h flit false).violation p 4
      else
        let x := (((x.acceptFlit p).placeFlit p h flit true).actHead p h).settleDrizzle p
        if h.kind = 1 ∧ h.vc ≠ 1 then x.activate.wakeEvent else x

/-- What the wire to a ring port holds as flit `f` arrives there: the oldest flit on it, whole or damaged. None where no such flit
is on its way: the ring carries only what its two chips send (01 R24). -/
def State.ringTake (s : State) (c : Fin 8) (p : Nat) (f : Bytes) (bad : Bool) : Option State :=
  if p < 16 then some s
  else match tget [] s.ring (ringPos c p) with
    | [] => none
    | w :: r => if bad || w == f then some { s with ring := tset [] s.ring (ringPos c p) r } else none

def execFlitReceive (c : Fin 8) (p : Fin 18) (flit : Bytes) (uncorrectable : Option Nat) (corrected : Nat) (stamp : Word64)
    (s : State) : Res :=
  let f := fit 256 flit
  match s.ringTake c p f (damaged f uncorrectable) with
  | some t => chipNext c (·.flitReceive p f uncorrectable corrected stamp) t
  | none => .next s

/-- The acknowledgement that is due leaves in an IDLE flit (10 R254). -/
def execAckTimer (c : Fin 8) (p : Fin 18) (s : State) : Res :=
  chipNext c (fun x => onlyIf ((x.port p).ackDue && (x.port p).state.live) (·.sendIdle p id) x) s

/-- The mesh has removed the last message of a flit: its entry is free, and its credit goes back (10 R257). -/
def Ctx.creditReturn (x : Ctx) (p vc : Nat) : Ctx :=
  let v := x.port p
  let c := v.vc vc
  match c.rx.findIdx? (·.isEmpty) with
  | none => x
  | some i =>
    if !v.state.live then x
    else
      let x := (x.setPort p (v.setVc vc { c with rx := c.rx.eraseIdx i })).queueOut (420 + 6 * p + vc) 1
      x.sendIdle p fun h => { h with credVc := vc, credCount := 1 }

/-- A Lull holds back no credit of an entry that is free: IDLE flits go on (10 R269). -/
def execCreditReturn (c : Fin 8) (p : Fin 18) (vc : Fin 6) (s : State) : Res := chipNext c (·.creditReturn p vc) s

/-! ## Sending (10 R253, R255, R256, R260) -/

/-- No acknowledgement has covered the oldest flit: the sender replays from it. -/
def execReplayTimeout (c : Fin 8) (p : Fin 18) (s : State) : Res :=
  chipNext c (fun x => onlyIf ((x.port p).state.live && !(x.port p).replay.isEmpty)
    (·.onPort p fun v => { v with toReplay := v.replay.length }) x) s

/-- A DATA flit may leave: both ends report UP, and no Lull holds new flits (10 R260, R269). -/
def Ctx.dataOpen (x : Ctx) (p : Nat) : Bool :=
  let v := x.port p
  v.state == .up && v.partnerState == 4 && !v.driz.entering && !x.frozen

/-- Channel `k` has a flit and a credit. -/
def Port.ready (v : Port) (k : Nat) : Bool := !(v.vc k).tx.isEmpty && decide (0 < (v.vc k).credits)

/-- The channel that the transmitter serves next: escape first, then one of channels 0 to 3 that the arbiter may grant: it has a
grant left in the round, and none such has been refused more often. -/
def Ctx.pickVc (x : Ctx) (p : Nat) : Option (Nat × Arb) :=
  let v := x.port p
  let go := (List.range 4).filter v.ready
  let l := go.filter fun k => v.arb.mayGrant vcWeight go k
  if v.ready 5 then some (5, v.arb)
  else if l.isEmpty then none
  else
    let k := l.getD (Config.freeNat x.free % l.length) 0
    some (k, v.arb.grant vcWeight go k)

/-- Send a new sequenced flit and hold it for replay. -/
def Ctx.sendNew (x : Ctx) (p kind vc slots start : Nat) (body : Bytes) (tags : List Nat) : Ctx :=
  let v := x.port p
  let h := v.head kind vc v.txSeq slots start
  let c := v.vc vc
  let v := (v.setVc vc { c with credits := c.credits - 1 })
  let v := { v with txSeq := (v.txSeq + 1) % 4096, sent := min 4096 (v.sent + 1), replay := v.replay ++ [⟨v.txSeq, flitBytes h body, vc, 1, tags⟩] }
  ((x.setPort p v).sendFlit p h body).count 9 p 0 1

/-- Send the next DATA flit of channel `vc`: up to 15 slots. -/
def Ctx.sendData (x : Ctx) (p vc : Nat) : Ctx :=
  let c := (x.port p).vc vc
  let go := c.tx.take 15
  let start := (List.range go.length).foldl (fun n i => n + if (go[i]?.map (·.start)).getD false then 2 ^ i else 0) 0
  let x := x.onPort p fun v => v.setVc vc { c with tx := c.tx.drop 15 }
  x.sendNew p 1 vc go.length start (go.flatMap (·.bytes)) (go.filterMap (·.tag))

/-- A sent flit may be sent again in the port's state: a DATA flit only while both ends report UP (10 R259, R260). -/
def Port.mayResend (v : Port) (f : Sent) : Bool :=
  let kind := (headOf f.bytes).kind
  if kind = 1 then v.state == .up && v.partnerState == 4 else accepts v.state kind

/-- Resend the next flit of the replay: the 16th sending without acknowledgement is the last. It carries the acknowledgement of its
first sending, so one that is due stays due. -/
def Ctx.resend (x : Ctx) (p : Nat) : Ctx :=
  let v := x.port p
  let i := v.replay.length - v.toReplay
  match v.replay[i]? with
  | none => x
  | some f =>
    if v.mayResend f = false then x
    else if 16 ≤ f.times then x.retrain p 4
    else
      let v := { v with toReplay := v.toReplay - 1, replay := v.replay.set i { f with times := f.times + 1 } }
      ((x.setPort p v).emit (.flit x.c p f.bytes)).count 9 p 6 1

/-- Some channel of a port has a flit and no credit (10 R273). -/
def Port.creditWait (v : Port) : Bool :=
  ((List.range 6).any fun k => !(v.vc k).tx.isEmpty && (v.vc k).credits == 0) || (!v.mgmtTx.isEmpty && (v.vc 4).credits == 0)

/-- Send a new DATA flit where one may leave; the messages that wait for room take what it frees. -/
def Ctx.sendTurn (x : Ctx) (p : Nat) : Ctx :=
  if x.dataOpen p then
    match x.pickVc p with
    | none => x
    | some (k, arb) => ((x.bump.onPort p fun v => { v with arb := arb }).sendData p k).offerRoom
  else x

/-- A flit time: a replay first, then management where it has a credit, then the other channels. -/
def Ctx.flitTransmit (x : Ctx) (p : Nat) : Ctx :=
  let v := x.port p
  if !v.state.live then x
  else
    let x := x.count 9 p 16 (b2n v.creditWait)
    if 0 < v.toReplay then x.resend p
    else if 512 ≤ v.replay.length then x
    else match v.mgmtTx with
      | m :: r =>
        if 0 < (v.vc 4).credits ∧ accepts v.state m.1 = true then
          (x.onPort p fun v => { v with mgmtTx := r }).sendNew p m.1 4 15 1 (fit 240 m.2) []
        else x.sendTurn p
      | [] => x.sendTurn p

/-! ## HELLO and training (10 R258, R261) -/

/-- The HELLO body of port `p`. -/
def Ctx.helloBody (x : Ctx) (p : Nat) : Bytes :=
  toLE 2 (chipIdWord x.act.routes) ++ toLE 1 p ++ toLE 1 (linkCode (x.port p).state) ++
    (List.range 6).map (fun k => BitVec.ofNat 8 (vcDepth k)) ++ [1] ++ toLE 1 x.c

def Ctx.sendHello (x : Ctx) (p : Nat) : Ctx := x.sendFlit p ((x.port p).head 5 0 0 0 0) (x.helloBody p)

/-- A HELLO is due in every state but DISABLED and DOWN; in TRAINING the event itself says that the lock is reached. -/
def execHelloTimer (c : Fin 8) (p : Fin 18) (s : State) : Res :=
  chipNext c (fun x => onlyIf ((x.port p).state != .disabled && (x.port p).state != .down) (·.sendHello p) x) s

/-- A training fails: the port waits in DOWN with what it holds kept; the third failure in a row is an event. -/
def Ctx.trainFail (x : Ctx) (p : Nat) : Ctx :=
  if (x.port p).state ≠ .training then x
  else
    let x := (x.onPort p fun v =>
      { v with state := .down, trainFails := v.trainFails + 1, retryWait := true, helloRx := none }).count 9 p 8 1
    if (x.port p).trainFails = 3 then x.event 0x0904 p 3 else x

def execTrainingFail (c : Fin 8) (p : Fin 18) (s : State) : Res := chipNext c (·.trainFail p) s

/-- A HELLO body names a protocol and depths that a port accepts. -/
def helloGood (b : Bytes) : Bool :=
  byteAt b 10 == 1 && (List.range 6).all fun k => decide (4 ≤ byteAt b (4 + k))

def Ctx.helloReceive (x : Ctx) (p : Nat) : Ctx :=
  let v := x.port p
  match v.helloRx with
  | none => x
  | some b =>
    let x := x.setPort p { v with helloRx := none }
    if !helloGood b then (if v.state = .training then x.trainFail p else x.ras 0x0D 7 p 0 none 0 0)
    else
      (x.onPort p fun v =>
        { v with
          helloSeen := true, partnerState := byteAt b 3, partnerDepths := (List.range 6).map fun k => byteAt b (4 + k)
          partnerId := if bit (field b 0 2) 15 then none else some (field b 0 2 % 32768) }).offerWaiting

def execHelloReceive (c : Fin 8) (p : Fin 18) (s : State) : Res := chipNext c (·.helloReceive p) s

/-- A DOWN port starts training. -/
def Port.train (v : Port) : Port := { v with state := .training, helloSeen := false, helloRx := none, retryWait := false }

def execPartnerSignalDetect (c : Fin 8) (p : Fin 18) (s : State) : Res :=
  chipNext c (fun x => onlyIf ((x.port p).state == .down && !(x.port p).retryWait && x.chip.boot.fwRunning) (·.onPort p Port.train) x) s

def execTrainingRetryWaitExpiry (c : Fin 8) (p : Fin 18) (s : State) : Res :=
  chipNext c (fun x => onlyIf ((x.port p).state == .down && (x.port p).retryWait) (·.onPort p Port.train) x) s

/-- A port comes UP. -/
def Ctx.portUp (x : Ctx) (p : Nat) : Ctx :=
  let x := x.onPort p fun v => { v with state := .up }
  let id := match (x.port p).partnerId with | some i => i | none => 32768
  ((x.sendHello p).event 0x0901 p id).offerWaiting

/-- Training completes: after a fresh start the credits are the partner's depths; kept flits are replayed. -/
def Ctx.trainDone (x : Ctx) (p : Nat) : Ctx :=
  let v := x.port p
  if v.state ≠ .training ∨ v.helloSeen = false then x
  else
    let v := if v.fresh then (List.range 6).foldl (fun v k => v.setVc k { v.vc k with credits := v.partnerDepths.getD k 0 }) v else v
    let x := x.setPort p { v with state := .notReady, fresh := false, trainFails := 0, toReplay := v.replay.length }
    if x.chip.boot.ready then x.portUp p else x

def execTrainingComplete (c : Fin 8) (p : Fin 18) (s : State) : Res := chipNext c (·.trainDone p) s

def execLossOfSignal (c : Fin 8) (p : Fin 18) (s : State) : Res := chipNext c (·.retrain p 2) s

/-! ## Drizzle (10 R263 to R265, 02 R61) -/

/-- Take the oldest received management flit where it is a link message with this code. -/
def Ctx.takeMgmt (x : Ctx) (p kind code : Nat) : Option (Ctx × Bytes) :=
  let v := x.port p
  match v.mgmtRx with
  | (k, b) :: r =>
    if k = kind ∧ byteAt b 0 = code then
      some (x.setPort p ({ v with mgmtRx := r }.setVc 4 { v.vc 4 with rx := (v.vc 4).rx ++ [[]] }), b)
    else none
  | [] => none

/-- Run `f` on a received link message. -/
def Ctx.onMgmt (x : Ctx) (p code : Nat) (f : Ctx → Ctx) : Ctx :=
  match x.takeMgmt p 2 code with
  | none => x
  | some (y, _) => f y

def Ctx.onDriz (x : Ctx) (p : Nat) (f : Drizzle → Drizzle) : Ctx := x.onPort p fun v => { v with driz := f v.driz }

/-- A request is accepted where the setting allows it; a WAKE that crosses it takes precedence. -/
def Ctx.drizzleReq (x : Ctx) (p : Nat) : Ctx :=
  x.onMgmt p 1 fun x =>
    let v := x.port p
    if v.driz.allow ∧ v.state = .up ∧ v.driz.waking = false then
      (x.onDriz p fun d => { d with entering := true }).sendMgmt p 2 (toLE 1 2)
    else (x.onDriz p fun d => { d with entering := false, refused := d.asked }).sendMgmt p 2 (toLE 1 3)

def execDrizzleReq (c : Fin 8) (p : Fin 18) (s : State) : Res := chipNext c (·.drizzleReq p) s

/-- A request of this end's is accepted: both ends drain, unless this end has refused the partner's. -/
def Ctx.drizzleAccept (x : Ctx) (p : Nat) : Ctx :=
  x.onMgmt p 2 fun x =>
    if (x.port p).driz.asked then
      (x.onDriz p fun d => { d with asked := false, entering := !d.refused, refused := false }).settleDrizzle p
    else x

def execDrizzleAccept (c : Fin 8) (p : Fin 18) (s : State) : Res := chipNext c (·.drizzleAccept p) s

/-- A refusal, or no answer: the port stays at full rate, whatever crossed it. -/
def Ctx.drizzleRefused (x : Ctx) (p : Nat) : Ctx :=
  if (x.port p).driz.asked then
    (x.onDriz p fun d => { d with asked := false, entering := false, refused := false }).count 9 p 15 1
  else x

def execDrizzleRefuse (c : Fin 8) (p : Fin 18) (s : State) : Res := chipNext c (fun x => x.onMgmt p 3 (·.drizzleRefused p)) s

def execDrizzleAnswerTimeout (c : Fin 8) (p : Fin 18) (s : State) : Res := chipNext c (·.drizzleRefused p) s

/-- Both ends have sent FULL_RATE: the port is UP. -/
def Ctx.settleWake (x : Ctx) (p : Nat) : Ctx :=
  let v := x.port p
  if v.state = .drizzle ∧ v.driz.fullSent = true ∧ v.driz.fullSeen = true then
    (x.setPort p { v with state := .up, driz := { Drizzle.initial with allow := v.driz.allow } }).offerWaiting
  else x

/-- Restore the lanes and send FULL_RATE. -/
def Ctx.fullRateSend (x : Ctx) (p : Nat) : Ctx :=
  if (x.port p).driz.fullSent then x
  else (x.onDriz p fun d => { d with waking := true, fullSent := true, entering := false }).sendMgmt p 2 (toLE 1 5)

/-- A WAKE is answered by FULL_RATE and is a wake event (02 R60); a request of this end's own counts as refused. -/
def Ctx.wakeRow (x : Ctx) (p : Nat) : Ctx :=
  x.onMgmt p 4 fun x => (((x.drizzleRefused p).fullRateSend p).settleWake p).wakeEvent

def execWake (c : Fin 8) (p : Fin 18) (s : State) : Res := chipNext c (·.wakeRow p) s

def Ctx.fullRate (x : Ctx) (p : Nat) : Ctx :=
  x.onMgmt p 5 fun x =>
    if (x.port p).state = .drizzle then ((x.onDriz p fun d => { d with fullSeen := true }).fullRateSend p).settleWake p
    else x.onDriz p fun d => { Drizzle.initial with allow := d.allow }

def execFullRate (c : Fin 8) (p : Fin 18) (s : State) : Res := chipNext c (·.fullRate p) s

/-- The wake fails: full training, with what the port holds kept. -/
def Ctx.wakeFail (x : Ctx) (p : Nat) : Ctx :=
  let v := x.port p
  if v.state = .drizzle ∧ v.driz.waking = true then
    (x.setPort p { v.goto .training 3 with
      helloSeen := false, helloRx := none, syncRx := [], driz := { Drizzle.initial with allow := v.driz.allow } }).offerRoom
  else x

def execDrizzleWakeFail (c : Fin 8) (p : Fin 18) (s : State) : Res := chipNext c (·.wakeFail p) s

/-! ## LINK_STATE (10 R262) -/

/-- RESULT0 and RESULT1 of LINK_STATE. -/
def linkResult (v : Port) : Nat × Nat :=
  (linkCode v.state + 16 * v.reason + 256 * v.partnerState + 2 ^ 16 * v.fences +
    (match v.partnerId with | some i => 2 ^ 32 * i + 2 ^ 47 | none => 0), unsigned 32 v.offset)

def Ctx.linkDone (x : Ctx) (k : Cmd) (p status : Nat) : Ctx :=
  let r := linkResult (x.port p)
  x.done k status r.1 r.2

/-- Run a LINK_STATE of action `a`: `f` gives the port's new state of affairs, or a status that changes nothing. -/
def Ctx.linkCmd (x : Ctx) (id a : Nat) (f : Nat → Ctx → Except Nat Ctx) : Ctx :=
  x.run id 0x81 (fun k => bitsAt k.entry 29 0 4 == a) fun k x =>
    let p := bitsAt k.entry 28 0 5
    if 17 < p then x.refuse k 0x0105 0 0
    else match f p x with
      | .ok y => y.linkDone k p 0
      | .error 2 => x.linkDone k p 2
      | .error st => x.refuse k st 0 0

def execLinkStateQuery (c : Fin 8) (id : Nat) (s : State) : Res := chipNext c (·.linkCmd id 0 fun _ x => .ok x) s

def execLinkStateEnable (c : Fin 8) (id : Nat) (s : State) : Res :=
  chipNext c (·.linkCmd id 1 fun p x =>
    if (x.port p).state = .disabled then .ok (x.onPort p fun v => { v with state := .down, retryWait := false }) else .error 2) s

def execLinkStateDisable (c : Fin 8) (id : Nat) (s : State) : Res :=
  chipNext c (·.linkCmd id 2 fun p x =>
    if (x.port p).state = .disabled then .error 2
    else .ok ((x.onPort p fun v => { v with state := .disabled, reason := 1 }).clearLink p).offerRoom) s

def execLinkStateReadmit (c : Fin 8) (id : Nat) (s : State) : Res :=
  chipNext c (·.linkCmd id 3 fun p x =>
    if (x.port p).state = .fenced then .ok (x.onPort p fun v => { v.train with violations := [] }) else .error 2) s

def execLinkStateRetrain (c : Fin 8) (id : Nat) (s : State) : Res :=
  chipNext c (·.linkCmd id 4 fun p x =>
    match (x.port p).state with
    | .disabled | .down | .fenced => .error 0x0500
    | _ => .ok (x.retrain p 1)) s

def Ctx.drizzleAllow (x : Ctx) (p : Nat) (b : Bool) : Except Nat Ctx :=
  if (x.port p).driz.allow = b then .error 2 else .ok (x.onDriz p fun d => { d with allow := b })

def execLinkStateDrizzleAllow (c : Fin 8) (id : Nat) (s : State) : Res :=
  chipNext c (·.linkCmd id 5 fun p x => x.drizzleAllow p true) s

def execLinkStateDrizzleRefuse (c : Fin 8) (id : Nat) (s : State) : Res :=
  chipNext c (·.linkCmd id 6 fun p x => x.drizzleAllow p false) s

/-! ## Idle, and the way into Dormant (02 R59, 10 R263) -/

/-- Dormant entry starts: DRIZZLE_REQ on every UP port. -/
def Ctx.enterDormant (x : Ctx) : Ctx :=
  let x := x.onBoot fun b => { b with dormantEntry := true, dormantHeld := false }
  (List.range 18).foldl (fun x p =>
    let d := (x.port p).driz
    if (x.port p).state = .up ∧ d.asked = false ∧ d.entering = false then
      (x.onDriz p fun d => { d with asked := true }).sendMgmt p 2 (toLE 1 1)
    else x) x

/-- The chip enters Idle; a held request for Dormant acts (02 R59). -/
def Ctx.enterIdle (x : Ctx) : Ctx :=
  let y := x.onBoot fun b => { b with pstate := .idle }
  if x.chip.boot.dormantHeld then y.enterDormant else y

end Sys2Proof.Machine
end

