-- ==== Sys2Proof/Machine/Time.lean ====
section
/-! DEFINITION. The trace ring, the Lull freeze and release, time synchronisation and ROUTED messages
(13 R338 to R349, 10 R266 to R269, 11 R292). -/
namespace Sys2Proof.Machine

/-! ## The HBM ring of the trace (13 R340, R341) -/

def ringSize : Nat := 2097152

/-- Losses not yet told by a LOSS record. -/
def Ctx.losses (x : Ctx) : Nat := x.chip.obs.lossSrc + x.chip.obs.lossRing + x.chip.obs.lossEcc

/-- Note a loss in the ring. -/
def Ctx.ringLoss (x : Ctx) : Ctx :=
  x.onObs fun o => { o with lossTime := if x.losses = 0 then x.time else o.lossTime, lossRing := o.lossRing + 1 }

/-- The next entry of the ring is free: its earlier record has been copied or lost. -/
def Observe.ringFree (o : Observe) : Bool :=
  match o.ring with
  | [] => true
  | e :: _ => decide (o.ringNext < e.1 + ringSize)

/-- Write a record into the next entry. The first record of a granule is written over whatever the granule held (log entry 98). -/
def Ctx.ringWrite (x : Ctx) (rec : Bytes) : Ctx :=
  let n := x.chip.obs.ringNext
  let x := if n % 2 = 0 then x.overwrite .system none (ringGranule n) 64 id else x
  x.onObs fun o => { o with ring := o.ring ++ [(n, rec)], ringNext := n + 1 }

/-- A record enters the HBM ring; a full ring drops it, or with WRAP loses its oldest record. -/
def Ctx.ringPut (x : Ctx) (rec : Bytes) : Ctx :=
  if x.chip.obs.ringFree then x.ringWrite rec
  else if x.chip.obs.wrap then ((x.ringLoss.onObs fun o => { o with ring := o.ring.drop 1 }).ringWrite rec).count 0x0A 0 16 1
  else x.ringLoss.count 0x0A 0 15 1

/-- After a loss, one LOSS record at the first free entry tells it, and TRACE_LOSS is posted. -/
def Ctx.tellLoss (x : Ctx) : Ctx :=
  let o := x.chip.obs
  let n := x.losses
  if n = 0 ∨ o.ringFree = false then x
  else
    let ring := min o.lossRing (2 ^ 32 - 1)
    let ecc := min o.lossEcc (2 ^ 32 - 1)
    let rec' := traceBytes 7 0xFF 0 0 0 o.lossSrc o.lossTime (ring + 2 ^ 32 * ecc)
    ((x.ringWrite rec').onObs fun o => { o with lossSrc := 0, lossRing := 0, lossEcc := 0 }).event 0x0C03 0 n

/-- The trace unit takes one record of source `k`. -/
def Ctx.takeSource (x : Ctx) (k : Nat) : Ctx :=
  match tget [] x.chip.obs.sources k with
  | [] => x
  | r :: l => ((x.onObs fun o => { o with sources := tset [] o.sources k l }).ringPut r).tellLoss

/-- The trace unit takes one record of some source that has one, if any; a Lull stops it. -/
def Ctx.traceCycle (x : Ctx) : Ctx :=
  let l := x.chip.obs.sources
  if x.frozen then x
  else match l[Config.freeNat x.free % l.length]? with
    | none => x.tellLoss
    | some e => x.bump.takeSource e.1

/-- The trace unit takes every record that the sources hold. -/
def Ctx.traceDrain (x : Ctx) : Ctx :=
  x.chip.obs.sources.foldl (fun x e => e.2.foldl (fun x _ => x.takeSource e.1) x) x

/-- A LULL record of the trace unit: 1 cut, 2 release (13 R338). -/
def Ctx.traceLull (x : Ctx) (what id t : Nat) : Ctx := x.ringPut (traceBytes 8 0xFF 0 0 what id x.time t)

/-! ## The Lull section (13 R343) -/

def lullArmed (m : Mem) : Bool := (imgByte m 0).toNat.testBit 0
def lullCoord (m : Mem) : Bool := (imgByte m 0).toNat.testBit 1
def lullId (m : Mem) : Nat := imgField m 4 4
def lullT (m : Mem) : Nat := imgField m 8 8
def lullRelease (m : Mem) : Nat := imgField m 16 8
def lullCutPtr (m : Mem) : Nat := imgField m 24 8

/-- The section takes effect: ARMED or DISARMED (13 R344). -/
def Ctx.armLull (x : Ctx) : Ctx :=
  if x.frozen then x
  else x.onObs fun o =>
    { o with lull := if lullArmed x.act.lull then .armed else .disarmed, late := false, unsynced := false, cutWritten := false }

/-! ## Freeze (13 R345, 10 R269) -/

/-- A port's report at the cut: oldest unacknowledged, last sent, last accepted, credits. -/
def Port.report (v : Port) : Nat × Nat × Nat × List Nat :=
  let last := (v.txSeq + 4095) % 4096
  ((match v.replay with | f :: _ => f.seq | [] => v.txSeq), last, (v.rxSeq + 4095) % 4096, (List.range 6).map fun k => (v.vc k).credits)

/-- The CUT body. -/
def cutBody (t : Nat) (r : Nat × Nat × Nat × List Nat) : Bytes :=
  [1] ++ toLE 7 0 ++ toLE 8 t ++ toLE 2 r.1 ++ toLE 2 r.2.1 ++ toLE 2 r.2.2.1 ++ toLE 2 0 ++ r.2.2.2.flatMap (toLE 2)

/-- A port that takes part in the cut. -/
def LinkState.linked (s : LinkState) : Bool := s == .up || s == .drizzle

def Ctx.cutPort (x : Ctx) (t p : Nat) : Ctx :=
  let v := { x.port p with cutState := linkCode (x.port p).state }
  if v.state.linked then (x.setPort p { v with ownCut := some v.report }).sendMgmt p 4 (cutBody t v.report)
  else x.setPort p v

/-- The chip freezes: counters are held, ports report their cut. -/
def Ctx.freeze (x : Ctx) : Ctx :=
  let m := x.act.lull
  let x := x.traceLull 1 (lullId m) (lullT m)
  let x := (((List.range 18).foldl (fun x p => x.cutPort (lullT m) p) x).endGust).onQuiet fun w => { w with lull := true }
  x.onObs fun o =>
    { o with
      lull := .frozen, freezeTime := x.time, releaseAt := lullRelease m, unsynced := x.chip.fab.syncLost, cutWritten := false
      wasDormant := x.chip.boot.pstate == .dormant }

/-- Local fabric time has reached T. -/
def Ctx.lullFreeze (x : Ctx) : Ctx :=
  if x.chip.obs.lull = .armed ∧ lullT x.act.lull ≤ x.time then x.freeze else x

def execLullFreeze (c : Fin 8) (s : State) : Res := chipNext c Ctx.lullFreeze s

/-- A partner's CUT has not come within 100 µs. -/
def Ctx.cutTimeout (x : Ctx) (p : Nat) : Ctx :=
  let v := x.port p
  if x.frozen ∧ v.ownCut.isSome ∧ v.partnerCut = none then x.setPort p { v with cutMissing := true } else x

def execCutPartnerTimeout (c : Fin 8) (p : Fin 18) (s : State) : Res := chipNext c (·.cutTimeout p) s

/-- A LULL flit: CUT is recorded for the cut. -/
def Ctx.lullFlit (x : Ctx) (p : Nat) : Ctx :=
  match x.takeMgmt p 4 1, x.takeMgmt p 4 2 with
  | some (y, b), _ => y.onPort p fun v => { v with partnerCut := some b }
  | none, some (y, _) => y
  | none, none => x

def execLullFlitReceive (c : Fin 8) (p : Fin 18) (s : State) : Res := chipNext c (·.lullFlit p) s

/-! ## Release (13 R347, R349) -/

/-- Add what the chip held during the Lull to its counters. -/
def Ctx.addPending (x : Ctx) : Ctx :=
  x.onObs fun o =>
    { o with
      counters := (o.pending.filter fun e => e.1 / 2 ^ 24 != 0x13).foldl
        (fun t e => tupd 0 t e.1 fun v => (v + e.2) % 2 ^ ctrWidth (e.1 / 2 ^ 24)) o.counters
      queueIo := (o.pending.filter fun e => e.1 / 2 ^ 24 == 0x13).foldl
        (fun t e => tupd 0 t (e.1 % 2 ^ 24) fun v => (v + e.2) % 2 ^ 48) o.queueIo
      pending := [] }

/-- RELEASE_AT to every VALID destination, as a ROUTED message (11 R286, R292). -/
def Ctx.sendReleaseAt (x : Ctx) (id at' : Nat) : Ctx :=
  match x.chipId with
  | none => x
  | some me =>
    let valid := x.act.routes.filter fun e => decide (0x100 ≤ e.1 ∧ e.1 < 0x20100 ∧ e.1 % 4 = 2) && e.2.toNat.testBit 6
    (valid.map fun e => (e.1 - 0x100) / 4).foldl (fun x d =>
      x.sendMsg ⟨[0x10, 0] ++ toLE 2 me ++ toLE 2 d ++ [1, 0, 1] ++ toLE 3 0 ++ toLE 4 id ++ toLE 8 at', d, 4, none⟩) x

/-- The time that the Lull held is left out of the previous epoch's window (10 R270, 13 R346). -/
def Ctx.shiftEpoch (x : Ctx) : Ctx :=
  x.onConfig fun g => { g with prevEpoch := g.prevEpoch.map fun e => (e.1, e.2 + (x.time - max x.chip.obs.freezeTime e.2)) }

/-- Every unit resumes. -/
def Ctx.release (x : Ctx) : Ctx :=
  let m := x.act.lull
  let x := (x.shiftEpoch.onObs fun o => { o with lull := .disarmed }).addPending
  let x := x.traceLull 2 (lullId m) (lullT m)
  let x := (List.range 18).foldl (fun x p =>
    let x := if (x.port p).state.linked then x.sendMgmt p 4 ([2] ++ toLE 7 0 ++ toLE 8 (lullT m)) else x
    x.onPort p fun v => { v with partnerCut := none, cutMissing := false, ownCut := none }) x
  let x := if lullCoord m then x.sendReleaseAt (lullId m) (x.time + 200000) else x
  ((x.count 0x0A 0 13 1).event 0x0C02 0 (lullId m)).flush.sendPending

def Ctx.lullRelease (x : Ctx) : Ctx := if x.frozen && decide (x.chip.obs.releaseAt ≤ x.time) then x.release else x


/-! ## ROUTED messages (11 R292, 13 R349) -/

/-- A chip is authorised to send ROUTED messages: an entry in use names its ID. -/
def Ctx.authorised (x : Ctx) (src : Nat) : Bool :=
  decide (src < 32768) && (List.range 8).any fun j => imgField x.act.routes (0x20 + 2 * j) 2 == src

/-- A RELEASE_AT that is not acted upon is counted (13 R349). -/
def Ctx.rejectRelease (x : Ctx) (b : Bytes) : Ctx :=
  if byteAt b 6 = 1 ∧ byteAt b 8 = 1 then x.count 0x0A 0 14 1 else x

def Ctx.routed (x : Ctx) (p : Nat) : Ctx :=
  match x.takeMgmt p 2 0x10 with
  | none => x
  | some (x, b) =>
    if x.chipId.isNone || !x.authorised (field b 2 2) then (x.rejectRelease b).violation p 6
    else if byteAt b 6 ≠ 1 then x.violation p 4
    else if byteAt b 8 = 1 ∧ x.frozen = true ∧ field b 12 4 = lullId x.act.lull ∧ field b 16 8 < Machine.lullRelease x.act.lull then
      x.onObs fun o => { o with releaseAt := field b 16 8 }
    else x.count 0x0A 0 14 1

def execRouted (c : Fin 8) (p : Fin 18) (s : State) : Res := chipNext c (·.routed p) s

/-! ## Time synchronisation (10 R266, R267) -/

/-- Send a REQUEST; `t1` is the stamp as it leaves. -/
def execSyncTimer (c : Fin 8) (p : Fin 18) (t1 : Word64) (s : State) : Res :=
  chipNext c (fun x => onlyIf (x.port p).state.live
    (fun x => x.sendFlit p ((x.port p).head 3 0 0 0 0) ([1] ++ toLE 7 0 ++ toLE 8 (x.stampOf t1).toNat)) x) s

/-- Take the oldest received SYNC exchange where it is of this type. -/
def Ctx.takeSync (x : Ctx) (p type : Nat) : Option (Ctx × Bytes × Nat) :=
  let v := x.port p
  match v.syncRx with
  | (b, t) :: r => if byteAt b 0 = type then some (x.setPort p { v with syncRx := r }, b, t) else none
  | [] => none

/-- Answer a REQUEST, stamped on arrival and as the answer leaves. -/
def Ctx.syncRequest (x : Ctx) (p : Nat) (t3 : Word64) : Ctx :=
  match x.takeSync p 1 with
  | none => x
  | some (x, b, t2) =>
    onlyIf (x.port p).state.live
      (fun x => x.sendFlit p ((x.port p).head 3 0 0 0 0)
        ([2] ++ toLE 7 0 ++ toLE 8 (field b 8 8) ++ toLE 8 t2 ++ toLE 8 (x.stampOf t3).toNat)) x

def execSyncRequestReceive (c : Fin 8) (p : Fin 18) (t3 : Word64) (s : State) : Res := chipNext c (·.syncRequest p t3) s

/-- The median of a short list; of an even number, either middle value: the spec does not say which. -/
def median (l : List Int) (free : Nat) : Int :=
  let s := sortBy (fun a b => decide (a ≤ b)) l
  s.getD ((l.length - 1) / 2 + if l.length % 2 = 0 then Config.freeNat free % 2 else 0) 0

/-- The chip is in Dormant and no wake event has come. -/
def Ctx.asleep (x : Ctx) : Bool := x.chip.boot.pstate == .dormant && !x.chip.boot.waking

/-- Move the time base by `n` ns; in Dormant the nanoseconds that pass are counted (13 R335). -/
def Ctx.moveTime (x : Ctx) (n : Int) : Ctx :=
  let x := x.onFab fun f => { f with time := f.time + BitVec.ofInt 64 n }
  if x.asleep then x.count 0x0A 0 11 n.toNat else x

/-- A step past an armed T freezes the chip late (13 R344). -/
def Ctx.stepTime (x : Ctx) (n : Int) : Ctx :=
  let old := x.time
  let y := x.moveTime n
  let t := lullT x.act.lull
  if x.chip.obs.lull = .armed ∧ old < t ∧ t < y.time then (y.onObs fun o => { o with late := true }).freeze else y

/-- The time-sync parent port of the active route section; none on the root. -/
def Ctx.syncParent (x : Ctx) : Option Nat :=
  let p := (imgByte x.act.routes 0x12).toNat
  if 17 < p ∨ bit (imgByte x.act.routes 0x13).toNat 0 = true then none else some p

/-- An exchange on the parent port is an outlier. -/
def Ctx.outlier (x : Ctx) (v : Port) (off delay : Int) : Bool :=
  (match v.delays.min? with | some m => decide (m + 8 < delay) | none => false) ||
    (x.chip.fab.synced && !v.offsets.isEmpty && decide (50 < (off - median v.offsets x.free).natAbs))

/-- An accepted exchange on the parent port steps or slews the time base: a slew moves it by no more than 200 ppm of the time since
the last exchange. -/
def Ctx.steer (x : Ctx) (p : Nat) (off delay : Int) : Ctx :=
  let v := x.port p
  let offsets := (v.offsets ++ [off]).drop (v.offsets.length - 7)
  let est := median offsets x.free
  let step := !x.chip.fab.synced || x.chip.fab.syncLost || decide (1000 < est.natAbs)
  let x := x.setPort p
    { v with outliers := 0, offset := off, delays := (v.delays ++ [delay]).drop (v.delays.length - 63)
             offsets := if step then [] else offsets }
  let x := x.onFab fun f => { f with synced := true, syncLost := false, parentOffset := off }
  if step then x.bump.stepTime est
  else
    let most := min est.natAbs (if v.state = .drizzle then 200 else 2)
    let n : Int := (Config.freeNat (x.free + 1) % (most + 1) : Nat)
    x.bump.bump.moveTime (if est < 0 then -n else n)

def Ctx.syncResponse (x : Ctx) (p : Nat) : Ctx :=
  match x.takeSync p 2 with
  | none => x
  | some (x, b, t4) =>
    let t1 : Int := field b 8 8
    let t2 : Int := field b 16 8
    let t3 : Int := field b 24 8
    let off := ((t2 - t1) - (t4 - t3)) / 2
    let delay := ((t2 - t1) + (t4 - t3)) / 2
    if x.syncParent ≠ some p then x.onPort p fun v => { v with offset := off }
    else if x.outlier (x.port p) off delay then (x.bump.violation p 7).onPort p fun v => { v with outliers := v.outliers + 1 }
    else x.bump.steer p off delay

def execSyncResponseReceive (c : Fin 8) (p : Fin 18) (s : State) : Res := chipNext c (·.syncResponse p) s

/-- The parent is lost: the chip runs free. -/
def Ctx.loseSync (x : Ctx) : Ctx :=
  match x.syncParent with
  | none => x
  | some p =>
    if x.chip.fab.syncLost then x
    else
      ((x.onFab fun f => { f with syncLost := true, synced := false }).onPort p fun v => { v with outliers := 0 }).event 0x0905 p
        (unsigned 64 (x.port p).offset)

def execSyncLost (c : Fin 8) (s : State) : Res := chipNext c Ctx.loseSync s

end Sys2Proof.Machine
end

