-- ==== Sys2Proof/Machine/Fabric.lean ====
section
/-! DEFINITION. Messages of the fabric: WRITE, WRITE_RESP, COLLECTIVE, the escape channel, epochs (10 R251, R252, R270, R272;
11 R283, R287 to R290). -/
namespace Sys2Proof.Machine

/-! ## Messages in a receive buffer -/

/-- Remove `n` slots from the front of a receive buffer. -/
def takeSlots : Nat → List (List Slot) → List (List Slot)
  | 0, l => l
  | _, [] => []
  | n, f :: r => f.drop n :: takeSlots (n - f.length) r

/-- Take the oldest complete message of channel `vc` (10 R251). -/
def Ctx.takeMsg (x : Ctx) (p vc : Nat) : Option (Ctx × Bytes) :=
  let v := x.port p
  let c := v.vc vc
  match c.slots with
  | [] => none
  | s :: r =>
    let n := 2 + 4 * (byteAt s.bytes 1 % 32)
    if (s :: r).length < n then none
    else some (x.setPort p (v.setVc vc { c with rx := takeSlots n c.rx }), ((s :: r).take n).flatMap (·.bytes))

def mOp (b : Bytes) : Nat := bitsAt b 0 0 5
def mLen (b : Bytes) : Nat := bitsAt b 1 0 5
def mSrc (b : Bytes) : Nat := field b 4 2 % 32768
def mEpoch (b : Bytes) : Nat := field b 6 2
def mSuper (b : Bytes) : Nat := bitsAt b 8 0 3
def mPoison (b : Bytes) : Nat := field b 10 2
def mTag (b : Bytes) : Nat := field b 12 2
def mStatus (b : Bytes) : Nat := field b 14 2
def mAddr (b : Bytes) : Nat := field b 16 8
def mAux0 (b : Bytes) : Nat := field b 24 4
def mAux1 (b : Bytes) : Nat := field b 28 4
def mData (b : Bytes) : Bytes := b.drop 32

/-- A message header that breaks R251 or R252, or a message on a channel that does not carry it. -/
def msgBad (vc : Nat) (b : Bytes) : Bool :=
  let op := mOp b
  decide (op = 0 ∨ 4 < op) || bitsAt b 0 5 3 != 0 || bitsAt b 1 5 3 != 0 || decide (16 < mLen b) ||
  bitsAt b 3 7 1 != 0 || bitsAt b 5 7 1 != 0 || bitsAt b 8 3 5 != 0 || byteAt b 9 != 0 || decide (mPoison b / 2 ^ mLen b ≠ 0) ||
  (op != 2 && mStatus b != 0) || (op == 2 && mLen b != 0) ||
  (op != 4 && (mAux0 b != 0 || mAux1 b != 0)) ||
  ((op == 1 || op == 4) && decide (mAddr b / 2 ^ 48 ≠ 0)) || (op == 3 && decide (mAddr b / 2 ^ 60 ≠ 0)) ||
  (match op with
   | 1 => vc != 0 && vc != 2 && vc != 5
   | 2 => vc != 1
   | _ => vc != 3 && vc != 5)

/-- The epoch of a message is the current one, or the one before it during its 100 µs (10 R270). -/
def Ctx.freshEpoch (x : Ctx) (b : Bytes) : Bool :=
  mEpoch b == x.epoch % 65536 ||
    match x.chip.config.prevEpoch with
    | some (e, t) => mEpoch b == e % 65536 && decide (x.time < t + 100000)
    | none => false

/-- Run `f` on the head message of a channel where it is of this OP; a malformed one is dropped, a stale one goes to `stale`. -/
def Ctx.onMsg (x : Ctx) (p vc op : Nat) (stale : Ctx → Bytes → Ctx) (f : Ctx → Bytes → Ctx) : Ctx :=
  if x.frozen then x
  else match x.takeMsg p vc with
    | none => x
    | some (y, b) =>
      if msgBad vc b then y.violation p 4
      else if mOp b ≠ op then x
      else if y.freshEpoch b then f y b else stale (y.violation p 5) b

/-- A message header of 32 B; the epoch is set as it enters a buffer. -/
def msgHead (op len dst src super poison tag status addr aux0 aux1 : Nat) : Bytes :=
  toLE 1 op ++ toLE 1 len ++ toLE 2 dst ++ toLE 2 src ++ toLE 2 0 ++ toLE 1 super ++ toLE 1 0 ++ toLE 2 poison ++ toLE 2 tag ++
    toLE 2 status ++ toLE 8 addr ++ toLE 4 aux0 ++ toLE 4 aux1

/-- Write the granules of a message to HBM, poisoned ones as poisoned (10 R252). -/
def Ctx.putMsg (x : Ctx) (super a : Nat) (b : Bytes) : Ctx :=
  let x := x.put .hbm (some super) a ((mData b).take (64 * mLen b))
  (List.range (mLen b)).foldl (fun x g => if bit (mPoison b) g then x.poisonGranule .hbm (a + 64 * g) else x) x

/-- A range lies in the general area of a defined Super. -/
def inGeneral (m : Mem) (super off n : Nat) : Bool := superDefined m super && decide (off + n ≤ generalBytes m super)

/-! ## WRITE and WRITE_RESP (10 R272, 11 R289) -/

/-- Answer a WRITE. -/
def Ctx.respond (x : Ctx) (b : Bytes) (status : Nat) : Ctx :=
  x.sendMsg ⟨msgHead 2 0 (mSrc b) (x.chipId.getD 0) (mSuper b) 0 (mTag b) status 0 0 0, mSrc b, 1, none⟩

def Ctx.writeReceive (x : Ctx) (p vc : Nat) : Ctx :=
  x.onMsg p vc 1 (fun x b => x.respond b 0x0503) fun x b =>
    let m := x.act.superMap
    if inGeneral m (mSuper b) (mAddr b) (64 * mLen b) then
      (x.putMsg (mSuper b) (sliceBase m (mSuper b) + mAddr b) b).respond b 0
    else x.respond b 0x0504

def execWriteReceive (c : Fin 8) (p : Fin 18) (vc : Fin 6) (s : State) : Res := chipNext c (·.writeReceive p vc) s

def Ctx.writeRespReceive (x : Ctx) (p : Nat) : Ctx :=
  x.onMsg p 1 2 (fun x _ => x) fun x b =>
    x.writeEnded (mTag b) (if mStatus b = 0 then 0 else if mStatus b = 0x0503 then 0x0503 else 0x0504)

def execWriteRespReceive (c : Fin 8) (p : Fin 18) (s : State) : Res := chipNext c (·.writeRespReceive p) s

/-- No answer within 1 ms of sending; a Lull's time is not counted (13 R346). -/
def execWriteRespTimeout (c : Fin 8) (tag : Nat) (s : State) : Res :=
  chipNext c (fun x => onlyIf (!x.frozen) (·.writeEnded tag 0x0502) x) s

/-! ## COLLECTIVE (11 R290) -/

def Ctx.collectiveOk (x : Ctx) (b : Bytes) : Bool :=
  let r := x.act.routes
  let g := bits (mAddr b) 48 6
  let rank := bits (mAddr b) 54 6
  groupOf r g (mSuper b) && groupMember r g rank == mSrc b &&
    inGeneral x.act.superMap (mSuper b) (mAddr b % 2 ^ 48) (64 * mLen b)

def Ctx.collective (x : Ctx) (p vc : Nat) : Ctx :=
  x.onMsg p vc 3 (fun x _ => x) fun x b =>
    if x.collectiveOk b then
      let x := x.putMsg (mSuper b) (sliceBase x.act.superMap (mSuper b) + mAddr b % 2 ^ 48) b
      let key := bits (mAddr b) 48 6 * 64 + bits (mAddr b) 54 6
      x.onFab fun f => { f with arrived := tupd 0 f.arrived key (· + BitVec.ofNat 32 (mLen b)) }
    else x.count 0x0A 0 2 1

def execCollectiveReceive (c : Fin 8) (p : Fin 18) (vc : Fin 6) (s : State) : Res := chipNext c (·.collective p vc) s

/-! ## Escape channel and waiting messages (11 R287, R288) -/

/-- The head message of channel `vc` on port `p`, not yet begun, moves whole to the escape channel. -/
def Ctx.escape (x : Ctx) (p vc : Nat) : Ctx :=
  let c := (x.port p).vc vc
  match c.tx with
  | [] => x
  | s :: r =>
    let n := 2 + 4 * (byteAt s.bytes 1 % 32)
    let d := field s.bytes 2 2 % 32768
    let q := bits (x.dest d) 18 4
    if x.frozen || !s.start || !(vc == 0 || vc == 2 || vc == 3) || x.dest d % 65536 == 0 || (x.port q).state != .up ||
        (x.allowedUp d).any (fun a => decide (0 < ((x.port a).vc vc).credits)) || vcRoom < ((x.port q).vc 5).tx.length + n then x
    else
      let x := x.onPort p fun v => v.setVc vc { c with tx := (s :: r).drop n }
      ((x.onPort q fun v => v.setVc 5 { v.vc 5 with tx := (v.vc 5).tx ++ (s :: r).take n }).count 0x0A 0 1 1).offerRoom

def execEscapeTimeout (c : Fin 8) (p : Fin 18) (vc : Fin 6) (s : State) : Res := chipNext c (·.escape p vc) s

/-- The oldest waiting message has waited 1 ms. -/
def Ctx.noPortTimeout (x : Ctx) : Ctx :=
  match x.chip.fab.noPort with
  | [] => x
  | m :: r =>
    if x.frozen then x
    else
      let x := x.onFab fun f => { f with noPort := r }
      match m.tag with
      | some t => if t < 65536 then x.writeEnded t 0x0500 else x
      | none => x

def execNoPortTimeout (c : Fin 8) (s : State) : Res := chipNext c Ctx.noPortTimeout s

/-! ## Epochs (11 R283, R284) -/

/-- A route section takes effect whole. -/
def Ctx.takeRoutes (x : Ctx) (m : Mem) : Ctx :=
  let old := x.epoch
  let x := x.onConfig fun g => { g with active := { g.active with routes := m }, prevEpoch := some (old, x.time) }
  ((x.onFab fun f => { f with arrived := [] }).event 0x0A01 0 (imgField m 0 4)).offerWaiting

/-- The oldest pending section whose EPOCH_TIME has come. -/
def Ctx.routeEpoch (x : Ctx) : Ctx :=
  match x.chip.config.pendingRoutes.findIdx? fun m => decide (imgField m 8 8 ≤ x.time) with
  | none => x
  | some i =>
    match x.chip.config.pendingRoutes[i]? with
    | none => x
    | some m => (x.onConfig fun g => { g with pendingRoutes := g.pendingRoutes.eraseIdx i }).takeRoutes m

def execRouteEpochTakeEffect (c : Fin 8) (s : State) : Res := chipNext c Ctx.routeEpoch s

end Sys2Proof.Machine
end

