-- ==== Sys2Proof/Machine/Reals.lean ====
section
/-! DEFINITION. The shipped functions, EXPDIFF and the two seeds: results for special operands (06 R173), and for every other
operand a value that only the error bounds limit (07 R177, R183, R187). The exact function values are computed in fixed point with
512 fractional bits. -/
namespace Sys2Proof.Machine

/-! ## Fixed point: a natural number of units of 2^-512 -/

/-- One, in units of 2^-512. -/
def unit : Nat := 2 ^ 512

/-- The natural logarithm of 2. -/
def ln2Fix : Nat :=
  0xb17217f7d1cf79abc9e3b39803f2f6af40f343267298b62d8a0d175b8baafa2be7b876206debac98559552fb4afa1b10ed2eae35c138214427573b291169b825

/-- The square root of 2 ÷ π. -/
def sqrt2PiFix : Nat :=
  0xcc42299ea1b284687e59e2805d5c717fa7053e60a24e0db1808e369004c73a5d3bf158aa88fa7b6e47eba75766e9d11bd6284ef2e17c2a264f1d32688be119ff

/-- π in units of 2^-1024. -/
def piFix1024 : Nat :=
  0x3243f6a8885a308d313198a2e03707344a4093822299f31d0082efa98ec4e6c89452821e638d01377be5466cf34e90c6cc0ac29b7c97c50dd3f84d5b5b54709179216d5d98979fb1bd1310ba698dfb5ac2ffd72dbd01adfb7b8e1afed6a267e96ba7c9045f12c7f9924a19947b3916cf70801f2e2858efc16636920d871574e69

/-- 2 ÷ π in 256 bits, in units of 2^-256 (07 R177, RR_TRIG). -/
def twoOverPi256 : Nat := 0xa2f9836e4e441529fc2757d1f534ddc0db6295993c439041fe5163abdebbc561

/-- log2(e) in units of 2^-128. -/
def log2e128 : Nat := 0x171547652b82fe1777d0ffda0d23a7d11

/-- m × 2^e in units of 2^-512. -/
def toFix (m : Nat) (e : Int) : Nat := if 0 ≤ e + 512 then m * 2 ^ (e + 512).toNat else m / 2 ^ (-(e + 512)).toNat

/-- The integer square root by its bits, from bit `n - 1` down. -/
def isqrtFrom (v : Nat) : Nat → Nat → Nat
  | 0, r => r
  | n + 1, r => isqrtFrom v n (if (r + 2 ^ n) * (r + 2 ^ n) ≤ v then r + 2 ^ n else r)

def isqrt (v : Nat) : Nat := isqrtFrom v (v.log2 / 2 + 1) 0

/-- The terms r^k ÷ k! from `t`, the term of `k`. -/
def expTerms (r : Nat) : Nat → Nat → Nat → Nat
  | 0, _, _ => 0
  | n + 1, k, t => t + expTerms r n (k + 1) (t * r / unit / (k + 1))

/-- e^t for t from 0. -/
def expPos (t : Nat) : Nat := expTerms (t % ln2Fix) 120 0 unit * 2 ^ (t / ln2Fix)

/-- e^±t; beyond 400 the value is out of every range that is used. -/
def expSigned (neg : Bool) (t : Nat) : Nat :=
  if neg then (if 400 * unit ≤ t then 0 else unit * unit / expPos t) else expPos (min t (400 * unit))

/-- The terms z^(2k+1) ÷ (2k+1) from `p`, the power at `k`. -/
def atanhTerms (z : Nat) : Nat → Nat → Nat → Nat
  | 0, _, _ => 0
  | n + 1, k, p => p / (2 * k + 1) + atanhTerms z n (k + 1) (p * z / unit * z / unit)

/-- The natural logarithm of m × 2^e, m not 0. -/
def logFix (m : Nat) (e : Int) : Int :=
  let f := toFix m (-(m.log2 : Int))
  let z := (f - unit) * unit / (f + unit)
  2 * (atanhTerms z 170 0 z : Int) + ((m.log2 : Int) + e) * (ln2Fix : Int)

/-- The terms of a sine or cosine series from `t`, the term of degree `k`. -/
def sinTerms (r : Int) : Nat → Nat → Int → Int
  | 0, _, _ => 0
  | n + 1, k, t => t + sinTerms r n (k + 2) (-(t * r / (unit : Int) * r / (unit : Int)) / (((k + 1) * (k + 2) : Nat) : Int))

/-- |x| = m × 2^e as q × π/2 + r: q, and r in units of 2^-512. -/
def reduceTrig (m : Nat) (e : Int) : Nat × Int :=
  let x := m * 2 ^ (e + 1024).toNat
  let h := piFix1024 / 2
  let q := (2 * x + h) / (2 * h)
  (q, ((x : Int) - (q * h : Nat)) / 2 ^ 512)

/-- The sine of q × π/2 + r. -/
def sinQuad (q : Nat) (r : Int) : Int :=
  let s := sinTerms r 80 1 r
  let c := sinTerms r 80 0 (unit : Int)
  match q % 4 with
  | 0 => s
  | 1 => c
  | 2 => -s
  | _ => -c

/-- The terms x^(2k+1) ÷ (2k+1)!! from `t`, the term of `k`. -/
def erfTerms (x : Nat) : Nat → Nat → Nat → Nat
  | 0, _, _ => 0
  | n + 1, k, t => if t = 0 then 0 else t + erfTerms x n (k + 1) (t * x / unit * x / unit / (2 * k + 3))

/-- Φ(±x), the standard normal distribution function. -/
def phiFix (neg : Bool) (x : Nat) : Nat :=
  if 20 * unit ≤ x then (if neg then 0 else unit)
  else
    let h := sqrt2PiFix * expSigned true (x * x / unit / 2) / unit * erfTerms x 8000 0 x / unit / 2
    if neg then unit / 2 - h else unit / 2 + h

/-! ## The exact values of the shipped functions -/

/-- The value of shipped function `slot` at ±m × 2^e, not 0: its sign and its magnitude in units of 2^-512; none outside the
domain (07 R182). -/
def realOf (slot : Nat) (neg : Bool) (m : Nat) (e : Int) : Option (Bool × Nat) :=
  let a := toFix m e
  let sig := fun (neg : Bool) => unit * unit / (unit + expSigned (!neg) a)
  match slot with
  | 0 => some (neg, 2 ^ (512 - e).toNat / m)
  | 1 => if neg then none else some (false, isqrt (2 ^ (1024 - e).toNat / m))
  | 2 => if neg then none else some (false, isqrt (m * 2 ^ (1024 + e).toNat))
  | 3 => some (false, expSigned neg a)
  | 4 => some (false, expSigned neg (min a (500 * unit) * ln2Fix / unit))
  | 5 => if neg then none else let v := logFix m e; some (decide (v < 0), v.natAbs)
  | 6 => let t := expSigned true (2 * a); some (neg, (unit - t) * unit / (unit + t))
  | 7 => some (false, sig neg)
  | 8 => some (neg, a * sig neg / unit)
  | 9 => some (neg, a * phiFix neg a / unit)
  | 10 => let q := reduceTrig m e; let v := sinQuad q.1 q.2; some (neg != decide (v < 0), v.natAbs)
  | _ => let q := reduceTrig m e; let v := sinQuad (q.1 + 1) q.2; some (decide (v < 0), v.natAbs)

/-- One ulp of FP32 at a magnitude, in units of 2^-512. -/
def ulpFix (v : Nat) : Nat := 2 ^ (512 - 23 + max ((v.log2 : Int) - 512) (-126)).toNat

/-- The bound of R183 in units of 2^-512, for a value of magnitude `v`; none outside the ranges that the table gives. -/
def boundFix (slot : Nat) (neg : Bool) (a v : Nat) : Option Nat :=
  let u := ulpFix v
  let tiny := 2 ^ 363
  let upTo := fun (hundredths : Nat) => decide (a * 100 ≤ hundredths * unit)
  match slot with
  | 0 => some (if a ≤ 2 ^ 126 * unit then u else tiny)
  | 1 | 2 => some u
  | 3 => if neg then (if upTo 8733 then some u else if upTo 10397 then some tiny else none) else if upTo 8872 then some u else none
  | 4 => if neg then (if upTo 12600 then some u else if upTo 14900 then some tiny else none)
         else if a < 128 * unit then some u else none
  | 5 => some (if 3 * unit ≤ 4 * a ∧ 2 * a ≤ 3 * unit then 2 * u else u)
  | 6 => some (if 2 ^ 500 ≤ a ∧ upTo 901 = true then 2 * u else u)
  | 7 => some (if !neg || upTo 1600 then 2 * u else if upTo 8733 then 3 * u else tiny)
  | 8 => some (if !neg || upTo 1600 then 3 * u else if upTo 8733 then 4 * u else tiny)
  | 9 => some (if !neg || upTo 300 then 3 * u else if upTo 1000 then 8 * u else 2 ^ 372)
  | _ => some (2 * u)

/-- A finite FP32 value in units of 2^-512. -/
def fix32 (v : Word32) : Option Int :=
  match dec32 v with
  | .fin n m e => some (if n then -(toFix m e : Int) else (toFix m e : Int))
  | _ => none

/-- The exact value of a function, or `cand` where that is a number within `bound` of it: FP32 bits. -/
def within32 (neg : Bool) (v : Nat) (bound : Option Nat) (cand : Word32) : Word32 :=
  let exact := BitVec.ofNat 32 (fp32.round neg v (-512) true).1
  let near := if v = 0 then zero32 neg else exact
  match bound, fix32 cand with
  | some b, some c => if (c - (if neg then -(v : Int) else v)).natAbs ≤ b then cand else near
  | _, _ => near

/-- A function result in a mode: flags of R166, the flush of R162. -/
def finishFn (strict : Bool) (r : Word32) (exact : Bool) : FR :=
  let tiny := !isZero r && decide (r.toNat % 2 ^ 31 < 0x00800000)
  if strict then
    ⟨r, if exact then .clear else if isInf r then flagOX else if tiny || isZero r then flagUX else flagX, false⟩
  else if tiny then ⟨zero32 (isNeg r), .clear, true⟩
  else ⟨r, .clear, !exact && isZero r⟩

/-- The result is the exact value of the function. -/
def exactFn (slot : Nat) (neg : Bool) (m : Nat) (e : Int) (r : Word32) : Bool :=
  match dec32 r with
  | .fin _ n f =>
    let one := fun (v : Nat) (g : Int) => decide (v * 2 ^ (g + 2000).toNat = 2 ^ 2000)
    match slot with
    | 0 => one (n * m) (f + e)
    | 1 => one (n * n * m) (2 * f + e)
    | 2 => decide (n * n * 2 ^ (2 * f + 1000).toNat = m * 2 ^ (e + 1000).toNat)
    | 4 => decide (toFix m e % unit = 0) &&
        decide (n * 2 ^ (f + 1000).toNat = 2 ^ (1000 + (if neg then -(toFix m e / unit : Int) else (toFix m e / unit : Int))).toNat)
    | 5 => n == 0 && decide (m * 2 ^ (e + 512).toNat = unit)
    | _ => false
  | _ => false

/-- The least subnormal or the largest finite number: R173 states the exact result there, but for the values it marks ≈. -/
def pinned (slot : Nat) (x : Word32) : Bool :=
  let a := x.toNat % 2 ^ 31
  (a == 1 && [0, 3, 4, 6, 7, 8, 9, 10, 11].contains slot) || (a == 0x7F7FFFFF && [3, 4, 6, 7, 8, 9].contains slot)

/-- A shipped function of a zero, an infinity or a NaN (06 R173). -/
def specialFn (slot : Nat) (v : FV) : Option (Word32 × FFlags) :=
  match v with
  | .nan s => some (nan32, if s then flagI else .clear)
  | .inf n =>
    match slot with
    | 0 => some (zero32 n, .clear)
    | 1 => some (if n then (nan32, flagI) else (0, .clear))
    | 2 => some (if n then (nan32, flagI) else (inf32 false, .clear))
    | 3 | 4 => some (if n then (0, .clear) else (inf32 false, .clear))
    | 5 => some (if n then (nan32, flagI) else (inf32 false, .clear))
    | 6 => some (if n then 0xBF800000 else one32, .clear)
    | 7 => some (if n then 0 else one32, .clear)
    | 8 | 9 => some (if n then zero32 true else inf32 false, .clear)
    | _ => some (nan32, flagI)
  | .fin n m _ =>
    if m ≠ 0 then none
    else match slot with
      | 0 | 1 => some (inf32 n, flagZ)
      | 2 | 6 | 8 | 9 | 10 => some (zero32 n, .clear)
      | 5 => some (inf32 true, flagZ)
      | 7 => some (0x3F000000, .clear)
      | _ => some (one32, .clear)

/-! ## What bound and monotonicity leave open (07 R182, R183)

A result is an FP32 number by its key. The bound gives each input a least and a greatest key; on a monotonic interval the results
at the inputs before it and after it narrow both; between the two the first input that reaches a key is free. -/

/-- The key of the largest FP32 number that is at most `m` units of 2^-512. -/
def floorMag (m : Nat) : Nat :=
  if m = 0 then 0
  else
    let lsb : Int := max ((m.log2 : Int) - 512 - 23) (-149)
    min (fp32.encode false (m / 2 ^ (lsb + 512).toNat) lsb) 0x7F7FFFFF

/-- The key of the least FP32 number that is at least `m` units of 2^-512. -/
def ceilMag (m : Nat) : Nat :=
  let k := floorMag m
  if fix32 (BitVec.ofNat 32 k) = some (m : Int) then k else k + 1

/-- The FP32 number of a key; zero takes the sign of the exact value. -/
def ofKey (neg : Bool) (k : Int) : Word32 :=
  if k = 0 then zero32 neg else if k < 0 then BitVec.ofNat 32 (2 ^ 31 + k.natAbs) else BitVec.ofNat 32 k.natAbs

/-- The least and the greatest key at a magnitude `v` with bound `b`. A value at the foot of a binade has no results below those of
the values just under it, whose ulp is half as large. -/
def magSpan (v b : Nat) : Nat × Nat :=
  let foot := 2 ^ v.log2
  (ceilMag (if 2 ^ 386 < foot then max (v - b) (foot - b / 2) else v - b), floorMag (v + b))

/-- The keys that 06 R173 and the bound of 07 R183 allow shipped function `slot` at `x`; none where it gives NaN. Where no FP32
number meets the bound, the exact value rounded to nearest (log entry 50). -/
def fnSpan (slot : Nat) (x : Word32) : Option (Int × Int) :=
  match specialFn slot (dec32 x), dec32 x with
  | some r, _ => if isNan r.1 then none else some (key32 r.1, key32 r.1)
  | none, .fin n m e =>
    (realOf slot n m e).map fun (g, v) =>
      let near := key32 (within32 g v none 0)
      match if pinned slot x then none else boundFix slot n (toFix m e) v with
      | none => (near, near)
      | some b =>
        let lo : Int := if b ≤ v then ((magSpan v b).1 : Int) else -((floorMag (b - v) : Nat) : Int)
        let hi : Int := ((magSpan v b).2 : Int)
        let top : Int := if slot = 10 ∨ slot = 11 then min hi 0x3F800000 else hi
        if top < lo then (near, near) else if g then (-top, -lo) else (lo, top)
  | none, _ => none

/-- The monotonic interval of 07 R182 in which a finite `x` lies, and whether the function falls on it. -/
def fnBranch (slot : Nat) (x : Word32) : Int × Bool :=
  match dec32 x with
  | .fin n m e =>
    let a := toFix m e
    let side := fun (k : Nat) => if n then -((k : Int) + 1) else (k : Int)
    match slot with
    | 0 => (side 0, true)
    | 1 => (0, true)
    | 8 => if n ∧ 12784645 * unit ≤ a * 10000000 then (-1, true) else (0, false)
    | 9 => if n ∧ 7517916 * unit ≤ a * 10000000 then (-1, true) else (0, false)
    | 10 =>
      let q := reduceTrig m e
      let k := (q.1 + if 0 ≤ q.2 then 1 else 0) / 2
      (if n then -(k : Int) else k, k % 2 == 1)
    | 11 =>
      let q := reduceTrig m e
      let k := (q.1 - 1 + if 0 ≤ q.2 then 1 else 0) / 2
      (side k, (k % 2 == 0) != n)
    | _ => (0, false)
  | _ => (0, false)

/-- The magnitudes at which the bound of a function changes, in units of 2^-512 (07 R183). -/
def fnCuts (slot : Nat) : List Nat :=
  match slot with
  | 0 => [2 ^ 126 * unit]
  | 3 => [8733 * unit / 100, 10397 * unit / 100, 8872 * unit / 100]
  | 4 => [126 * unit, 128 * unit, 149 * unit]
  | 5 => [3 * unit / 4, 3 * unit / 2]
  | 6 => [2 ^ 500, 901 * unit / 100]
  | 7 | 8 => [16 * unit, 8733 * unit / 100]
  | 9 => [3 * unit, 10 * unit]
  | _ => []

/-- Inputs of both signs on either side of each change, with zero, the least subnormal and the largest finite number. -/
def fnPoints (slot : Nat) : List Word32 :=
  (([0, 1, 0x7F7FFFFF] ++ (fnCuts slot).flatMap fun c => let k := floorMag c; [k - 1, k, k + 1]).flatMap fun k =>
    [BitVec.ofNat 32 k, BitVec.ofNat 32 (2 ^ 31 + k)])

/-- The keys left at `x`: no result crosses one that an input before it or after it on the monotonic interval must have. -/
def fnLeft (slot : Nat) (x : Word32) (s : Int × Int) : Int × Int :=
  let b := fnBranch slot x
  let pos := fun (y : Word32) => if b.2 then -key32 y else key32 y
  (fnPoints slot).foldl (fun s y =>
    if fnBranch slot y = b then
      match fnSpan slot y with
      | some t => (if pos y ≤ pos x then max s.1 t.1 else s.1, if pos x ≤ pos y then min s.2 t.2 else s.2)
      | none => s
    else s) s

/-- The key of the result: the greatest one left whose first input is not after `x`. -/
def fnKey (slot : Nat) (x : Word32) (s : Int × Int) : Int :=
  let b := fnBranch slot x
  let l := fnLeft slot x s
  let pos := if b.2 then -key32 x else key32 x
  (List.range (l.2 - l.1).toNat).foldl (fun (k : Int) (i : Nat) =>
    let j := l.1 + 1 + i
    if Config.shipped slot b.1 j ≤ pos then j else k) l.1

/-- Shipped function `slot` (0 to 11) of an FP32 operand (06 R173, 07 R182, R183). -/
def shippedFn (strict : Bool) (slot : Nat) (x : Word32) : FR :=
  match specialFn slot (dec32 x), dec32 x with
  | some r, _ => ⟨r.1, if strict then r.2 else .clear, false⟩
  | none, .fin n m e =>
    match realOf slot n m e with
    | none => ⟨nan32, if strict then flagI else .clear, false⟩
    | some (g, v) =>
      let r := match fnSpan slot x with
        | some s => ofKey g (fnKey slot x s)
        | none => within32 g v none 0
      finishFn strict r (exactFn slot n m e r)
  | none, _ => .plain nan32

/-! ## EXPDIFF (07 R187) -/

/-- e^(a - b): rounded to nearest where a is above b (07 R177), within the bounds of R187 where it is below. -/
def expDiff32 (strict : Bool) (a b : Word32) : FR :=
  match dec32 a, dec32 b with
  | .nan s, .nan t => ⟨nan32, if strict && (s || t) then flagI else .clear, false⟩
  | .nan s, _ => ⟨nan32, if strict && s then flagI else .clear, false⟩
  | _, .nan s => ⟨nan32, if strict && s then flagI else .clear, false⟩
  | .inf true, _ => .plain 0
  | .inf false, .inf false => .plain one32
  | .fin .., .inf false => .plain 0
  | .fin n m e, .fin k l f =>
    match finAdd n m e (!k) l f with
    | .fin neg d g =>
      let t := toFix d g
      let v := expSigned true t
      let v' := expSigned false t
      if d = 0 then .plain one32
      else if neg then
        if t * 100 ≤ 8733 * unit then finishFn strict (within32 false v (some (ulpFix v)) (Config.expDiff a b)) false
        else if t * 100 ≤ 10397 * unit then finishFn strict (within32 false v (some (2 ^ 363)) (Config.expDiff a b)) false
        else ⟨0, if strict then flagUX else .clear, false⟩
      else finishFn strict (within32 false v' none 0) false
    | _ => .plain nan32
  | _, _ => finishFn strict (canon32 (Config.expDiff a b)) false

/-! ## Seeds (07 R177) -/

/-- An approximation of `v` with a relative error below 2^-12: the configured one where it is such. -/
def seed32 (neg : Bool) (v : Nat) (cand : Word32) : Word32 := within32 neg v (some ((v - 1) / 4096)) cand

def rcpSeed32 (strict : Bool) (x : Word32) : FR :=
  match dec32 x with
  | .nan s => ⟨nan32, if strict && s then flagI else .clear, false⟩
  | .inf n => .plain (zero32 n)
  | .fin n m e =>
    if m = 0 then ⟨inf32 n, if strict then flagZ else .clear, false⟩
    else
      let r := seed32 n (2 ^ (512 - e).toNat / m) (Config.rcpSeed x)
      finishFn strict r (exactFn 0 n m e r)

def rsqSeed32 (strict : Bool) (x : Word32) : FR :=
  match dec32 x with
  | .nan s => ⟨nan32, if strict && s then flagI else .clear, false⟩
  | .inf n => if n then ⟨nan32, if strict then flagI else .clear, false⟩ else .plain 0
  | .fin n m e =>
    if m = 0 then ⟨inf32 n, if strict then flagZ else .clear, false⟩
    else if n then ⟨nan32, if strict then flagI else .clear, false⟩
    else
      let r := seed32 false (isqrt (2 ^ (1024 - e).toNat / m)) (Config.rsqSeed x)
      finishFn strict r (exactFn 1 false m e r)

end Sys2Proof.Machine
end

