-- ==== Sys2Proof/Machine/Micro.lean ====
section
/-! DEFINITION. The SFU micro-program: its steps on one lane, a whole program, and the checks of a loaded one
(07 R177 to R181). -/
namespace Sys2Proof.Machine

/-! ## One step (07 R177) -/

def wStep (w : Nat) : Nat := bits w 0 6
def wDst (w : Nat) : Nat := bits w 6 4
def wSA (w : Nat) : Nat := bits w 10 4
def wSB (w : Nat) : Nat := bits w 14 4
def wSC (w : Nat) : Nat := bits w 18 4
def wCond (w : Nat) : Nat := bits w 22 3
def wImm (w : Nat) : Nat := bits w 32 32

/-- A register of a lane; v15 reads the step's immediate. -/
def Lane.reg (l : Lane) (w k : Nat) : Word32 := if k = 15 then BitVec.ofNat 32 (wImm w) else tget 0 l.regs k

/-- Write a register; v15 is not written. -/
def Lane.setReg (l : Lane) (k : Nat) (v : Word32) : Lane := if 15 ≤ k then l else { l with regs := tset 0 l.regs k v }

/-- Write DST with a result, and gather its flags. -/
def Lane.give (l : Lane) (k : Nat) (r : FR) : Lane :=
  { l.setReg k r.v with flags := l.flags.or r.flags, flushed := l.flushed || r.flushed }

/-- Raise Strict flags. -/
def Lane.raise (l : Lane) (strict : Bool) (f : FFlags) : Lane := if strict then { l with flags := l.flags.or f } else l

/-- A NaN operand passes through as the canonical NaN; a signalling one is invalid. -/
def Lane.passNan (l : Lane) (strict : Bool) (dsts : List Nat) (x : Word32) : Lane :=
  (dsts.foldl (fun l d => l.setReg d nan32) l).raise strict
    (match dec32 x with | .nan true => flagI | _ => .clear)

/-- A finite number rounded to FP32. -/
def fin32 (strict : Bool) (neg : Bool) (m : Nat) (e : Int) : FR := round32 strict neg m e false

/-- The nearest integer of m × 2^e. DESIGN CHOICE (log entry 99): R177 names none of the two for y midway between integers; the
model takes the even one. -/
def nearestInt (m : Nat) (e : Int) : Nat := if 0 ≤ e then m * 2 ^ e.toNat else rne m (-e).toNat false

/-- f and n for the finite y = ±m × 2^e of RR_EXP. DESIGN CHOICE (log entry 99): n = 0 has the sign of SA and f = 0 is +0. -/
def splitInt (strict : Bool) (n : Bool) (m : Nat) (e : Int) : FR × FR :=
  let k := nearestInt m e
  let f := finAdd n m e (!n) k 0
  (match f with | .fin g a b => if a = 0 then .plain 0 else fin32 strict g a b | _ => .plain 0,
    if k = 0 then .plain (zero32 n) else fin32 strict n k 0)

/-- y = ±m × 2^e × log2(e) formed to 48 bits: the spec does not say which of the two neighbours. -/
def formY (x : Word32) (m : Nat) (e : Int) : Nat × Int :=
  let p := m * log2e128
  let sh := p.log2 - 47
  (p / 2 ^ sh + Config.freeNat x.toNat % 2, e - 128 + sh)

/-- Values that R177 leaves open; a NaN among them is canonical. -/
def reduced (step : Nat) (x : Word32) : Word32 × Word32 := (canon32 (Config.reduced step x).1, canon32 (Config.reduced step x).2)

def rrExpStep (strict : Bool) (w : Nat) (l : Lane) : Lane :=
  let x := l.reg w (wSA w)
  let d := wDst w
  match dec32 x with
  | .nan _ => l.passNan strict [d, d + 1] x
  | .inf _ => (l.setReg d (reduced 1 x).1).setReg (d + 1) (reduced 1 x).2
  | .fin n m e =>
    let y := if m = 0 ∨ bit (wImm w) 0 = true then (m, e) else formY x m e
    let r := splitInt strict n y.1 y.2
    ((l.give d r.1).give (d + 1) r.2).raise strict (if m = 0 ∨ bit (wImm w) 0 = true then .clear else flagX)

def rrLogStep (strict : Bool) (w : Nat) (l : Lane) : Lane :=
  let x := l.reg w (wSA w)
  let d := wDst w
  match dec32 x with
  | .nan _ => l.passNan strict [d, d + 1] x
  | .inf true => ((l.setReg d nan32).setReg (d + 1) nan32).raise strict flagI
  | .inf false => (l.setReg d (reduced 2 x).1).setReg (d + 1) (reduced 2 x).2
  | .fin n m e =>
    if m = 0 then ((l.setReg d (reduced 2 x).1).setReg (d + 1) (inf32 true)).raise strict flagZ
    else if n then ((l.setReg d nan32).setReg (d + 1) nan32).raise strict flagI
    else
      let up := decide (3 * 2 ^ m.log2 ≤ 2 * m)
      let f : Int := -(m.log2 : Int) - b2n up
      let k : Int := e - f
      (match finAdd false m f true 1 0 with
        | .fin g a b => (l.give d (fin32 strict g a b)).give (d + 1) (.plain (ofInt32 k))
        | _ => l)

def rrTrigStep (strict : Bool) (w : Nat) (l : Lane) : Lane :=
  let x := l.reg w (wSA w)
  let d := wDst w
  match dec32 x with
  | .nan _ => l.passNan strict [d, d + 1] x
  | .inf _ => (l.setReg d (reduced 3 x).1).setReg (d + 1) (reduced 3 x).2
  | .fin n m e =>
    let p := m * 2 ^ (e + 149).toNat * twoOverPi256
    let one := 2 ^ 405
    let q := (2 * p + one) / (2 * one)
    if q = 0 then (l.give d (if m = 0 then .plain x else round32 strict n m e false)).setReg (d + 1) 0
    else
      let frac : Int := (p : Int) - (q * one : Nat)
      let r := frac.natAbs * (piFix1024 / 2)
      let k := if n then (4 - q % 4) % 4 else q % 4
      (l.give d (round32 strict (n != decide (frac < 0)) r (-1429) true)).give (d + 1) (.plain (ofNat32 k))

/-- SA clamped to [0, 1): the numerator over 2^149. -/
def clamp01 : FV → Nat
  | .fin false m e => min (m * 2 ^ (e + 149).toNat) (2 ^ 149 - 2 ^ 125)
  | .inf false => 2 ^ 149 - 2 ^ 125
  | _ => 0

def lookupStep (strict : Bool) (w : Nat) (l : Lane) : Lane :=
  let x := l.reg w (wSA w)
  let d := wDst w
  let latch := fun i => some (Config.romCoeff i 0, Config.romCoeff i 1, Config.romCoeff i 2)
  match dec32 x with
  | .nan _ => { l.passNan strict [d] x with latch := latch 4096 }
  | v =>
    let t := clamp01 v * 2 ^ bits (wImm w) 12 4
    let i := bits (wImm w) 0 12 + t / 2 ^ 149
    { l.give d (if t % 2 ^ 149 = 0 then .plain 0 else fin32 strict false (t % 2 ^ 149) (-149)) with latch := latch i }

def qinterpStep (strict : Bool) (w : Nat) (l : Lane) : Lane :=
  let x := l.reg w (wSA w)
  let d := wDst w
  let c := match l.latch with | some c => c | none => (Config.romCoeff 4097 0, Config.romCoeff 4097 1, Config.romCoeff 4097 2)
  if isNan x then l.passNan strict [d] x
  else
    let t := fma32 strict c.2.2 x c.2.1
    let r := fma32 strict t.v x c.1
    (l.give d t).give d r

def fmaStep (strict : Bool) (w : Nat) (l : Lane) : Lane :=
  l.give (wDst w) (fma32 strict (l.reg w (wSA w)) (l.reg w (wSB w)) (l.reg w (wSC w)))

def rcpSeedStep (strict : Bool) (w : Nat) (l : Lane) : Lane := l.give (wDst w) (rcpSeed32 strict (l.reg w (wSA w)))

def rsqSeedStep (strict : Bool) (w : Nat) (l : Lane) : Lane := l.give (wDst w) (rsqSeed32 strict (l.reg w (wSA w)))

/-- The number k × 2^e. -/
def num (k : Nat) (e : Int) : FV := .fin false k e

/-- DST × (2 - SA × DST), rounded once. -/
def nrRcpStep (strict : Bool) (w : Nat) (l : Lane) : Lane :=
  let a := dec32 (l.reg w (wSA w))
  let y := dec32 (l.reg w (wDst w))
  let p := a.mul y
  let s := (num 2 0).add p.1.neg
  let r := y.mul s.1
  l.give (wDst w) (r.1.to32 strict (p.2 || s.2 || r.2))

/-- DST × (1.5 - 0.5 × SA × DST × DST), rounded once. -/
def nrRsqStep (strict : Bool) (w : Nat) (l : Lane) : Lane :=
  let a := dec32 (l.reg w (wSA w))
  let y := dec32 (l.reg w (wDst w))
  let p := (num 1 (-1)).mul a
  let q := p.1.mul y
  let u := q.1.mul y
  let s := (num 3 (-1)).add u.1.neg
  let r := y.mul s.1
  l.give (wDst w) (r.1.to32 strict (p.2 || q.2 || u.2 || s.2 || r.2))

/-- The integer value that SB holds; none where it is not an integer. -/
def intOf32 (v : Word32) : Option Int :=
  match dec32 v with
  | .fin n m e =>
    if 0 ≤ e then some (let k : Int := (m * 2 ^ e.toNat : Nat); if n then -k else k)
    else if m % 2 ^ (-e).toNat = 0 then some (let k : Int := (m / 2 ^ (-e).toNat : Nat); if n then -k else k)
    else none
  | _ => none

def scale2Step (strict : Bool) (w : Nat) (l : Lane) : Lane :=
  let x := l.reg w (wSA w)
  let b := l.reg w (wSB w)
  match dec32 x, intOf32 b with
  | .fin n m e, some k => l.give (wDst w) (if m = 0 then .plain x else fin32 strict n m (e + max (-600) (min 600 k)))
  | v, some _ => l.give (wDst w) (v.to32 strict false)
  | _, none => l.setReg (wDst w) (reduced 11 (x ^^^ b)).1

/-- The condition of CMP_SEL. -/
def cmpCond (c : Nat) (a b : Word32) : Bool :=
  match c with
  | 0 => lt32 a b
  | 1 => le32 a b
  | 2 => eq32 a b
  | 3 => isNan a || isNan b
  | 4 => isNan a
  | 5 => isInf a
  | 6 => isZero a
  | _ => isNeg a

def cmpSelStep (strict : Bool) (w : Nat) (l : Lane) : Lane :=
  let a := l.reg w (wSA w)
  let b := l.reg w (wSB w)
  let sig := fun (v : Word32) => match dec32 v with | .nan s => s | _ => false
  let l := l.raise strict (if wCond w ≤ 3 ∧ (sig a || sig b) = true then flagI else .clear)
  if cmpCond (wCond w) a b then l.setReg (wDst w) (l.reg w (wSC w)) else l

def expDiffStep (strict : Bool) (w : Nat) (l : Lane) : Lane :=
  l.give (wDst w) (expDiff32 strict (l.reg w (wSA w)) (l.reg w (wSB w)))

/-- An SFU output: a NaN is canonical, and in Fast a subnormal is flushed (06 R155, R162). -/
def outFn (strict : Bool) (v : Word32) : FR :=
  if isNan v then .plain nan32
  else if !strict && !isZero v && decide (v.toNat % 2 ^ 31 < 0x00800000) then ⟨zero32 (isNeg v), .clear, true⟩
  else .plain v

def endStep' (strict : Bool) (w : Nat) (l : Lane) : Lane :=
  let r := outFn strict (l.reg w (wSA w))
  { l with result := some r.v, flushed := l.flushed || r.flushed }

/-- The step that `w` names; a reserved code does nothing. -/
def laneStep (strict : Bool) (w : Nat) (l : Lane) : Lane :=
  match wStep w with
  | 0x00 => endStep' strict w l
  | 0x01 => rrExpStep strict w l
  | 0x02 => rrLogStep strict w l
  | 0x03 => rrTrigStep strict w l
  | 0x04 => lookupStep strict w l
  | 0x05 => qinterpStep strict w l
  | 0x06 => fmaStep strict w l
  | 0x07 => rcpSeedStep strict w l
  | 0x08 => rsqSeedStep strict w l
  | 0x09 => nrRcpStep strict w l
  | 0x0A => nrRsqStep strict w l
  | 0x0B => scale2Step strict w l
  | 0x0C => cmpSelStep strict w l
  | 0x0D => expDiffStep strict w l
  | _ => l

/-! ## The steps as commands: one lane of a die's SFU, whose program has not ended -/

def Ctx.onLane (x : Ctx) (d lane code : Nat) (w : Nat) (f : Nat → Lane → Lane) : Ctx :=
  let v := x.die d
  let l := tget .empty v.lanes lane
  if x.frozen || !x.awake || l.result.isSome || wStep w != code then x
  else x.setDie d { v with lanes := tset .empty v.lanes lane (f w l) }

def execSfuEnd (c : Fin 8) (die : Fin 4) (lane : Fin 64) (strict : Bool) (w : Word64) (s : State) : Res :=
  chipNext c (·.onLane die lane 0x00 w.toNat (endStep' strict)) s

def execRrExp (c : Fin 8) (die : Fin 4) (lane : Fin 64) (strict : Bool) (w : Word64) (s : State) : Res :=
  chipNext c (·.onLane die lane 0x01 w.toNat (rrExpStep strict)) s

def execRrLog (c : Fin 8) (die : Fin 4) (lane : Fin 64) (strict : Bool) (w : Word64) (s : State) : Res :=
  chipNext c (·.onLane die lane 0x02 w.toNat (rrLogStep strict)) s

def execRrTrig (c : Fin 8) (die : Fin 4) (lane : Fin 64) (strict : Bool) (w : Word64) (s : State) : Res :=
  chipNext c (·.onLane die lane 0x03 w.toNat (rrTrigStep strict)) s

def execLookup (c : Fin 8) (die : Fin 4) (lane : Fin 64) (strict : Bool) (w : Word64) (s : State) : Res :=
  chipNext c (·.onLane die lane 0x04 w.toNat (lookupStep strict)) s

def execQinterp (c : Fin 8) (die : Fin 4) (lane : Fin 64) (strict : Bool) (w : Word64) (s : State) : Res :=
  chipNext c (·.onLane die lane 0x05 w.toNat (qinterpStep strict)) s

def execFma (c : Fin 8) (die : Fin 4) (lane : Fin 64) (strict : Bool) (w : Word64) (s : State) : Res :=
  chipNext c (·.onLane die lane 0x06 w.toNat (fmaStep strict)) s

def execRcpSeed (c : Fin 8) (die : Fin 4) (lane : Fin 64) (strict : Bool) (w : Word64) (s : State) : Res :=
  chipNext c (·.onLane die lane 0x07 w.toNat (rcpSeedStep strict)) s

def execRsqSeed (c : Fin 8) (die : Fin 4) (lane : Fin 64) (strict : Bool) (w : Word64) (s : State) : Res :=
  chipNext c (·.onLane die lane 0x08 w.toNat (rsqSeedStep strict)) s

def execNrRcp (c : Fin 8) (die : Fin 4) (lane : Fin 64) (strict : Bool) (w : Word64) (s : State) : Res :=
  chipNext c (·.onLane die lane 0x09 w.toNat (nrRcpStep strict)) s

def execNrRsq (c : Fin 8) (die : Fin 4) (lane : Fin 64) (strict : Bool) (w : Word64) (s : State) : Res :=
  chipNext c (·.onLane die lane 0x0A w.toNat (nrRsqStep strict)) s

def execScale2 (c : Fin 8) (die : Fin 4) (lane : Fin 64) (strict : Bool) (w : Word64) (s : State) : Res :=
  chipNext c (·.onLane die lane 0x0B w.toNat (scale2Step strict)) s

def execCmpSel (c : Fin 8) (die : Fin 4) (lane : Fin 64) (strict : Bool) (w : Word64) (s : State) : Res :=
  chipNext c (·.onLane die lane 0x0C w.toNat (cmpSelStep strict)) s

def execExpdiff (c : Fin 8) (die : Fin 4) (lane : Fin 64) (strict : Bool) (w : Word64) (s : State) : Res :=
  chipNext c (·.onLane die lane 0x0D w.toNat (expDiffStep strict)) s

/-! ## Programs -/

/-- Run the steps of a slot image, up to its END, on one operand. -/
def runSteps (strict : Bool) (img : Bytes) : Nat → Nat → Lane → Lane
  | 0, _, l => l
  | n + 1, k, l => if l.result.isSome then l else runSteps strict img n (k + 1) (laneStep strict (field img (64 + 8 * k) 8) l)

/-- A loaded program on one operand; without END its result is v0 as it stands. -/
def loadedFn (strict : Bool) (img : Bytes) (x : Word32) : FR :=
  let l := runSteps strict img (byteAt img 8) 0 { Lane.empty with regs := tset 0 [] 0 x }
  let r := outFn strict (l.result.getD (tget 0 l.regs 0))
  ⟨r.v, if strict then l.flags else .clear, !strict && (l.flushed || r.flushed)⟩

/-- The image of loadable slot `n` in a microprogram section (03 R92). -/
def slotImage (micro : Mem) (n : Nat) : Bytes := imgBytes micro (448 * (n - 16)) 448

/-- The function of slot `n` on one operand. -/
def slotFn (strict : Bool) (micro : Mem) (n : Nat) (x : Word32) : FR :=
  if n < 12 then shippedFn strict n x else loadedFn strict (slotImage micro n) x

/-! ## The structure check (07 R180): the failing step and rule -/

def iCount (b : Bytes) : Nat := byteAt b 8
def iDecls (b : Bytes) : Nat := byteAt b 9
def iStep (b : Bytes) (k : Nat) : Nat := field b (64 + 8 * k) 8
def iLo (b : Bytes) (j : Nat) : Word32 := BitVec.ofNat 32 (field b (16 + 12 * j) 4)
def iHi (b : Bytes) (j : Nat) : Word32 := BitVec.ofNat 32 (field b (20 + 12 * j) 4)
def iDir (b : Bytes) (j : Nat) : Nat := byteAt b (24 + 12 * j)

/-- The registers a step reads. -/
def wReads (w : Nat) : List Nat :=
  match wStep w with
  | 0x06 => [wSA w, wSB w, wSC w]
  | 0x09 | 0x0A => [wDst w, wSA w]
  | 0x0B | 0x0D => [wSA w, wSB w]
  | 0x0C => if wCond w ≤ 3 then [wSA w, wSB w, wSC w] else [wSA w, wSC w]
  | _ => [wSA w]

/-- The registers a step writes. -/
def wWrites (w : Nat) : List Nat :=
  match wStep w with
  | 0x00 => []
  | 0x01 | 0x02 | 0x03 => [wDst w, wDst w + 1]
  | _ => [wDst w]

/-- The first of `n` indexes at which `p` holds. -/
def firstOf (n : Nat) (p : Nat → Bool) : Option Nat := (List.range n).find? p

/-- Rule 1: reserved fields and encodings, and what lies beyond the counts. -/
def microRule1 (b : Bytes) : Option Nat :=
  let header := !zeros b 10 16 || ((List.range 4).any fun j =>
    if j < iDecls b then !zeros b (25 + 12 * j) (28 + 12 * j) || decide (iDir b j ≠ 1 ∧ iDir b j ≠ 2)
    else !zeros b (16 + 12 * j) (28 + 12 * j))
  if header then some 0xFF
  else firstOf 48 fun k => if k < iCount b then bits (iStep b k) 25 7 != 0 else iStep b k != 0

/-- The declared intervals as pairs. -/
def intervals (b : Bytes) : List (Word32 × Word32) := (List.range (min 4 (iDecls b))).map fun j => (iLo b j, iHi b j)

/-- Two intervals share an input; one bound that is HI of one and LO of the other is not an overlap. -/
def sharesInput (a b : Word32 × Word32) : Bool := lt32 a.1 b.2 && lt32 b.1 a.2

def anyPair {α : Type} (p : α → α → Bool) : List α → Bool
  | [] => false
  | a :: r => r.any (p a) || anyPair p r

/-- The first failing rule of R180: the step (0xFF for the header and the intervals), and the rule's position. -/
def microCheck (b : Bytes) : Option (Nat × Nat) :=
  let n := iCount b
  let written := fun k => (List.range k).flatMap fun i => wWrites (iStep b i)
  let rule := fun (pos : Nat) (f : Option Nat) => f.map fun k => (k, pos)
  [rule 1 (microRule1 b),
   rule 2 (if n < 1 ∨ 48 < n ∨ 4 < iDecls b then some 0xFF else none),
   rule 3 (firstOf n fun k => decide (0x0D < wStep (iStep b k))),
   rule 4 (firstOf n fun k => (wStep (iStep b k) == 0) != (k + 1 == n)),
   rule 5 (firstOf n fun k => wDst (iStep b k) == 15 || (wWrites (iStep b k)).any fun d => decide (14 < d)),
   rule 6 (firstOf n fun k => (wReads (iStep b k)).any fun r => r != 0 && r != 15 && !(written k).contains r),
   rule 7 (firstOf n fun k => wStep (iStep b k) == 5 && !((List.range k).any fun i => wStep (iStep b i) == 4)),
   rule 8 (firstOf n fun k => wStep (iStep b k) == 4 &&
     decide (4096 < bits (wImm (iStep b k)) 0 12 + 2 ^ bits (wImm (iStep b k)) 12 4)),
   rule 9 (if (intervals b).any (fun i => !lt32 i.1 i.2) then some 0xFF else none),
   rule 10 (if anyPair sharesInput (intervals b) then some 0xFF else none)].findSome? id

/-! ## The monotonicity check (07 R181) -/

/-- Every BF16 and FP16 value within an interval, and its bounds, rising. DESIGN CHOICE (log entry 99): R181 takes +0 and -0 as
equal and says nothing of their order; they stand in the order of this list. -/
def monoInputs (lo hi : Word32) : List Word32 :=
  let l := (List.range 65536).flatMap fun v => [inTo32 1 v, inTo32 2 v]
  sortBy (fun a b => decide (key32 a ≤ key32 b)) (lo :: hi :: l.filter fun v => le32 lo v && le32 v hi)

/-- The first input at which the results break the direction. -/
def breaksDir (dir : Nat) : List (Word32 × Word32) → Option Word32
  | a :: b :: r => if if dir = 1 then le32 a.2 b.2 else le32 b.2 a.2 then breaksDir dir (b :: r) else some b.1
  | _ => none

/-- The first failing interval and input, Fast mode first. -/
def monoCheck (b : Bytes) : Option (Nat × Word32) :=
  (List.range (iDecls b)).findSome? fun j =>
    let xs := monoInputs (iLo b j) (iHi b j)
    ([false, true].findSome? fun strict => breaksDir (iDir b j) (xs.map fun x => (x, (loadedFn strict b x).v))).map fun x => (j, x)

/-- RESULT0 of a refused image for slot `slot`, none where it passes (07 R180, R181). -/
def slotCheck (slot : Nat) (b : Bytes) : Option Nat :=
  match microCheck b with
  | some (k, r) => some (k + 256 * r + 2 ^ 24 * slot)
  | none => (monoCheck b).map fun f => 0x1000 + 2 ^ 16 * f.1 + 2 ^ 24 * slot + 2 ^ 32 * f.2.toNat

end Sys2Proof.Machine
end

