-- ==== Sys2Proof/Machine/Steps.lean ====
section
/-! DEFINITION. Steps: submission, readiness, dispatch, swap-unit entry, commit, error ends, STEP_VERIFY and the records
(04 R113 to R127, 09 R230 to R235, R240, 16 R404 to R406). -/
namespace Sys2Proof.Machine

/-! ## Plans and their checks (04 R114, R115) -/

/-- An entry of a step plan. -/
def planEntry (b : Bytes) : PlanEntry where
  stream := field b 0 2 % 4096
  gen := field b 2 2
  expected := field b 4 4
  decode := bitsAt b 8 0 2 == 1
  drafts := bitsAt b 9 0 4
  newFrames := field b 10 2
  tokens := field b 12 4
  tokenPtr := field b 16 8
  accept := 0
  cancelled := false
  appended := 0
  oldLen := 0

/-- A failed check: status, entry index (0xFFFF for the whole plan), check number. -/
abbrev PlanFail := Nat × Nat × Nat

/-- The first entry that `p` holds of fails a check. -/
def entryFail {α : Type} (status check : Nat) (l : List α) (p : α → Bool) : Option PlanFail :=
  (firstIdx p l).map fun i => (status, i, check)

def wholeFail (status check : Nat) (p : Bool) : Option PlanFail := if p then some (status, 0xFFFF, check) else none

/-- The first check that fails. -/
def firstFailure (l : List (Option PlanFail)) : Option PlanFail := l.findSome? id

/-- The first entry that names a stream already named. -/
def secondNaming (l : List PlanEntry) (status check : Nat) : Option PlanFail :=
  ((List.range l.length).find? fun i =>
    (l.take i).any fun e => (l[i]?.map fun f => decide (e.stream = f.stream)).getD false).map fun i => (status, i, check)

/-- Reserved bits of a plan entry. -/
def planReserved (b : Bytes) : Bool :=
  bitsAt b 1 4 4 != 0 || bitsAt b 8 2 6 != 0 || bitsAt b 9 4 4 != 0 || !zeros b 24 32

/-- Check 0x02 on one entry. -/
def planShape (b : Bytes) : Bool :=
  let e := planEntry b
  decide (2 ≤ bitsAt b 8 0 2 ∨ 1048576 < e.expected + e.tokens) ||
  (if e.decode then decide (8 < e.drafts ∨ e.tokens ≠ 1 + e.drafts) else decide (e.drafts ≠ 0 ∨ e.tokens < 1 ∨ 8192 < e.tokens))

/-- Checks 0x01 to 0x06, made at fetch. -/
def Ctx.planCheck (x : Ctx) (k : Cmd) (raw : List Bytes) (es : List PlanEntry) : Option PlanFail :=
  let s := x.sup k
  let total := k.arg 36 4
  let m := x.model (k.arg 28 1)
  firstFailure [
    wholeFail 0x0105 1 (decide (k.arg 29 1 < 1 ∨ 64 < k.arg 29 1 ∨ k.arg 32 2 < 1 ∨ 4096 < k.arg 32 2 ∨ total < 1 ∨ 65536 < total)),
    entryFail 0x0100 0 raw planReserved,
    entryFail 0x0107 2 raw planShape,
    secondNaming es 0x0107 3,
    wholeFail 0x0107 3 (decide ((es.map (·.tokens)).sum ≠ total)),
    entryFail 0x0103 4 es fun e => decide (e.tokenPtr = 0 ∨ e.tokenPtr % 4 ≠ 0),
    entryFail 0x0209 5 es fun e => superOfStream x.act.superMap e.stream != some s,
    wholeFail 0x0209 5 ((decide (m.gen ≠ 0) || m.loading) && m.super != s),
    wholeFail 0x0105 6 (decide (m.gen = 0))]

/-- Old-bound steps of model `m` are in progress (09 R234). -/
def Ctx.oldBound (x : Ctx) (m : Nat) : Bool := x.chip.serve.steps.any fun t => t.model == m && !t.verify && t.bound == some true

/-- A DRAINING swap whose last old-bound step has left is OPEN (09 R241). -/
def Ctx.settleSwap (x : Ctx) (m : Nat) : Ctx :=
  let d := x.model m
  if d.swap.state = .draining ∧ x.oldBound m = false then x.setModel m { d with swap := { d.swap with state := .opened } } else x

/-- Step `id` leaves its model's swap. -/
def Ctx.settleStep (x : Ctx) (t : Option StepRec) : Ctx :=
  match t with
  | some t => x.settleSwap t.model
  | none => x

/-- Refuse a plan with the detail of R115; its step, if any, goes. -/
def Ctx.planRefuse (x : Ctx) (k : Cmd) (f : PlanFail) : Ctx :=
  ((x.dropStep k.id).refuse k f.1 (f.2.1 + 65536 * f.2.2) 0).settleStep (x.step? k.id)

/-- A step that has been accepted. -/
def newStep (k : Cmd) (super model outK total : Nat) (verify : Bool) (es : List PlanEntry) (ph : StepPhase) : StepRec where
  id := k.id
  qp := k.qp
  super := super
  model := model
  outK := outK
  total := total
  verify := verify
  entries := es
  phase := ph
  arena := 0
  wasReady := false
  bound := none
  units := []
  due := []
  heldAt := none
  error := none
  cycles := []
  records := []

def Ctx.addStep (x : Ctx) (t : StepRec) : Ctx := x.onServe fun v => { v with steps := v.steps ++ [t] }

def Ctx.stepSubmit (x : Ctx) (k : Cmd) (plan : Bytes) : Ctx :=
  let n := k.arg 32 2
  let raw := chunks n 32 (fit (32 * n) plan)
  let es := raw.map planEntry
  match x.planCheck k raw es with
  | some f => x.planRefuse k f
  | none =>
    (x.addStep (newStep k (x.sup k) (k.arg 28 1) (k.arg 29 1) (k.arg 36 4) false es .waiting)).setPhase k.id .running

def execStepSubmit (c : Fin 8) (id : Nat) (plan : Bytes) (s : State) : Res :=
  chipNext c (fun x => x.run id 0x30 (fun _ => true) fun k x => x.stepSubmit k plan) s

/-! ## Readiness (04 R116) -/

/-- No named stream runs, and earlier commands of the queue that name one have completed. -/
def Ctx.planIdle (x : Ctx) (t : StepRec) : Bool :=
  let ss := t.entries.map (·.stream)
  (ss.all fun i => (x.stream i).state != .running && (x.stream i).state != .cancelling) &&
  !(x.chip.stew.cmds.any fun a => a.qp == t.qp && decide (a.id < t.id) && mayShare (x.cmdStreams a) (some ss))

/-- The entry is to become a CANCELLED record: its stream carries a cancel, or did when its plan became ready (04 R115). -/
def Ctx.entryCancelled (x : Ctx) (e : PlanEntry) : Bool :=
  e.cancelled || ((x.stream e.stream).cancel && (x.stream e.stream).gen == e.gen)

/-- An entry as the plan goes on: one that becomes a CANCELLED record keeps the POSITION as it stands (04 R119). -/
def Ctx.markEntry (x : Ctx) (e : PlanEntry) : PlanEntry :=
  if e.cancelled || !x.entryCancelled e then e else { e with cancelled := true, expected := (x.stream e.stream).position }

/-- Indexes that an entry needs beyond its table (check 0x0C). -/
def newFramesOf (t : Stream) (e : PlanEntry) : Nat := (t.position + e.tokens + 63) / 64 - t.table.length

/-- Checks 0x07 to 0x0D; without token IDs, those that do not read them. -/
def Ctx.readyCheck (x : Ctx) (t : StepRec) (tokens : Option (List (Option (List Word32)))) : Option PlanFail :=
  let live := fun (e : PlanEntry) (p : Stream → Bool) => !x.entryCancelled e && p (x.stream e.stream)
  let es := t.entries
  firstFailure [
    entryFail 0x0203 7 es fun e => !e.cancelled && e.gen != (x.stream e.stream).gen,
    match tokens with | none => none | some l => entryFail 0x0403 8 l (·.isNone),
    entryFail 0x0201 9 es fun e => live e fun s => s.state == .free || s.state == .closed || s.tent.isSome,
    entryFail 0x0107 0xA es fun e => live e fun s => s.model != t.model,
    entryFail 0x0202 0xB es fun e => live e fun s => s.position != e.expected,
    entryFail 0x0107 0xC es fun e => live e fun s => e.newFrames != newFramesOf s e,
    match tokens with
    | none => none
    | some l => entryFail 0x0105 0xD (es.zip l) fun p =>
        !x.entryCancelled p.1 && (p.2.getD []).any fun v => decide ((x.model t.model).vocab ≤ v.toNat)]

/-- The token IDs fit the plan: one list per entry, of its length where it could be read. -/
def tokensFit (t : StepRec) (tokens : List (Option (List Word32))) : Bool :=
  tokens.length == t.entries.length &&
    (t.entries.zip tokens).all fun p => match p.2 with | none => true | some l => l.length == p.1.tokens

/-- No control or boundary holds dispatch back (03 R91, 12 R316, R327, 15 R385, 16 R411). -/
def Ctx.dispatchOpen (x : Ctx) : Bool :=
  x.chip.boot.ready && !x.frozen && !x.chip.boot.linkFatal && !x.chip.boot.isolating &&
  x.chip.power.stopped.isEmpty && x.chip.power.quiet == .none && x.chip.config.commit.isNone

/-- The Steward dispatches steps: the chip runs, and nothing holds dispatch back. -/
def Ctx.mayDispatch (x : Ctx) : Bool := x.awake && x.dispatchOpen

/-- A plan that could be dispatched wakes a chip that is Dormant or enters it, as every command does that 02 R58 does not list. -/
def Ctx.wakeDispatch (x : Ctx) : Ctx := if x.dispatchOpen && !(x.awake && !x.chip.boot.dormantEntry) then x.wakeEvent else x

/-- The plan becomes ready: its checks, and its binding under a Uniform swap, which it keeps where it was ready before (09 R234). It
takes the last place among the plans. -/
def Ctx.planReady (x : Ctx) (id : Nat) (tokens : List (Option (List Word32))) : Ctx :=
  match x.running? id 0x30, x.step? id with
  | some k, some t =>
    if t.phase = .waiting ∧ x.planIdle t = true ∧ tokensFit t tokens = true ∧ x.frozen = false ∧ x.chip.boot.linkFatal = false then
      match x.readyCheck t (some tokens) with
      | some f => x.planRefuse k f
      | none =>
        let w := (x.model t.model).swap
        let t' := { t with
          phase := .ready
          wasReady := true
          bound := if w.state = .idle ∨ w.rolling then none else if t.bound.isSome then t.bound else some false
          entries := t.entries.map x.markEntry }
        ((x.dropStep id).addStep t').wakeDispatch
    else x
  | _, _ => x

def execStepPlanReady (c : Fin 8) (id : Nat) (tokens : List (Option (List Word32))) (s : State) : Res :=
  chipNext c (·.planReady id tokens) s

/-! ## Dispatch (04 R111, R115, R116) -/

/-- Dispatched STEP_SUBMIT steps of Super `s`. -/
def Ctx.dispatched (x : Ctx) (s : Nat) : List StepRec :=
  x.chip.serve.steps.filter fun t => t.super == s && t.phase == .dispatched && !t.verify

/-- Frames that the dispatch of these entries takes: new indexes, and the copies of R111 in entry order. -/
def Ctx.framesNeeded (x : Ctx) (s layers : Nat) (es : List PlanEntry) : Nat :=
  (es.foldl (fun (a : Tab Nat × Nat) e =>
    if e.cancelled then a
    else
      let t := x.stream e.stream
      let shared := (t.table.getD (t.position / 64) []).filter fun f => decide (1 < tget 0 a.1 (frameKey s f))
      (shared.foldl (fun r f => tupd 0 r (frameKey s f) (· - 1)) a.1, a.2 + shared.length + e.newFrames * layers))
    (x.chip.serve.refs, 0)).2

/-- Copy the shared frames of one index into frames of their own, `n` bytes of slots below POSITION and zeros above (04 R111). -/
def Ctx.copyOnWrite (x : Ctx) (s n : Nat) : List Nat → Ctx × List Nat
  | [] => (x, [])
  | f :: r =>
    if x.refs s f ≤ 1 then
      let q := x.copyOnWrite s n r
      (q.1, f :: q.2)
    else
      let m := x.act.superMap
      let g := x.takeFrame s
      let y := (g.1.copyBytes (some s) .hbm (frameAddr m s f) .hbm (frameAddr m s g.2) n).1
      let y := y.put .hbm (some s) (frameAddr m s g.2 + n) (zeroBytes (superFrameBytes m s - n))
      let q := (y.dropRef s f).copyOnWrite s n r
      (q.1, g.2 :: q.2)

/-- The dispatch of one entry: copies, new indexes, RUNNING. -/
def Ctx.dispatchEntry (x : Ctx) (s layers : Nat) (e : PlanEntry) : Ctx × PlanEntry :=
  if e.cancelled then (x, e)
  else
    let t := x.stream e.stream
    let i := t.position / 64
    let c := x.copyOnWrite s (t.position % 64 * (superFrameBytes x.act.superMap s / 64)) (t.table.getD i [])
    let table := if i < t.table.length then t.table.set i c.2 else t.table
    let g := c.1.growTable s layers e.newFrames table
    (g.1.setStream e.stream { t with table := g.2, state := .running },
      { e with oldLen := t.table.length, appended := e.newFrames })

def Ctx.dispatchEntries (x : Ctx) (s layers : Nat) : List PlanEntry → Ctx × List PlanEntry
  | [] => (x, [])
  | e :: r =>
    let a := x.dispatchEntry s layers e
    let b := a.1.dispatchEntries s layers r
    (b.1, a.2 :: b.2)

/-- A working set above the model's arena on some die (09 R224). -/
def Model.overArena (m : Model) (total : Nat) : Bool := m.arenas.any fun a => decide (a.2.1 < a.2.2.1 + a.2.2.2 * total)

/-- STEP record of the trace: 1 dispatch, 2 commit, 3 error end (13 R338). -/
def Ctx.traceStep (x : Ctx) (k : Cmd) (t : StepRec) (what status : Nat) : Ctx :=
  x.trace 5 152 (some t.super) (x.oneStream t.id) 0 what (k.tag + 65536 * k.qp) (status + 65536 * t.entries.length)

/-- The arena that the other dispatched step of the model does not use (09 R223); with no other, either. -/
def Ctx.pickArena (x : Ctx) (t : StepRec) : Nat :=
  match (x.dispatched t.super).find? fun o => o.model == t.model with
  | some o => 1 - o.arena
  | none => Config.freeNat x.free % 2

def Ctx.stepDispatch (x : Ctx) (id : Nat) : Ctx :=
  match x.running? id 0x30, x.step? id with
  | some k, some t =>
    let first := x.chip.serve.steps.find? fun o => o.super == t.super && o.phase == .ready
    if t.phase = .ready ∧ first.map (·.id) = some id ∧ (x.dispatched t.super).length < 2 then
      if x.mayDispatch = false then x.wakeDispatch
      else if x.planIdle t = false ∨ (x.readyCheck t none).isSome then x.onStep id fun t => { t with phase := .waiting }
      else
        let m := x.model t.model
        let es := t.entries.map x.markEntry
        let x := x.workFor (.step id)
        if x.freeFrames t.super < x.framesNeeded t.super m.layers es then x.planRefuse k (0x0301, 0xFFFF, 0xE)
        else if m.overArena t.total then x.planRefuse k (0x0302, 0xFFFF, 0xF)
        else
          let arena := x.pickArena t
          let r := x.bump.dispatchEntries t.super m.layers es
          let y := r.1.onStep id fun t => { t with phase := .dispatched, entries := r.2, arena := arena }
          y.activate.traceStep k t 1 0
    else x
  | _, _ => x

def execStepDispatch (c : Fin 8) (id : Nat) (s : State) : Res := chipNext c (·.stepDispatch id) s

/-! ## Ends of steps (04 R117 to R120) -/

/-- The step leaves, and its command ends with a status and output. An error that the step met is in the log since it was met. -/
def Ctx.endStep (x : Ctx) (k : Cmd) (t : StepRec) (late : Bool) (status r0 r1 : Nat) (out : Bytes) : Ctx :=
  let y := x.dropStep k.id
  (if t.error.isSome then y.finishLogged k late status r0 r1 out else y.finishLate k late status r0 r1 out).settleSwap t.model

/-- An entry of a step that ends with an error: its indexes are released, its stream returns to OPEN or goes to CLOSED (04 R118). -/
def Ctx.errorEntry (x : Ctx) (s : Nat) (verify : Bool) (e : PlanEntry) : Ctx :=
  if e.cancelled then x
  else
    let x := if verify then x else x.cutTable s e.stream e.oldLen
    if (x.stream e.stream).state = .cancelling then
      let y := x.dropTent s e.stream true
      y.setStream e.stream { y.stream e.stream with state := .closed }
    else x.setStream e.stream { x.stream e.stream with state := .opened }

/-- A dispatched step ends with an error status: nothing commits, LENGTH 0, one completion (04 R118, 16 R406). -/
def Ctx.errorEnd (x : Ctx) (k : Cmd) (t : StepRec) (status r0 r1 : Nat) : Ctx :=
  let x := (t.entries.foldl (fun x e => x.errorEntry t.super t.verify e) x).purge t.id
  (x.traceStep k t 3 status).endStep k t false status r0 r1 []

/-- A dispatched step of either kind, with its command. -/
def Ctx.dispatchedStep (x : Ctx) (id : Nat) : Option (Cmd × StepRec) :=
  match x.cmd? id, x.step? id with
  | some k, some t => if t.phase = .dispatched ∧ x.frozen = false then some (k, t) else none
  | _, _ => none

/-- Generation used, and the units that used the one above it (09 R231). -/
def StepRec.gens (t : StepRec) (gen : Nat) : Nat × Nat :=
  match t.units with
  | [] => (gen, 0)
  | u :: r =>
    let lo := r.foldl (fun n v => min n v.2) u.2
    (lo, (t.units.filter fun v => v.2 == lo + 1).foldl (fun n v => n + 2 ^ v.1) 0)

/-- Give the slots that a step wrote undefined contents: the spec leaves the layout and values inside a slot to the model. -/
def Ctx.writeSlots (x : Ctx) (s : Nat) (table : List (List Nat)) (lo n : Nat) : Ctx :=
  let w := superFrameBytes x.act.superMap s / 64
  (List.range ((lo + n + 63) / 64 - lo / 64)).foldl (fun x j =>
    let i := lo / 64 + j
    let a := max lo (64 * i) - 64 * i
    let b := min (lo + n) (64 * i + 64) - 64 * i
    (table.getD i []).foldl (fun x f => x.putOpen .hbm (some s) (frameAddr x.act.superMap s f + a * w) ((b - a) * w)) x) x

/-- What the commit point does to one entry of a STEP_SUBMIT, and the record it leaves (04 R117, R119). -/
def Ctx.commitEntry (x : Ctx) (t : StepRec) (g : Nat × Nat) (e : PlanEntry) (st : Staged) : Ctx × OutRec :=
  let gone := fun (n : Nat) => (⟨e.stream, e.gen, true, false, 0, n, g.1, g.2, 0, []⟩ : OutRec)
  if e.cancelled then (x, gone e.expected)
  else if (x.stream e.stream).cancel then
    let y := x.cutTable t.super e.stream e.oldLen
    (y.setStream e.stream { y.stream e.stream with state := .closed }, gone (y.stream e.stream).position)
  else
    let s := x.stream e.stream
    let n := if e.decode then 1 else e.tokens
    let pos := s.position + n
    let y := x.writeSlots t.super s.table s.position e.tokens
    let first := max e.oldLen ((pos + 63) / 64)
    let tent := if e.decode ∧ 0 < e.drafts then
      some ⟨pos, e.drafts, st.cands, st.draftLogits, t.outK, first, s.table.length - first, g.1, g.2⟩ else none
    (y.setStream e.stream { s with state := .opened, position := pos, tent := tent },
      ⟨e.stream, e.gen, false, false, 1, pos, g.1, g.2, n, st.cands.take 1⟩)

def Ctx.commitEntries (x : Ctx) (t : StepRec) (g : Nat × Nat) : List PlanEntry → List Staged → Ctx × List OutRec
  | [], _ => (x, [])
  | e :: r, l =>
    let a := x.commitEntry t g e (l.headD ⟨[], []⟩)
    let b := a.1.commitEntries t g r l.tail
    (b.1, a.2 :: b.2)

/-- The commit point of a STEP_SUBMIT: one action for every entry; the draft share of its work is counted (13 R334). -/
def Ctx.commitStep (x : Ctx) (k : Cmd) (t : StepRec) (staged : List Staged) : Ctx :=
  let g := t.gens (x.model t.model).gen
  let drafts := ((t.entries.filter fun e => !e.cancelled && !(x.stream e.stream).cancel).map (·.drafts)).sum
  let x := (List.range 4).foldl (fun x d => x.count 5 (8 * d + t.super) 0 (tget 0 t.cycles d * drafts / t.total)) x
  let x := x.count 6 t.super 0 drafts
  let r := x.commitEntries t g t.entries staged
  ((r.1.onStep t.id fun t => { t with phase := .committed, records := r.2, heldAt := none }).purge t.id).traceStep k t 2 0

/-- Every entry carries a cancel. -/
def Ctx.allCancelled (x : Ctx) (t : StepRec) : Bool :=
  t.entries.all fun e => e.cancelled || (x.stream e.stream).cancel

/-- A held step whose every entry is cancelled leaves its barrier and ends (09 R240). -/
def Ctx.leaveBarrier (x : Ctx) (id : Nat) : Ctx :=
  match x.dispatchedStep id with
  | some (k, t) => if t.heldAt.isSome ∧ x.allCancelled t = true then x.commitStep k t [] else x
  | none => x

/-- STREAM_CANCEL, where it may start. -/
def Ctx.cancelRun (x : Ctx) (id : Nat) : Ctx :=
  x.run id 0x22 (fun _ => true) fun k x =>
    let y := x.streamCancel k
    y.chip.serve.steps.foldl (fun y t => y.leaveBarrier t.id) y

/-- A cancel that had to wait at its fetch: for an earlier command of its queue (03 R87) or a copy from the stream (08 R208). -/
def execStreamCancel (c : Fin 8) (id : Nat) (s : State) : Res := chipNext c (·.cancelRun id) s

/-- Entry `e` of pair `q` becomes a fetched command. -/
def Ctx.fetchTakes (x : Ctx) (q : Nat) (e : Bytes) : Bool :=
  x.canFetch q && !x.chip.boot.isolating && (headerStatus x q e).isNone

/-- A fetch; a cancel is observed at it, and acts there unless it has to wait (04 R106, R127). -/
def Ctx.fetch (x : Ctx) (q : Nat) (e : Bytes) : Ctx :=
  let y := x.fetchEntry q e
  if x.fetchTakes q e && byteAt e 0 == 0x22 then y.cancelRun x.chip.stew.nextId else y

/-- SUBMISSION_FETCH. -/
def execSubmissionFetch (c : Fin 8) (q : Fin 64) (entry : Bytes) (s : State) : Res := chipNext c (·.fetch q (fit 64 entry)) s

/-! ## Swap units (09 R222, R230, R233 to R235) -/

/-- Layers per unit, and units, of a model (09 R221). -/
def Model.group (m : Model) : Nat := (m.layers + 63) / 64
def Model.unitCount (m : Model) : Nat := (m.layers + m.group - 1) / m.group

/-- The segments this chip keeps. -/
def Model.kept (m : Model) : List Seg := m.segs.filter fun g => g.rank == m.rank || g.rank == 0xFFFF

/-- The barrier of unit `u` holds this step. -/
def Model.barred (m : Model) (t : StepRec) (u : Nat) : Bool :=
  let w := m.swap
  ((w.state == .writing || w.state == .broken) && u == w.front) ||
    (w.state != .idle && !w.rolling && t.bound == some false && decide (w.front ≤ u))

/-- The generation that a step binds at the entry of unit `u`. -/
def Model.boundGen (m : Model) (u : Nat) : Nat := if m.swap.state ≠ .idle ∧ u < m.swap.front then m.swap.newGen else m.gen

/-- Base and length of arena 0 on die `d`. -/
def Model.arena (m : Model) (d : Nat) : Nat × Nat :=
  let a := m.arenas.getD d (0, 0, 0, 0)
  (a.1, a.2.1)

/-- Read the descriptors of a segment: one in a bad granule is not run, and the step records the error (16 R404, R405). -/
def Ctx.readDescs (x : Ctx) (t : StepRec) (layer : Nat) (g : Seg) : Ctx × List (Nat × Bytes) :=
  let a := sliceBase x.act.superMap t.super + g.dst
  let r := x.inspect .hbm (some t.super) a g.bytes
  let x := r.2.foldl (fun x b => x.stepError t.id (srcStatus b.2) (dataDetail 0xFFFF layer 0xFFFF 1) b.1) r.1
  let ok := (List.range (g.bytes / 64)).filter fun i => !(r.2.any fun b => b.1 == a + 64 * i)
  (x, ok.map fun i => (i, (x.store .hbm).readN (a + 64 * i) 64))

/-- The code address of descriptors that the Steward builds (13 R337). -/
def stewardCode : Nat := 0xFFFFFFFFC0

/-- An operation descriptor as it is written into the work queue, raised for arena 1 (09 R223). -/
def opFor (t : StepRec) (m : Model) (layer die code : Nat) (b : Bytes) : Nat × QDesc :=
  (die, ⟨if t.arena = 1 then raiseOp (m.arena die).1 (m.arena die).2 b else b, t.id, t.super, code, layer⟩)

/-- A copy descriptor as it is written into a Forager queue; with `coll` it carries partial sums to a rank of a group (11 R290). -/
def copyFor (t : StepRec) (m : Model) (layer die code : Nat) (coll : Option (Nat × Nat)) (b : Bytes) : CopyJob :=
  ⟨if t.arena = 1 then raiseCopy m.arena b else b, t.super, none, some t.id, die, layer, 0, code, coll⟩

/-- Steward-built descriptors pass the checks of their kind (05 R132); a copy may read the step's own frames and write remote
HBM. -/
def Ctx.builtOp (x : Ctx) (t : StepRec) (o : Fin 4 × Bytes) : Bool :=
  o.2.length == 64 && (opCheck x.act.superMap x.act.micro t.super o.1 o.2).isNone

def Ctx.builtCopy (x : Ctx) (t : StepRec) (m : Model) (b : Bytes) : Bool :=
  let plain := setField (setField (setField b 3 1 0) 4 1 (byteAt b 4 / 64 * 64)) 6 2 0
  b.length == 64 && cSrc b != 0 && cDst b != 0 &&
    (copyCheck x.act.superMap t.super false (x.stream (cStream b)) plain).isNone &&
    (cSrc b != 3 || (decide (cSrcAddr b / 2 ^ 48 < m.layers) &&
      t.entries.any fun e => !e.cancelled && e.stream == cStream b && e.gen == cGen b))

/-- A copy that the Steward built may run; one of partial sums goes to space 0x4, where it names a group and a rank and no chip (01
stage 5, 11 R290). -/
def Ctx.builtMove (x : Ctx) (t : StepRec) (m : Model) (e : BuiltCopy) : Bool :=
  x.builtCopy t m e.desc &&
    match e.rank with
    | none => true
    | some r => cDst e.desc == 4 && decide (cDstAddr e.desc / 2 ^ 48 = 0) && groupPeer x.act.routes t.super r.1 r.2

/-- The work of one layer: its KIND 0x2 and 0x3 segments in manifest order, for the dies on which the Super holds Combs. -/
def Ctx.layerWork (x : Ctx) (t : StepRec) (m : Model) (layer : Nat) : Ctx × LayerWork :=
  let segs := m.kept.filter fun g => g.unit == layer / m.group && g.layer == layer % m.group && (g.kind == 2 || g.kind == 3)
  segs.foldl (fun (a : Ctx × LayerWork) g =>
    let r := a.1.readDescs t layer g
    if g.kind = 2 then
      if combsOnDie x.act.superMap t.super g.die = 0 then (r.1, a.2)
      else (r.1, { a.2 with ops := a.2.ops ++ r.2.map fun d => opFor t m layer g.die (g.codeBase + 64 * d.1) d.2 })
    else (r.1, { a.2 with copies := a.2.copies ++ r.2.map fun d => copyFor t m layer g.die 0 none d.2 })) (x, ⟨layer, [], []⟩)

/-- The work of the layers from `layer` on, `n` of them; what the Steward built joins the first one, or its frames' own layer. -/
def Ctx.unitWork (x : Ctx) (t : StepRec) (m : Model) (ops : List (Nat × QDesc)) (copies : List (Bytes × Option (Nat × Nat))) (layer : Nat) :
    Nat → Ctx × List LayerWork
  | 0 => (x, [])
  | n + 1 =>
    let r := x.layerWork t m layer
    let mine := copies.filter fun b => if cSrc b.1 = 3 then decide (cSrcAddr b.1 / 2 ^ 48 ≤ layer) else true
    let w := { r.2 with
      ops := r.2.ops ++ ops
      copies := r.2.copies ++ mine.map fun b =>
        copyFor t m layer (if cSrc b.1 = 2 then cSrcDie b.1 else cDstDie b.1) stewardCode b.2 b.1 }
    let q := r.1.unitWork t m [] (copies.filter fun b => !mine.contains b) (layer + 1) n
    (q.1, w :: q.2)

/-- A step enters the next unit, or is held at its barrier. -/
def Ctx.unitEntry (x : Ctx) (id unit : Nat) (ops : List (Fin 4 × Bytes)) (copies : List BuiltCopy) : Ctx :=
  match x.dispatchedStep id with
  | none => x
  | some (_, t) =>
    let x := x.workFor (.step id)
    let m := x.model t.model
    let g := m.group
    if t.verify ∨ unit ≠ t.units.length ∨ m.unitCount ≤ unit ∨ t.due ≠ [] ∨
        ((x.outstanding id).any fun l => decide (l + 2 ≤ unit * g)) = true then x
    else if m.barred t unit then
      let y := x.onStep id fun t => { t with heldAt := some unit }
      if y.allCancelled t then y.leaveBarrier id else y
    else
      let built := (ops.filter (x.builtOp t)).map fun o => opFor t m (unit * g) o.1 stewardCode o.2
      let moves := (copies.filter (x.builtMove t m)).map fun e => (e.desc, e.rank.map fun r => (r.1.val, r.2.val))
      let r := x.unitWork t m built moves (unit * g) (min g (m.layers - unit * g))
      let y := r.1.onStep id fun t =>
        { t with heldAt := none, units := t.units ++ [(unit, m.boundGen unit)], due := r.2 }
      y.issueDue id 4

def execStepUnitEntry (c : Fin 8) (id : Nat) (unit : Nat) (ops : List (Fin 4 × Bytes)) (copies : List BuiltCopy) (s : State) : Res :=
  chipNext c (·.unitEntry id unit ops copies) s

/-! ## Commit point of a STEP_SUBMIT (04 R117) -/

/-- Logits fall, NaN last. -/
def ranked : List Cand → Bool
  | a :: b :: r => !(lt32 a.logit b.logit) && (isNan b.logit || !isNan a.logit) && ranked (b :: r)
  | _ => true

/-- What a step has staged fits its entries: OUT_K ranked candidates per position, a logit per draft. -/
def stagedFits (t : StepRec) (vocab : Nat) (staged : List Staged) : Bool :=
  staged.length == t.entries.length &&
    (t.entries.zip staged).all fun p =>
      p.1.cancelled ||
        (p.2.cands.length == 1 + p.1.drafts && p.2.draftLogits.length == p.1.drafts &&
          p.2.cands.all fun l => l.length == t.outK && ranked l && l.all fun v => decide (v.token.toNat < vocab))

/-- Every unit has run, and nothing of the step is outstanding. -/
def Ctx.allRun (x : Ctx) (t : StepRec) : Bool :=
  t.units.length == (x.model t.model).unitCount && t.due.isEmpty && (x.outstanding t.id).isEmpty

def Ctx.stepCommit (x : Ctx) (id : Nat) (staged : List Staged) : Ctx :=
  match x.dispatchedStep id with
  | none => x
  | some (k, t) =>
    let x := x.workFor (.step id)
    if t.verify ∨ x.allRun t = false then x
    else match t.error with
      | some e => x.errorEnd k t e.1 e.2.1 e.2.2
      | none => if stagedFits t (x.model t.model).vocab staged then x.commitStep k t staged else x

def execStepCommit (c : Fin 8) (id : Nat) (staged : List Staged) (s : State) : Res := chipNext c (·.stepCommit id staged) s

/-! ## Records (04 R119, R120, R127) -/

/-- An output record of `n` positions of OUT_K slots. -/
def recordBytes (outK n : Nat) (r : OutRec) : Bytes :=
  toLE 2 r.stream ++ toLE 2 (if r.cancelled then 3 else 0) ++ toLE 1 (b2n r.late) ++ toLE 1 r.count ++ toLE 2 0 ++
    toLE 4 r.position ++ toLE 4 r.modelGen ++ toLE 8 r.bitmap ++ toLE 8 0 ++
    fit (8 * outK * n) (r.cands.flatMap fun l =>
      fit (8 * outK) (l.flatMap fun v => toLE 4 v.token.toNat ++ toLE 4 v.logit.toNat))

/-- Write the records of a committed step and post its completion. DESIGN CHOICE (log entry 96): R120 gives the completion of a
STEP_SUBMIT only; the model gives that of a committed STEP_VERIFY the same contents. -/
def Ctx.writeRecords (x : Ctx) (k : Cmd) (t : StepRec) : Ctx :=
  let gone := (t.records.filter (·.cancelled)).length
  let done := t.records.length - gone
  let out := t.records.flatMap (recordBytes t.outK (if t.verify then 8 else 1))
  x.endStep k t (t.records.any (·.late)) (if done = 0 then 3 else 0) (done + 65536 * gone) (t.records.map (·.tokens)).sum out

/-- The Steward writes the records of the oldest committed step. -/
def Ctx.drainRecords (x : Ctx) : Ctx :=
  match x.chip.serve.steps.find? fun t => t.phase == .committed with
  | none => x
  | some t =>
    match x.cmd? t.id with
    | none => x
    | some k => if x.frozen ∨ x.chip.boot.linkFatal then x else (x.workFor (.step t.id)).writeRecords k t

/-! ## Error ends (16 R404 to R406, 09 R240, 12 R316, 15 R385) -/

/-- A status without data detail that may end a step now. -/
def Ctx.mayEndWith (x : Ctx) (status : Nat) : Bool :=
  status == 0x0404 || decide (0x0500 ≤ status ∧ status ≤ 0x0504) || (status == 0x0601 && !x.chip.power.stopped.isEmpty) ||
    (status == 0x0700 && x.chip.boot.isolating)

def Ctx.stepErrorEnd (x : Ctx) (id : Nat) (err : StepErr) : Ctx :=
  match x.dispatchedStep id with
  | none => x
  | some (k, t) =>
    match t.error, err with
    | some e, _ => x.errorEnd k t e.1 e.2.1 e.2.2
    | none, .data st entry layer index source addr =>
      if 0x0400 ≤ st.toNat ∧ st.toNat ≤ 0x0402 then
        x.errorEnd k t st.toNat (dataDetail entry.toNat layer.toNat index.toNat source.toNat) addr.toNat
      else x
    | none, .status st => if x.mayEndWith st.toNat then x.errorEnd k t st.toNat 0 0 else x

def execStepErrorEnd (c : Fin 8) (id : Nat) (err : StepErr) (s : State) : Res := chipNext c (·.stepErrorEnd id err) s

def Ctx.holdLimit (x : Ctx) (id : Nat) : Ctx :=
  match x.dispatchedStep id with
  | none => x
  | some (k, t) =>
    if t.heldAt.isSome ∧ (x.model t.model).swap.holdLimit ≠ 0 then
      match t.error with
      | some e => x.errorEnd k t e.1 e.2.1 e.2.2
      | none => x.errorEnd k t 0x0208 0 0
    else x

def execStepHoldLimitExpiry (c : Fin 8) (id : Nat) (s : State) : Res := chipNext c (·.holdLimit id) s

/-- A step that stalls: remote where its oldest waiting descriptor waits on a collective arrival or a remote copy. -/
def Ctx.stepStall (x : Ctx) (id : Nat) (remote : Bool) : Ctx :=
  match x.dispatchedStep id with
  | none => x
  | some (k, t) =>
    if t.heldAt.isSome ∨ t.verify then x
    else match t.error with
      | some e => x.errorEnd k t e.1 e.2.1 e.2.2
      | none => if remote then x.errorEnd k t 0x0502 0 0 else x.errorEnd k t 0x0404 0x0100 0

def execStepStall (c : Fin 8) (id : Nat) (remote : Bool) (s : State) : Res := chipNext c (·.stepStall id remote) s

/-! ## STEP_VERIFY (04 R123 to R126) -/

/-- A verify entry. -/
def verifyEntry (b : Bytes) : PlanEntry where
  stream := field b 0 2 % 4096
  gen := field b 2 2
  expected := field b 4 4
  decode := true
  drafts := bitsAt b 8 0 4
  newFrames := 0
  tokens := 0
  tokenPtr := 0
  accept := bitsAt b 9 0 4
  cancelled := false
  appended := 0
  oldLen := 0

/-- Reserved bits and encodings of a verify entry. -/
def verifyReserved (b : Bytes) : Bool :=
  bitsAt b 1 4 4 != 0 || bitsAt b 8 4 4 != 0 || bitsAt b 9 4 4 != 0 || !zeros b 10 16 ||
    decide (9 ≤ bitsAt b 9 0 4 ∧ bitsAt b 9 0 4 ≤ 14)

/-- The checks of the verify entries: the ranges of their fields, then R103, then the tentative ranges, each over all entries in
order; an entry whose stream is cancelled passes the checks after its GEN (04 R123, R124). DESIGN CHOICE (log entry 96): a check
carries the number under which R115 lists its like for a step plan. -/
def Ctx.verifyEntries (x : Ctx) (s outK : Nat) (es : List PlanEntry) : Option PlanFail :=
  let live := fun (e : PlanEntry) (p : Stream → Bool) => !(x.stream e.stream).cancel && p (x.stream e.stream)
  let range := fun (e : PlanEntry) (p : Tent → Bool) => live e fun t => match t.tent with | some r => p r | none => true
  firstFailure [
    entryFail 0x0105 2 es fun e => decide (e.drafts < 1 ∨ 8 < e.drafts ∨ (e.accept ≠ 0xF ∧ e.drafts < e.accept)),
    entryFail 0x0209 5 es fun e => superOfStream x.act.superMap e.stream != some s,
    entryFail 0x0203 7 es fun e => e.gen != (x.stream e.stream).gen,
    entryFail 0x0201 9 es fun e => live e fun t => t.state != .opened,
    entryFail 0x0202 0xB es fun e => range e fun r => decide (r.base ≠ e.expected ∨ r.count ≠ e.drafts),
    entryFail 0x0105 1 es fun e => range e fun r => decide (r.outK < outK)]

/-- STEP_VERIFY. DESIGN CHOICE (log entry 96): the spec has no check for a stream that is named twice; the model refuses it as
R115 does for a step plan. -/
def Ctx.stepVerify (x : Ctx) (k : Cmd) (data : Bytes) : Ctx :=
  let n := k.arg 32 2
  let outK := k.arg 28 1
  let raw := chunks n 16 (fit (16 * n) data)
  let es := raw.map verifyEntry
  let bad := firstFailure [
    wholeFail 0x0105 1 (decide (outK < 1 ∨ 64 < outK ∨ n < 1 ∨ 4096 < n)), entryFail 0x0100 0 raw verifyReserved,
    secondNaming es 0x0107 3, x.verifyEntries (x.sup k) outK es]
  match bad with
  | some f => x.planRefuse k f
  | none =>
    let es := es.map x.markEntry
    let t := newStep k (x.sup k) 0 outK 0 true es .dispatched
    let y := x.addStep t
    let y := es.foldl (fun y e => if e.cancelled then y else y.setStream e.stream { y.stream e.stream with state := .running }) y
    (y.setPhase k.id .running).activate.traceStep k t 1 0

/-- STEP_VERIFY starts once the streams it names are free of earlier commands and of copies from their frames (03 R87, 08 R208). -/
def execStepVerify (c : Fin 8) (id : Nat) (data : Bytes) (s : State) : Res :=
  chipNext c (fun x =>
    let n := match x.cmd? id with | some k => k.arg 32 2 | none => 0
    let ss := (chunks n 16 (fit (16 * n) data)).map fun b => field b 0 2 % 4096
    match x.start? id 0x31 (fun _ => true) (some ss) with
    | none => x
    | some k => if ss.any x.copyReads then x else (x.begin k).stepVerify k data) s

/-- How many drafts MATCH accepts: each must carry the highest logit at its position (04 R125). -/
def matchCount : List Word32 → List (List Cand) → Nat
  | g :: r, (c :: _) :: l => if eq32 g c.logit then 1 + matchCount r l else 0
  | _, _ => 0

/-- The commit of one verify entry, and its record (04 R124). An entry that was CANCELLED when the verify started leaves its
stream alone: whoever holds the ID now is another occupant. DESIGN CHOICE (log entry 96): with its tentative range gone, the
record's MODEL_GEN and LAYER_BITMAP are 0. -/
def Ctx.verifyCommitEntry (x : Ctx) (super : Nat) (e : PlanEntry) : Ctx × OutRec :=
  let s := x.stream e.stream
  match (if e.cancelled then none else s.tent) with
  | none => (x, ⟨e.stream, e.gen, true, false, 0, e.expected, 0, 0, 0, []⟩)
  | some r =>
    if s.cancel then
      let y := x.dropTent super e.stream true
      (y.setStream e.stream { y.stream e.stream with state := .closed },
        ⟨e.stream, e.gen, true, false, 0, s.position, r.modelGen, r.bitmap, 0, []⟩)
    else
      let a := if e.accept = 0xF then matchCount r.logits r.cands else e.accept
      let pos := r.base + a
      let y := (x.count 6 super 1 a).count 6 super 2 (r.count - a)
      let y := y.cutTable super e.stream ((pos + 63) / 64)
      (y.setStream e.stream { y.stream e.stream with state := .opened, position := pos, tent := none },
        ⟨e.stream, e.gen, false, false, a, pos, r.modelGen, r.bitmap, a, (r.cands.drop 1).take a⟩)

def Ctx.verifyCommitEntries (x : Ctx) (super : Nat) : List PlanEntry → Ctx × List OutRec
  | [] => (x, [])
  | e :: r =>
    let a := x.verifyCommitEntry super e
    let b := a.1.verifyCommitEntries super r
    (b.1, a.2 :: b.2)

def Ctx.verifyCommit (x : Ctx) (id : Nat) : Ctx :=
  match x.dispatchedStep id with
  | none => x
  | some (k, t) =>
    if t.verify then
      let r := x.verifyCommitEntries t.super t.entries
      (r.1.onStep id fun t => { t with phase := .committed, records := r.2 }).traceStep k t 2 0
    else x

def execStepVerifyCommit (c : Fin 8) (id : Nat) (s : State) : Res := chipNext c (·.verifyCommit id) s

end Sys2Proof.Machine
end

