-- ==== Sys2Proof/Machine/Models.lean ====
section
/-! DEFINITION. Models: loading, distribution trees, unloading and in-place swaps (09 R220 to R241). -/
namespace Sys2Proof.Machine

/-! ## The manifest (09 R221) -/

def mfLayers (b : Bytes) : Nat := field b 2 2
def mfSegCount (b : Bytes) : Nat := field b 4 2
def mfVocab (b : Bytes) : Nat := field b 8 4

/-- ARENA_BASE, ARENA_BYTES, ARENA_FIXED and ACT_PER_TOKEN of dies 0 to 3. -/
def mfArenas (b : Bytes) : List (Nat × Nat × Nat × Nat) :=
  (List.range 4).map fun d => (field b (16 + 4 * d) 4, field b (32 + 4 * d) 4, field b (48 + 4 * d) 4, field b (64 + 4 * d) 4)

/-- The segment in a 48 B entry. -/
def segOf (b : Bytes) : Seg :=
  ⟨bitsAt b 0 0 4, bitsAt b 0 4 2, byteAt b 1, byteAt b 2, field b 4 2, field b 8 8, field b 16 8, field b 24 8, field b 32 5⟩

/-- Reserved bits and encodings of a segment entry. -/
def segReserved (b : Bytes) : Bool :=
  decide (4 ≤ bitsAt b 0 0 4) || bitsAt b 0 6 2 != 0 || byteAt b 3 != 0 || field b 6 2 != 0 || !zeros b 37 48

/-- Reserved bits and encodings of the header. -/
def headerReserved (b : Bytes) : Bool :=
  byteAt b 0 != 1 || bitsAt b 1 3 5 != 0 || decide (5 ≤ bitsAt b 1 0 3) || field b 6 2 != 0 || field b 12 4 != 0 || !zeros b 80 128

/-- The model that a manifest describes, not yet loaded. -/
def modelOf (super rank : Nat) (b : Bytes) (segs : List Seg) : Model :=
  { Model.empty with
    loading := true, super := super, rank := rank, frameSize := bitsAt b 1 0 3, layers := mfLayers b, vocab := mfVocab b
    arenas := mfArenas b, segs := segs }

/-- This model keeps a segment. -/
def Model.keeps (m : Model) (g : Seg) : Bool := g.rank == m.rank || g.rank == 0xFFFF

/-! ## Placement ranges (09 R223, R226 check 8) -/

/-- A range in a memory: the Comb store of dies 0 to 3, or 4 for the Super's general area. -/
abbrev Place := Nat × Range

def Seg.place (g : Seg) : Place := (if g.kind = 1 then g.die else 4, (g.dst, g.bytes))

/-- The two arenas of each die. -/
def Model.arenaPlaces (m : Model) : List Place :=
  (List.range m.arenas.length).flatMap fun d =>
    let a := m.arena d
    if a.2 = 0 then [] else [(d, (a.1, 2 * a.2))]

def Place.meets (p q : Place) : Bool := p.1 == q.1 && p.2.meets q.2

/-- A place lies in the Super's general area or Comb store slice. -/
def Ctx.placeOk (x : Ctx) (super : Nat) (p : Place) : Bool :=
  let m := x.act.superMap
  if p.1 = 4 then decide (p.2.1 + p.2.2 ≤ generalBytes m super) else p.2.inside (sliceRange m super p.1)

/-- Places of the other models that this one must not meet: their general areas differ where their Supers do. -/
def Ctx.otherPlaces (x : Ctx) (id super : Nat) : List Place :=
  x.chip.serve.models.flatMap fun e =>
    if e.1 = id then []
    else ((e.2.kept.map Seg.place).filter fun p => p.1 != 4 || e.2.super == super) ++ e.2.arenaPlaces

/-! ## Checks of a load (09 R226) -/

/-- The segments whose contents a load reads: those it keeps, and with children every one (09 R226 to R228). -/
def loadReads (k : Cmd) (m : Model) (g : Seg) : Bool := m.keeps g || k.arg 38 1 != 0

/-- A refusal: status, RESULT0, RESULT1. -/
abbrev Refuse := Nat × Nat × Nat

def orElse' (a : Option Refuse) (b : Unit → Option Refuse) : Option Refuse := match a with | some r => some r | none => b ()

/-- Check 2. -/
def loadFields (k : Cmd) : Bool :=
  let source := bitsAt k.entry 29 1 2
  let n := k.arg 38 1
  let tree := source = 2 ∨ 0 < n
  decide (63 < k.arg 28 1 ∨ k.arg 30 2 = 0xFFFF ∨ 10 < n ∨ (tree ∧ k.arg 39 1 = 0) ∨ (source = 2 ∧ k.arg 36 2 = 0) ∨
    (source ≠ 2 ∧ k.arg 36 2 ≠ 0) ∨ (¬ tree ∧ k.arg 39 1 ≠ 0)) ||
  (List.range 10).any fun j => decide (n ≤ j ∧ k.arg (44 + 2 * j) 2 ≠ 0)

/-- Check 7 on the header. -/
def headerRange (b : Bytes) : Bool :=
  decide (mfLayers b < 1 ∨ 256 < mfLayers b ∨ mfSegCount b < 1 ∨ mfVocab b < 1 ∨ 16777216 < mfVocab b) ||
    (mfArenas b).any fun a => a.1 % 64 != 0 || a.2.1 % 64 != 0

/-- Check 7 on segment `i`. -/
def segRange (m : Model) (segs : List Seg) (i : Nat) (g : Seg) : Bool :=
  decide (m.unitCount ≤ g.unit ∨ m.group ≤ g.layer ∨ m.layers ≤ g.unit * m.group + g.layer ∨ (g.kind = 0 ∧ g.die ≠ 0) ∨
    (g.kind ≠ 2 ∧ g.codeBase ≠ 0) ∨ g.bytes < 64 ∨ 2 ^ 32 < g.bytes ∨ g.bytes % 64 ≠ 0) ||
  (decide (2 ≤ g.kind) && (segs.take i).any fun h => decide (h.kind ≤ 1))

/-- A layer has no KIND 0x2 segment for some die on which the Super holds Combs. -/
def Ctx.layerMissing (x : Ctx) (m : Model) : Bool :=
  (List.range m.layers).any fun l =>
    (List.range 4).any fun d =>
      decide (0 < combsOnDie x.act.superMap m.super d) &&
        !(m.kept.any fun g => g.kind == 2 && g.die == d && g.unit * m.group + g.layer == l)

/-- Check 8 on segment `i`, whose contents are read where `reads` says so. -/
def Ctx.segPlace (x : Ctx) (id : Nat) (m : Model) (source : Nat) (reads : Seg → Bool) (segs : List Seg) (i : Nat) (g : Seg) : Bool :=
  (m.keeps g &&
    (!x.placeOk m.super g.place ||
      ((segs.take i).any fun h => m.keeps h && g.place.meets h.place) ||
      ((x.otherPlaces id m.super ++ m.arenaPlaces).any g.place.meets))) ||
  (reads g && ((source == 1 && !x.placeOk m.super (4, (g.src, g.bytes))) || (source == 0 && decide (2 ^ 64 < g.src + g.bytes))))

/-- Checks 1 to 8 of a load, but for what its descriptors contribute to check 8. Reserved bits are refused in every entry that the
Steward reads (00 R15). -/
def Ctx.loadCheck (x : Ctx) (k : Cmd) (b : Bytes) (raw : List Bytes) (m : Model) : Option Refuse :=
  let id := k.arg 28 1
  let old := x.model id
  let segs := m.segs
  let at' := fun (p : Nat → Seg → Bool) => (List.range segs.length).find? fun i => (segs[i]?.map (p i)).getD false
  orElse' (if headerReserved b ∨ raw.any segReserved = true then some (0x0100, 0, 0) else none) fun _ =>
  orElse' (if loadFields k then some (0x0105, 0, 0) else none) fun _ =>
  orElse' (if (old.gen ≠ 0 ∨ old.loading) ∧ old.super ≠ m.super then some (0x0209, 0, 0) else none) fun _ =>
  orElse' (if k.arg 32 4 ≠ 0 ∨ old.gen ≠ 0 ∨ old.loading then some (0x0203, 0, 0) else none) fun _ =>
  orElse' (if headerRange b then some (0x0105, 0xFFFF, 0) else none) fun _ =>
  orElse' ((at' (segRange m segs)).map fun i => (0x0105, i, 0)) fun _ =>
  orElse' (if x.layerMissing m then some (0x0105, 0xFFFF, 0) else none) fun _ =>
  orElse' (if (m.arenaPlaces.any fun p => !x.placeOk m.super p || (x.otherPlaces id m.super).any p.meets) = true
    then some (0x0105, 0xFFFF, 0) else none) fun _ =>
  (at' (x.segPlace id m (bitsAt k.entry 29 1 2) (loadReads k m) segs)).map fun i => (0x0105, i, 0)

/-! ## Descriptors: the arenas they keep to (check 8), and their own checks (check 9) (09 R223, R226) -/

/-- The Comb store ranges of a descriptor: (die, range). -/
def descRanges (kind die : Nat) (b : Bytes) : List (Nat × Range) :=
  if kind = 2 then
    (if dOp b = 3 ∨ dOp b = 4 then rowRanges b
     else if dOp b = 1 ∨ dOp b = 2 then matrixReads b ++ matrixWrites b else []).map fun r => (die, r)
  else (if cSrc b = 2 then [(cSrcDie b, cSrcRange b)] else []) ++ if cDst b = 2 then [(cDstDie b, cDstRange b)] else []

/-- A range lies partly in the arenas, or in arena 1. -/
def Model.breaksArena (m : Model) (d : Nat) (r : Range) : Bool :=
  let a := m.arena d
  r.2 != 0 && r.meets (a.1, 2 * a.2) && !r.inside (a.1, a.2)

/-- A kept descriptor segment. -/
def Model.keepsDescs (m : Model) (g : Seg) : Bool := (g.kind == 2 || g.kind == 3) && m.keeps g

/-- Descriptor `j` of a segment's contents. -/
def descAt (bs : Bytes) (j : Nat) : Bytes := (bs.drop (64 * j)).take 64

/-- Check 8 on the descriptors of segment `i`: a range that breaks R223. -/
def Model.arenaFail (m : Model) (i : Nat) (g : Seg) (n : Nat) (bs : Bytes) : Option Refuse :=
  if m.keepsDescs g && (List.range n).any fun j => (descRanges g.kind g.die (descAt bs j)).any fun r => m.breaksArena r.1 r.2 then
    some (0x0105, i, 0)
  else none

/-- Check 9 on descriptor `j` of segment `i`. -/
def Ctx.descFail (x : Ctx) (m : Model) (i : Nat) (g : Seg) (j : Nat) (b : Bytes) : Option Refuse :=
  (if g.kind = 2 then opCheck x.act.superMap x.act.micro m.super g.die b else copyCheck x.act.superMap m.super true .free b).map
    fun f => (f.1, i + 2 ^ 16 * j + 2 ^ 48 * f.2, if g.kind = 2 then g.codeBase + 64 * j else 0)

/-- Descriptors of a segment's contents that could be read. -/
def descCount (g : Seg) (d : SegData) : Nat := (match d.err with | some e => e.2 | none => g.bytes) / 64

/-- The first failure of a segment's contents: its descriptors in order up to a source error, then that error (09 R227). -/
def Ctx.segFail (x : Ctx) (m : Model) (i : Nat) (g : Seg) (d : SegData) : Option Refuse :=
  let desc := if m.keepsDescs g then (List.range (descCount g d)).findSome? fun j => x.descFail m i g j (descAt d.bytes j) else none
  match desc, d.err with
  | some f, _ => some f
  | none, some e => some (srcStatus e.1, i + 2 ^ 16 * e.2, 0)
  | none, none => none

/-- Check 8 on the descriptors of every segment, before check 9 of any. -/
def Model.arenasFail (m : Model) (segs : List Seg) (data : List SegData) : Option Refuse :=
  (List.range segs.length).findSome? fun i =>
    match segs[i]?, data[i]? with
    | some g, some d => m.arenaFail i g (descCount g d) d.bytes
    | _, _ => none

/-! ## Placing -/

/-- The memory and address of a segment's destination. -/
def Ctx.segDst (x : Ctx) (m : Model) (g : Seg) : Spc × Nat :=
  if g.kind = 1 then (.sram g.die, g.dst) else (.hbm, sliceBase x.act.superMap m.super + g.dst)

/-- Write bytes at an offset of a kept segment. -/
def Ctx.putSeg (x : Ctx) (m : Model) (g : Seg) (off : Nat) (bs : Bytes) : Ctx :=
  if m.keeps g then
    let d := x.segDst m g
    (if g.kind = 1 then x.crossDie g.die 1 bs.length else x).put d.1 (some m.super) (d.2 + off) bs
  else x

/-- Give the ranges that a manifest names undefined contents (09 R226). -/
def Ctx.blurModel (x : Ctx) (m : Model) : Ctx :=
  m.kept.foldl (fun x g => let d := x.segDst m g; x.blur d.1 d.2 g.bytes) x

/-- The contents of a segment from the Super's general area (SOURCE 0x1). -/
def Ctx.areaData (x : Ctx) (m : Model) (g : Seg) : Ctx × SegData :=
  let a := sliceBase x.act.superMap m.super + g.src
  let r := x.inspect .hbm (some m.super) a g.bytes
  (r.1, ⟨(r.1.store .hbm).readN a g.bytes, r.2.head?.map fun e => (e.2, e.1 - a)⟩)

/-- The contents of the segments that are read: as the host gave them, whose error is a host read error of
whatever kind (09 R227; 16 R410), or from the general area. -/
def Ctx.segData (x : Ctx) (m : Model) (source : Nat) (reads : Seg → Bool) (src : List SegData) : List Seg → Ctx × List SegData
  | [] => (x, [])
  | g :: r =>
    let d :=
      if reads g = false then (x, ⟨[], none⟩)
      else if source = 1 then x.areaData m g
      else (x.pcieBytes g.bytes, let d := src.headD ⟨[], none⟩; ⟨fit g.bytes d.bytes, d.err.map fun e => (.hostRead, e.2)⟩)
    let q := d.1.segData m source reads src.tail r
    (q.1, d.2 :: q.2)

/-! ## The Foragers of a load from the general area (01 R26, 08 R202) -/

/-- The kept segments that move from HBM to a Comb store. -/
def Model.pinned (m : Model) (segs : List Seg) : List Seg := segs.filter fun g => g.kind == 1 && m.keeps g

/-- A Forager of die `d` that has nothing to do, the lowest. -/
def Ctx.idleForager (x : Ctx) (d : Nat) : Option Nat :=
  ((List.range 4).map (4 * d + ·)).find? fun f => (x.forager f).running.isNone && (x.forager f).queue.isEmpty

/-- Every segment that moves from HBM to a Comb store has a Forager that is free. -/
def Ctx.foragersFree (x : Ctx) (m : Model) (source : Nat) (segs : List Seg) : Bool :=
  source != 1 || (m.pinned segs).all fun g => (x.idleForager g.die).isSome

/-- A Forager moves a segment: one Steward-built copy through its queue (09 R226, 13 R338, R348). -/
def Ctx.carry (x : Ctx) (m : Model) (g : Seg) : Ctx :=
  match x.idleForager g.die with
  | some f => (((x.charge g.die (1200 * g.bytes)).queueIn (4 + f) 1).queueOut (4 + f) 1).trace 4 (136 + f) (some m.super) none stewardCode 0 g.bytes 0
  | none => x

def Ctx.carryAll (x : Ctx) (m : Model) (source : Nat) (segs : List Seg) : Ctx :=
  if source = 1 then (m.pinned segs).foldl (fun x g => x.carry m g) x else x

/-! ## Trees (09 R228) -/

/-- The tag of a message of model `id` to tree child `d`. -/
def childTag (id d : Nat) : Nat := 65536 + 32768 * id + d

/-- Send the granules of a piece of segment `i` of model `id` to child `d`. -/
def Ctx.sendPiece (x : Ctx) (id : Nat) (m : Model) (key i : Nat) (g : Seg) (d off : Nat) (bs : Bytes) : Ctx :=
  let h := msgHead 4 (bs.length / 64) d (x.chipId.getD 0) m.super 0 0 0 (key + 2 ^ 32 * i) (off / 64) (g.bytes / 64)
  x.sendMsg ⟨h ++ bs, d, 3, some (childTag id d)⟩

/-- Send a whole segment to child `d`, 16 granules a message. -/
def Ctx.sendSeg (x : Ctx) (id : Nat) (m : Model) (key i : Nat) (g : Seg) (bs : Bytes) (d : Nat) : Ctx :=
  let l := chunks ((g.bytes + 1023) / 1024) 1024 bs
  (List.range l.length).foldl (fun x j => x.sendPiece id m key i g d (1024 * j) (l.getD j [])) x

/-- Something with this tag has not left yet. -/
def Ctx.tagWaits (x : Ctx) (t : Nat) : Bool :=
  ((x.chip.fab.noPort ++ x.chip.fab.txWait).any fun m => m.tag == some t) ||
    x.chip.fab.ports.any fun p => p.2.vcs.any fun c => c.2.tx.any fun s => s.tag == some t

/-- The slots of a buffer without the messages of tag `t` that have not begun to leave. -/
def dropTag (t : Nat) (tx : List Slot) : List Slot :=
  tx.takeWhile (fun s => !s.start) ++ (tx.dropWhile fun s => !s.start).filter fun s => s.tag != some t

/-- Sending of what has this tag stops: what has not begun to leave is dropped (09 R228). -/
def Ctx.stopTag (x : Ctx) (t : Nat) : Ctx :=
  x.onFab fun f =>
    { f with
      noPort := f.noPort.filter fun m => m.tag != some t
      txWait := f.txWait.filter fun m => m.tag != some t
      ports := f.ports.map fun p => (p.1, { p.2 with vcs := p.2.vcs.map fun c => (c.1, { c.2 with tx := dropTag t c.2.tx }) }) }

/-- RESULT1 of a load: the children that stopped. -/
def Tree.stopped (t : Tree) : Nat :=
  (List.range t.children.length).foldl (fun n j => n + if (t.children[j]?.map (·.2)).getD false then 2 ^ j else 0) 0

/-- A load whose segments have all come and gone on to its children completes. -/
def Ctx.settleLoad (x : Ctx) (id : Nat) : Ctx :=
  let m := x.model id
  match m.tree with
  | none => x
  | some t =>
    match x.cmd? t.cmd with
    | none => x
    | some k =>
      if t.left ≠ 0 ∨ (t.children.any fun c => !c.2 && x.tagWaits (childTag id c.1)) = true then x
      else (x.setModel id { m with gen := 1, loading := false, tree := none }).done k 0 1 t.stopped

def Ctx.settleLoads (x : Ctx) : Ctx := x.chip.serve.models.foldl (fun x e => x.settleLoad e.1) x

/-- A load in progress is refused: no model is created, and nothing more goes to its children. -/
def Ctx.abortLoad (x : Ctx) (id : Nat) (f : Refuse) : Ctx :=
  let m := x.model id
  match m.tree with
  | none => x
  | some t =>
    match x.cmd? t.cmd with
    | none => x
    | some k =>
      let x := t.children.foldl (fun x c => x.stopTag (childTag id c.1)) x
      ((x.blurModel m).setModel id .empty).refuse k f.1 f.2.1 f.2.2

/-! ## MODEL_LOAD (09 R225 to R228) -/

/-- Place every segment, or find the first failure. -/
def Ctx.placeSegs (x : Ctx) (m : Model) (i : Nat) : List Seg → List SegData → Ctx × Option Refuse
  | [], _ => (x, none)
  | g :: r, l =>
    let d := l.headD ⟨[], none⟩
    match x.segFail m i g d with
    | some f => (x, some f)
    | none => (x.putSeg m g 0 d.bytes).placeSegs m (i + 1) r l.tail

/-- Send segment `i` to every child. -/
def Ctx.sendOne (x : Ctx) (id : Nat) (m : Model) (key : Nat) (children : List (Nat × Bool)) (src : List SegData) (i : Nat) : Ctx :=
  match m.segs[i]?, src[i]? with
  | some g, some s => children.foldl (fun x c => x.sendSeg id m key i g s.bytes c.1) x
  | _, _ => x

def Ctx.modelLoad (x : Ctx) (k : Cmd) (manifest : Bytes) (src : List SegData) : Ctx :=
  let id := k.arg 28 1
  let source := bitsAt k.entry 29 1 2
  let b := fit k.dataLen manifest
  let n := mfSegCount b
  if k.dataLen < 128 + 48 * n then x.refuse k 0x0104 0 0
  else
    let raw := chunks n 48 ((b.drop 128).take (48 * n))
    let m := modelOf (x.sup k) (k.arg 30 2) b (raw.map segOf)
    match x.loadCheck k b raw m with
    | some f => x.refuse k f.1 f.2.1 f.2.2
    | none =>
      let children := (List.range (k.arg 38 1)).map fun j => (k.arg (44 + 2 * j) 2 % 32768, false)
      let key := k.arg 40 4
      if source = 2 then
        let t : Tree := ⟨k.id, key, some (k.arg 36 2 % 32768), children, (m.segs.map fun g => g.bytes / 64).sum⟩
        (x.setModel id { m with tree := some t }).setPhase k.id .running
      else
        let d := x.segData m source (loadReads k m) src m.segs
        match m.arenasFail m.segs d.2 with
        | some f => d.1.refuse k f.1 f.2.1 f.2.2
        | none =>
        let r := (d.1.carryAll m source m.segs).placeSegs m 0 m.segs d.2
        match r.2 with
        | some f => (onlyIf (f.1 == 0x0403) (·.readFails) (r.1.blurModel m)).refuse k f.1 f.2.1 f.2.2
        | none =>
          if children = [] then (r.1.setModel id { m with gen := 1, loading := false }).done k 0 1 0
          else
            let y := (r.1.setModel id { m with tree := some ⟨k.id, key, none, children, 0⟩ }).setPhase k.id .running
            ((List.range m.segs.length).foldl (fun y i => y.sendOne id m key children d.2 i) y).settleLoads

/-- The Foragers that a load needs have nothing to do: until then it waits (log entry 34). -/
def Ctx.loadMayMove (x : Ctx) (k : Cmd) (manifest : Bytes) : Bool :=
  let b := fit k.dataLen manifest
  let segs := (chunks (mfSegCount b) 48 ((b.drop 128).take (48 * mfSegCount b))).map segOf
  x.foragersFree (modelOf (x.sup k) (k.arg 30 2) b segs) (bitsAt k.entry 29 1 2) segs

def execModelLoad (c : Fin 8) (id : Nat) (manifest : Bytes) (src : List SegData) (s : State) : Res :=
  chipNext c (fun x =>
    x.run id 0x40 (fun k => !bitAt k.entry 29 0 && x.loadMayMove k manifest) fun k x => x.modelLoad k manifest src) s

/-- The loads that wait for segments from this chip. -/
def Ctx.loadsFrom (x : Ctx) (src : Nat) : List (Nat × Model × Tree) :=
  x.chip.serve.models.filterMap fun e => match e.2.tree with
    | some t => if t.parent = some src then some (e.1, e.2, t) else none
    | none => none

/-- The load that a segment from this chip belongs to: the one with its LOAD_KEY, or else the oldest that waits for the chip. -/
def Ctx.loadFrom (x : Ctx) (src key : Nat) : Option (Nat × Model × Tree) :=
  let l := x.loadsFrom src
  match l.find? fun e => e.2.2.key == key with
  | some e => some e
  | none => l.foldl (fun m e => match m with
    | none => some e
    | some a => if e.2.2.cmd < a.2.2.cmd then some e else some a) none

/-- The first granule that a POISON field marks. -/
def firstPoison (b : Bytes) : Nat := ((List.range (mLen b)).find? fun g => bit (mPoison b) g).getD 0

/-- A piece of segment `i` of the model that loads from this sender. -/
def Ctx.pieceIn (x : Ctx) (b : Bytes) (id : Nat) (m : Model) (t : Tree) (i : Nat) (g : Seg) : Ctx :=
  let off := 64 * mAux0 b
  let data := (mData b).take (64 * mLen b)
  if mAddr b % 2 ^ 32 ≠ t.key ∨ 64 * mAux1 b ≠ g.bytes ∨ g.bytes < off + data.length then x.abortLoad id (0x0504, 0, 0)
  else if mPoison b ≠ 0 then x.abortLoad id (0x0402, i + 2 ^ 16 * (off + 64 * firstPoison b), 0)
  else
    let x := (t.children.filter fun c => !c.2).foldl (fun x c => x.sendPiece id m t.key i g c.1 off data) x
    let bad := orElse' (m.arenaFail i g (mLen b) data) fun _ =>
      if m.keepsDescs g then (List.range (mLen b)).findSome? fun j => x.descFail m i g (off / 64 + j) (descAt data j) else none
    match bad with
    | some f => x.abortLoad id f
    | none =>
      let x := x.putSeg m g off data
      (x.setModel id { m with tree := some { t with left := t.left - mLen b } }).settleLoad id

/-- A LOAD_SEGMENT message for the load that waits for it. -/
def Ctx.segmentIn (x : Ctx) (b : Bytes) : Ctx :=
  match x.loadFrom (mSrc b) (mAddr b % 2 ^ 32) with
  | none => x
  | some l =>
    match l.2.1.segs[bits (mAddr b) 32 16]? with
    | none => x.abortLoad l.1 (0x0504, 0, 0)
    | some g => x.pieceIn b l.1 l.2.1 l.2.2 (bits (mAddr b) 32 16) g

/-- A LOAD_SEGMENT message: kept, forwarded, checked against this chip's manifest. -/
def Ctx.segmentReceive (x : Ctx) (p vc : Nat) : Ctx := x.onMsg p vc 4 (fun x _ => x) fun x b => x.segmentIn b

def execLoadSegmentReceive (c : Fin 8) (p : Fin 18) (s : State) : Res :=
  chipNext c (fun x => let y := x.segmentReceive p 3; if y = x then x.segmentReceive p 5 else y) s

/-- Nothing has come from PARENT for LOAD_TIMEOUT. -/
def Ctx.loadTimeout (x : Ctx) (id : Nat) : Ctx :=
  match x.chip.serve.models.find? fun e => (e.2.tree.map fun t => decide (t.cmd = id ∧ t.parent.isSome = true ∧ t.left ≠ 0)) == some true with
  | none => x
  | some e => if x.frozen then x else x.abortLoad e.1 (0x0502, 0, 0)

def execLoadTimeout (c : Fin 8) (id : Nat) (s : State) : Res := chipNext c (·.loadTimeout id) s

/-- A child has accepted nothing for LOAD_TIMEOUT: sending to it stops. -/
def Ctx.childTimeout (x : Ctx) (id child : Nat) : Ctx :=
  match x.chip.serve.models.find? fun e => (e.2.tree.map (·.cmd)) == some id with
  | none => x
  | some e =>
    match e.2.tree with
    | none => x
    | some t =>
      let t' := { t with children := (List.range t.children.length).map fun j =>
        let c := t.children.getD j (0, false)
        if j = child then (c.1, true) else c }
      if x.frozen then x
      else
        let x := match t.children[child]? with | some c => x.stopTag (childTag e.1 c.1) | none => x
        (x.setModel e.1 { e.2 with tree := some t' }).settleLoad e.1

def execChildTimeout (c : Fin 8) (id : Nat) (child : Fin 10) (s : State) : Res := chipNext c (·.childTimeout id child) s

/-- A flit time of port `p`; what it sends may be the last of a tree load. -/
def execFlitTransmit (c : Fin 8) (p : Fin 18) (s : State) : Res := chipNext c (fun x => (x.flitTransmit p).settleLoads) s

/-! ## Unload (09 R229) -/

def Ctx.modelUnload (x : Ctx) (k : Cmd) : Ctx :=
  let id := k.arg 28 1
  let m := x.model id
  if 63 < id then x.refuse k 0x0105 0 0
  else if (m.gen ≠ 0 ∨ m.loading) ∧ m.super ≠ x.sup k then x.refuse k 0x0209 0 0
  else if k.arg 32 4 ≠ m.gen ∨ m.gen = 0 then x.refuse k 0x0203 0 0
  else if m.swap.state ≠ .idle then x.refuse k 0x0207 0 0
  else if x.chip.serve.streams.any fun e => e.2.state != .free && e.2.model == id then x.refuse k 0x0201 0 0
  else (x.setModel id .empty).done k 0 0 0

def execModelUnload (c : Fin 8) (id : Nat) (s : State) : Res :=
  chipNext c (fun x => x.run id 0x40 (fun k => bitAt k.entry 29 0) fun k x => x.modelUnload k) s

/-! ## Swaps (09 R233 to R241) -/

/-- The checks of SWAP_BEGIN. -/
def Ctx.swapCheck (x : Ctx) (k : Cmd) : Option Nat :=
  let m := x.model (k.arg 28 1)
  if (m.gen ≠ 0 ∨ m.loading) ∧ m.super ≠ x.sup k then some 0x0209
  else if m.gen = 0 then some 0x0105
  else if k.arg 32 4 ≠ m.gen then some 0x0203
  else if m.swap.state ≠ .idle then some 0x0207
  else if 10000000 < k.arg 36 4 then some 0x0105
  else none

def Ctx.swapBegin (x : Ctx) (k : Cmd) : Ctx :=
  match x.swapCheck k with
  | some st => x.refuse k st 0 0
  | none => x.setPhase k.id .running

def execSwapBegin (c : Fin 8) (id : Nat) (s : State) : Res :=
  chipNext c (fun x => x.run id 0x41 (fun _ => true) fun k x => x.swapBegin k) s

/-- Every earlier STEP_SUBMIT of the queue that names the model is ready (09 R234). -/
def Ctx.earlierReady (x : Ctx) (k : Cmd) : Bool :=
  x.chip.stew.cmds.all fun a =>
    a.qp != k.qp || decide (k.id ≤ a.id) || a.opcode != 0x30 || a.arg 28 1 != k.arg 28 1 ||
      match x.step? a.id with | some t => t.phase != .waiting | none => false

def Ctx.swapTakeEffect (x : Ctx) (id : Nat) : Ctx :=
  match x.running? id 0x41 with
  | none => x
  | some k =>
    if x.earlierReady k = false ∨ x.frozen = true then x
    else match x.swapCheck k with
      | some st => x.refuse k st 0 0
      | none =>
        let mid := k.arg 28 1
        let m := x.model mid
        let rolling := bitAt k.entry 29 0
        let x := if rolling then x else x.onServe fun v =>
          { v with steps := v.steps.map fun t =>
              if t.model = mid ∧ t.verify = false ∧ (t.wasReady = true ∨ t.phase ≠ .waiting) then { t with bound := some true } else t }
        let st := if !rolling && x.oldBound mid then SwapState.draining else .opened
        (x.setModel mid { m with swap := ⟨st, rolling, 0, m.gen + 1, k.arg 36 4, []⟩ }).done k 0 (m.gen + 1) 0

def execSwapBeginTakeEffect (c : Fin 8) (id : Nat) (s : State) : Res := chipNext c (·.swapTakeEffect id) s

/-- The kept segments of unit `u`. -/
def Model.unitSegs (m : Model) (u : Nat) : List Seg := m.kept.filter fun g => g.unit == u

/-- A SWAP_LAYER entry equals the loaded one but for SRC and CODE_BASE. -/
def Seg.same (a b : Seg) : Bool := { a with src := b.src, codeBase := b.codeBase } == b

/-- The manifest indexes of the kept segments of unit `u`. -/
def Model.unitIndexes (m : Model) (u : Nat) : List Nat :=
  (List.range m.segs.length).filter fun i => (m.segs[i]?.map fun g => m.keeps g && g.unit == u).getD false

/-- The first range of the descriptors that a SWAP_LAYER brings that breaks R223. -/
def Model.swapArenas (m : Model) (at' : List Nat) : List Seg → List SegData → Option Refuse
  | [], _ => none
  | g :: r, l =>
    let d := l.headD ⟨[], none⟩
    orElse' (m.arenaFail (at'.headD 0) g (descCount g d) d.bytes) fun _ => m.swapArenas at'.tail r l.tail

/-- The first failing check of the descriptors that a SWAP_LAYER brings, with the segment's index in the manifest. -/
def Ctx.swapDescs (x : Ctx) (m : Model) (at' : List Nat) : List Seg → List SegData → Option Refuse
  | [], _ => none
  | g :: r, l =>
    let f := if g.kind = 2 ∨ g.kind = 3 then x.segFail m (at'.headD 0) g (l.headD ⟨[], none⟩) else none
    match f with
    | some f => some f
    | none => x.swapDescs m at'.tail r l.tail

/-- Waiting SWAP_LAYER commands whose unit is no longer at the front of an OPEN or DRAINING swap. -/
def Ctx.refuseLayers (x : Ctx) (l : List (Nat × List Seg × List SegData)) : Ctx :=
  l.foldl (fun x e => match x.cmd? e.1 with | some k => x.refuse k 0x0207 0 0 | none => x) x

def Ctx.swapLayer (x : Ctx) (k : Cmd) (data : Bytes) (src : List SegData) : Ctx :=
  let mid := k.arg 28 1
  let m := x.model mid
  let w := m.swap
  let u := k.arg 29 1
  let old := m.unitSegs u
  let n := k.dataLen / 48
  let raw := chunks n 48 ((fit k.dataLen data).take (48 * n))
  let new := raw.map segOf
  let bad := (List.range (max n old.length)).find? fun i =>
    match raw[i]?, old[i]? with
    | some r, some o => segReserved r || !(segOf r).same o
    | _, _ => true
  if (m.gen ≠ 0 ∨ m.loading) ∧ m.super ≠ x.sup k then x.refuse k 0x0209 0 0
  else if (w.state ≠ .draining ∧ w.state ≠ .opened ∧ w.state ≠ .broken) ∨ u ≠ w.front then x.refuse k 0x0207 0 0
  else if k.arg 32 4 ≠ w.newGen then x.refuse k 0x0203 0 0
  else if k.dataLen % 48 ≠ 0 ∧ bad.isNone then x.refuse k 0x0105 n 0
  else match bad with
    | some i =>
      let reserved := match raw[i]? with | some r => segReserved r | none => false
      if reserved then x.refuse k 0x0100 i 0 else x.refuse k 0x0105 i 0
    | none =>
      let source := bitsAt k.entry 30 0 2
      match new.findIdx? fun g => source == 1 && !x.placeOk m.super (4, (g.src, g.bytes)) with
      | some i => x.refuse k 0x0105 i 0
      | none =>
      let d := x.segData m source (fun _ => true) src new
      let x := d.1
      match orElse' (m.swapArenas (m.unitIndexes u) new d.2) fun _ => x.swapDescs m (m.unitIndexes u) new d.2 with
      | some f => x.refuse k f.1 f.2.1 f.2.2
      | none =>
        let st := if w.state = .broken then SwapState.writing else w.state
        (x.setModel mid { m with swap := { w with state := st, layers := w.layers ++ [(k.id, new, d.2)] } }).setPhase k.id .running

def execSwapLayer (c : Fin 8) (id : Nat) (data : Bytes) (src : List SegData) (s : State) : Res :=
  chipNext c (fun x => x.run id 0x42 (fun _ => true) fun k x => x.swapLayer k data src) s

/-- A step of the model is inside unit `u` (09 R230). -/
def Ctx.insideUnit (x : Ctx) (mid u : Nat) : Bool :=
  let m := x.model mid
  x.chip.serve.steps.any fun t =>
    t.model == mid && !t.verify && t.phase == .dispatched && (t.units.any fun v => v.1 == u) &&
      ((x.outstanding t.id).any (fun l => l / m.group == u) || t.due.any fun w => w.layer / m.group == u)

/-- The write of unit FRONT starts: its barrier closes, and its ranges hold neither version until the write completes. -/
def Ctx.swapStart (x : Ctx) (mid : Nat) : Ctx :=
  let m := x.model mid
  let w := m.swap
  if w.state ≠ .opened ∨ w.layers = [] ∨ x.insideUnit mid w.front = true ∨ x.frozen = true then x
  else (m.unitSegs w.front).foldl (fun x g => let d := x.segDst m g; x.blur d.1 d.2 g.bytes)
    (x.setModel mid { m with swap := { w with state := .writing } })

def execSwapWriteStart (c : Fin 8) (m : Fin 64) (s : State) : Res := chipNext c (·.swapStart m) s

/-- Write the new segments of a unit in manifest order. -/
def Ctx.writeUnit (x : Ctx) (m : Model) : List Seg → List SegData → Ctx
  | g :: r, d :: l => (x.putSeg m g 0 d.bytes).writeUnit m r l
  | _, _ => x

/-- The segments of a model with those of a unit replaced in order. -/
def replaceSegs (m : Model) (u : Nat) : List Seg → List Seg → List Seg
  | [], _ => []
  | g :: r, new =>
    if m.keeps g && g.unit == u then new.headD g :: replaceSegs m u r new.tail else g :: replaceSegs m u r new

/-- SOURCE of a SWAP_LAYER. -/
def swapSource (k : Cmd) : Nat := bitsAt k.entry 30 0 2

/-- The contents that the write of a unit finds: as the host gave them, or the general area as it is now. -/
def Ctx.layerData (x : Ctx) (m : Model) (k : Cmd) (segs : List Seg) (data : List SegData) : Ctx × List SegData :=
  if swapSource k = 1 then x.segData m 1 (fun _ => true) [] segs else (x, data)

def Ctx.swapComplete (x : Ctx) (mid : Nat) : Ctx :=
  let m := x.model mid
  let w := m.swap
  match w.layers with
  | (id, segs, data) :: rest =>
    match x.cmd? id with
    | some k =>
      let d := x.layerData m k segs data
      if w.state ≠ .writing ∨ (d.2.any fun d => d.err.isSome) = true ∨ x.frozen = true ∨ x.foragersFree m (swapSource k) segs = false then x
      else
        let front := w.front + 1
        let st := if front = m.unitCount then SwapState.done else .opened
        let y := (d.1.carryAll m (swapSource k) segs).writeUnit m segs d.2
        let m' := { m with
          segs := replaceSegs m w.front m.segs segs, swap := { w with state := st, front := front, layers := [] } }
        ((y.setModel mid m').done k 0 front 0).refuseLayers rest
    | none => x
  | [] => x

def execSwapWriteComplete (c : Fin 8) (m : Fin 64) (s : State) : Res := chipNext c (·.swapComplete m) s

/-- The first source error among contents: the error, the segment's index in the manifest, the offset. -/
def firstErr : List Nat → List SegData → Option (SrcErr × Nat × Nat)
  | _, [] => none
  | at', d :: r => match d.err with
    | some e => some (e.1, at'.headD 0, e.2)
    | none => firstErr at'.tail r

/-- The error that stops the write of a unit: of the general area the first that its read finds, of the host the one that came, a
host read error of whatever kind (16 R410). -/
def Ctx.swapErr (x : Ctx) (m : Model) (k : Cmd) (segs : List Seg) (data : List SegData) (host : SrcErr × Nat × Nat) :
    Ctx × Option (SrcErr × Nat × Nat) :=
  let d := x.layerData m k segs data
  (d.1, if swapSource k = 1 then firstErr (m.unitIndexes m.swap.front) d.2 else some (.hostRead, host.2))

/-- A source error stops the write: the unit holds neither version. A SWAP_LAYER of the unit that waits already writes it next. -/
def Ctx.swapFail (x : Ctx) (mid : Nat) (err : SrcErr) (seg off : Nat) : Ctx :=
  let m := x.model mid
  let w := m.swap
  match w.layers with
  | (id, segs, data) :: rest =>
    match x.cmd? id with
    | some k =>
      if w.state ≠ .writing ∨ x.frozen = true then x
      else
        let r := x.swapErr m k segs data (err, seg, off)
        match r.2 with
        | none => x
        | some e =>
          let x := onlyIf (swapSource k != 1) (·.hostError err) r.1
          let y := (m.unitSegs w.front).foldl (fun x g => let d := x.segDst m g; x.blur d.1 d.2 g.bytes) x
          let st := if rest = [] then SwapState.broken else .writing
          (y.setModel mid { m with swap := { w with state := st, layers := rest } }).done k (srcStatus e.1) (e.2.1 + 2 ^ 16 * e.2.2) 0
    | none => x
  | [] => x

def execSwapWriteFail (c : Fin 8) (m : Fin 64) (err : SrcErr) (seg off : Nat) (s : State) : Res :=
  chipNext c (·.swapFail m err seg off) s

/-- The checks that both forms of SWAP_END share. -/
def Ctx.swapEndCheck (x : Ctx) (k : Cmd) (bad : Swap → Bool) : Option Nat :=
  let m := x.model (k.arg 28 1)
  if (m.gen ≠ 0 ∨ m.loading) ∧ m.super ≠ x.sup k then some 0x0209
  else if m.swap.state = .idle then some 0x0207
  else if k.arg 32 4 ≠ m.swap.newGen then some 0x0203
  else if bad m.swap then some 0x0207
  else none

def Ctx.swapEnd (x : Ctx) (k : Cmd) : Ctx :=
  match x.swapEndCheck k fun w => w.state != .done with
  | some st => x.refuse k st 0 0
  | none =>
    let m := x.model (k.arg 28 1)
    (x.setModel (k.arg 28 1) { m with gen := m.swap.newGen, swap := .idle }).done k 0 m.swap.newGen 0

def execSwapEnd (c : Fin 8) (id : Nat) (s : State) : Res :=
  chipNext c (fun x => x.run id 0x43 (fun k => !bitAt k.entry 29 0) fun k x => x.swapEnd k) s

def Ctx.swapAbandon (x : Ctx) (k : Cmd) : Ctx :=
  match x.swapEndCheck k fun w => decide (0 < w.front) || w.state == .broken || w.state == .writing with
  | some st => x.refuse k st 0 0
  | none =>
    let mid := k.arg 28 1
    let m := x.model mid
    let x := x.onServe fun v =>
      { v with steps := v.steps.map fun t => if t.model = mid ∧ t.verify = false then { t with bound := none, heldAt := none } else t }
    ((x.setModel mid { m with swap := .idle }).done k 0 m.gen 0).refuseLayers m.swap.layers

def execSwapEndAbandon (c : Fin 8) (id : Nat) (s : State) : Res :=
  chipNext c (fun x => x.run id 0x43 (fun k => bitAt k.entry 29 0) fun k x => x.swapAbandon k) s

end Sys2Proof.Machine
end

