-- ==== Sys2Proof/Machine/ConfigCmds.lean ====
section
/-! DEFINITION. Configuration sets: shadow writes and their checks, the commit, the exchange of sections
(03 R89 to R94; 04 R98, R99, R428; 07 R179 to R181; 11 R279 to R285; 12 R304, R305; 13 R332, R333, R343). -/
namespace Sys2Proof.Machine

/-- A refusal: status and RESULT0. -/
abbrev Bad := Nat × Nat

/-- The first refusal of a list. -/
def firstBad (l : List (Option Bad)) : Option Bad := l.findSome? id

/-- Refuse with `f k` at the first of `n` items where it gives one. -/
def eachBad (n : Nat) (f : Nat → Option Bad) : Option Bad := (List.range n).findSome? f

/-! ## Section 0x1, the Super map (04 R98, R99) -/

/-- RESULT0: the Super and the byte offset of the field. -/
def atField (s off : Nat) : Nat := s + 256 * off

/-- Reserved bits and encodings of a Super record. -/
def superReserved (m : Mem) (s : Nat) : Option Bad :=
  let b := superRec m s
  if bitsAt b 0 1 7 ≠ 0 then some (0x0100, atField s 0)
  else if bitsAt b 1 3 5 ≠ 0 ∨ 4 < bitsAt b 1 0 3 then some (0x0100, atField s 1)
  else if zeros b 2 4 = false then some (0x0100, atField s 2)
  else if bitsAt b 8 6 2 ≠ 0 then some (0x0100, atField s 8)
  else if bitsAt b 9 7 1 ≠ 0 then some (0x0100, atField s 9)
  else if zeros b 10 12 = false then some (0x0100, atField s 10)
  else if zeros b 40 64 = false then some (0x0100, atField s 40)
  else none

/-- The fields of a Super record: byte offset, length, least and greatest value of a defined Super. -/
def superFields : List (Nat × Nat × Nat × Nat) :=
  [(1, 1, 0, 4), (4, 2, 0, 4095), (6, 2, 1, 4096), (8, 1, 1, 63), (9, 1, 0, 63), (12, 4, 0, 2 ^ 32), (16, 4, 0, 2 ^ 32),
   (20, 4, 0, 4194304), (24, 16, 0, 2 ^ 128)]

/-- A Super that does not exist has every field 0; a field of a defined one lies in its range. -/
def superRange (m : Mem) (s : Nat) : Option Bad :=
  let b := superRec m s
  superFields.findSome? fun f =>
    let v := field b f.1 f.2.1
    if (if superDefined m s then decide (v < f.2.2.1 ∨ f.2.2.2 < v) else v != 0) then some (0x0105, atField s f.1) else none

/-- Two ranges of numbers share one. -/
def shareRange (a n b k : Nat) : Bool := n != 0 && k != 0 && overlap a n b k

/-- A defined Super shares a Comb, a stream ID or a queue pair with one before it. -/
def superShares (m : Mem) (s : Nat) : Option Bad :=
  let before := (List.range s).filter (superDefined m)
  if superDefined m s = false then none
  else if before.any fun t => decide (superCombs m s &&& superCombs m t ≠ 0) then some (0x0105, atField s 24)
  else if before.any fun t => shareRange (superStreamBase m s) (superStreamCount m s) (superStreamBase m t) (superStreamCount m t) then
    some (0x0105, atField s 4)
  else if before.any fun t => shareRange (superQpBase m s) (superQpCount m s) (superQpBase m t) (superQpCount m t) then
    some (0x0105, atField s 8)
  else none

/-- The sum of a field over the defined Supers up to `s`. -/
def superSum (m : Mem) (f : Nat → Nat) (s : Nat) : Nat :=
  (List.range (s + 1)).foldl (fun n t => n + if superDefined m t then f t else 0) 0

/-- The checks of a Super map. DESIGN CHOICE (log entry 32): R99 asks for the offset of the failing field and names no field for
a check over several: a range overrun names the COUNT, shared resources the mask or base of the later Super, FRAME_COUNT times
frame size the FRAME_COUNT (20), a die's shares the SRAM_MIB (12), and a total the Super at which the running sum passes. -/
def superMapCheck (m : Mem) : Option Bad :=
  let def' := superDefined m
  firstBad [
    eachBad 8 (superReserved m),
    eachBad 8 (superRange m),
    eachBad 8 fun s => if def' s && superCombs m s == 0 then some (0x0105, atField s 24) else none,
    eachBad 8 (superShares m),
    eachBad 8 fun s =>
      if def' s && decide (4096 < superStreamBase m s + superStreamCount m s) then some (0x0105, atField s 6)
      else if def' s && superQpCount m s != 0 && decide (64 < superQpBase m s + superQpCount m s) then some (0x0105, atField s 9)
      else none,
    eachBad 8 fun s => if 1280 < superSum m (superSramMib m) s then some (0x0105, atField s 12) else none,
    eachBad 8 fun s => if 294912 < superSum m (superHbmMib m) s then some (0x0105, atField s 16) else none,
    eachBad 8 fun s => if 4194304 < superSum m (superFrames m) s then some (0x0105, atField s 20) else none,
    eachBad 8 fun s =>
      if def' s && decide (sliceBytes m s < superFrames m s * superFrameBytes m s) then some (0x0105, atField s 20) else none,
    eachBad 8 fun s =>
      if (List.range 4).any fun d => decide (335544320 < shareBase m (s + 1) d) then some (0x0105, atField s 12) else none]

/-! ## Section 0x2, the power policy (12 R304, R305, R387) -/

def ppTdp (m : Mem) : Nat := imgField m 4 2
def ppLo (m : Mem) : Nat := imgField m 6 2
def ppHi (m : Mem) : Nat := imgField m 8 2
def ppFMin (m : Mem) : Nat := imgField m 10 2
def ppFMax (m : Mem) : Nat := imgField m 12 2
def ppFLock (m : Mem) : Nat := imgField m 14 2
def ppShare (m : Mem) (s : Nat) : Nat := imgField m (32 + 2 * s) 2
def ppLockstep (m : Mem) : Bool := (imgByte m 1).toNat.testBit 0
def ppGust (m : Mem) : Bool := (imgByte m 1).toNat.testBit 1
def ppGroup (m : Mem) : Nat := (imgByte m 2).toNat
def ppConflict (m : Mem) : Nat := imgField m 16 2
def ppDelay (m : Mem) : Nat := imgField m 20 4

/-- The checks of a power policy image, against the active one. -/
def Ctx.powerCheck (x : Ctx) (m : Mem) : Option Bad :=
  let b := imgBytes m 0 64
  let raise := if x.chip.power.ndevasLost then some 0x0702 else if x.chip.power.hold then some 0x0701 else none
  let range := fun (off v lo hi step : Nat) => if v < lo ∨ hi < v ∨ v % step ≠ 0 then some ((0x0600, off) : Bad) else none
  firstBad [
    if byteAt b 0 ≠ 1 then some (0x0100, 0) else none,
    if bitsAt b 1 2 6 ≠ 0 then some (0x0100, 1) else none,
    if byteAt b 3 ≠ 0 then some (0x0100, 3) else none,
    if zeros b 18 20 = false then some (0x0100, 18) else none,
    if zeros b 24 32 = false then some (0x0100, 24) else none,
    if zeros b 48 64 = false then some (0x0100, 48) else none,
    range 4 (ppTdp m) 700 1650 1,
    range 6 (ppLo m) 700 (ppTdp m) 1,
    range 8 (ppHi m) (ppTdp m) 1650 1,
    range 10 (ppFMin m) 600 2100 25,
    range 12 (ppFMax m) (ppFMin m) 2100 25,
    range 14 (ppFLock m) (ppFMin m) (ppFMax m) 25,
    if ppConflict m < 1 ∨ 10000 < ppConflict m then some (0x0105, 16) else none,
    if 60000000 < ppDelay m then some (0x0105, 20) else none,
    eachBad 8 fun s => if 10000 < ppShare m s then some (0x0105, 32 + 2 * s) else none,
    if ppTdp x.act.power < ppTdp m then raise.map fun st => (st, 4) else none,
    if ppHi x.act.power < ppHi m then raise.map fun st => (st, 8) else none]

/-! ## Section 0x3, the routes (11 R279 to R282) -/

/-- The nonzero destination entries: index and value. -/
def destEntries (m : Mem) : List (Nat × Nat) :=
  let ks := (m.filter fun e => decide (0x100 ≤ e.1 ∧ e.1 < 0x20100)).map fun e => (e.1 - 0x100) / 4
  ks.eraseDups.map fun k => (k, imgField m (0x100 + 4 * k) 4)

/-- A destination entry breaks R280. -/
def destBad (id : Option Nat) (e : Nat × Nat) : Bool :=
  let planes := e.2 % 65536
  let esc := bits e.2 18 4
  if bit e.2 22 then
    decide (e.2 % 2 ^ 18 = 0) || (planes != 0 && !bit planes esc) || (planes == 0 && esc != 0) || id == some e.1
  else e.2 != 0

/-- Group `g` is not all zero. -/
def groupUsed (m : Mem) (g : Nat) : Bool := m.any fun e => decide (groupAt g ≤ e.1 ∧ e.1 < groupAt g + 144)

/-- Reserved bits of group `g`. -/
def groupReserved (m : Mem) (g : Nat) : Bool :=
  let b := imgBytes m (groupAt g) 16
  bitsAt b 0 3 5 != 0 || !zeros b 3 16 || (List.range 64).any fun r => bit (groupMember m g r) 15

/-- Group `g` breaks R281. -/
def groupBad (m : Mem) (n : Nat) (id : Nat) (g : Nat) : Bool :=
  if n ≤ g then groupUsed m g
  else
    let c := (imgByte m (groupAt g + 1)).toNat
    let r := (imgByte m (groupAt g + 2)).toNat
    let ms := (List.range c).map (groupMember m g)
    decide (c < 2 ∨ 64 < c ∨ c ≤ r) || groupMember m g r != id || ms.eraseDups.length != ms.length ||
      (List.range 64).any fun k => decide (c ≤ k) && groupMember m g k != 0

/-- The checks of a route section. -/
def routeCheck (m : Mem) : Option Bad :=
  let w := chipIdWord m
  let id := if bit w 15 then none else some w
  let parent := (imgByte m 0x12).toNat
  let flags := (imgByte m 0x13).toNat
  let n := (imgByte m 0x14).toNat
  let es := destEntries m
  let gs := List.range 64
  firstBad [
    if imgField m 4 4 ≠ 0 ∨ 2 ≤ flags ∨
        (m.any fun e => decide ((0x15 ≤ e.1 ∧ e.1 < 0x20) ∨ (0x30 ≤ e.1 ∧ e.1 < 0x100))) = true then some (0x0100, 1) else none,
    (es.find? fun e => decide (2 ^ 23 ≤ e.2)).map fun e => (0x0100, 1 + 256 * e.1),
    (gs.find? (groupReserved m)).map fun g => (0x0100, 1 + 256 * g),
    if (17 < parent ∧ parent ≠ 0xFF) ∨ (bit flags 0 = true ∧ parent ≠ 0xFF) ∨ 64 < n then some (0x0105, 2) else none,
    if id.isNone then (es.find? fun e => bit e.2 22).map fun e => (0x0105, 3 + 256 * e.1) else none,
    if id.isNone && decide (n ≠ 0 ∨ parent ≠ 0xFF) then some (0x0105, 3) else none,
    (es.find? (destBad id)).map fun e => (0x0105, 4 + 256 * e.1),
    (gs.find? (groupBad m n (w % 32768))).map fun g => (0x0105, 5 + 256 * g)]

/-! ## Section 0x4, the counter selections (13 R332, R333) -/

def selectionCheck (m : Mem) : Option Bad :=
  let l := selRecords m
  firstBad [
    (l.find? fun i => decide (0x10 ≤ selEvent m i ∨ 32 ≤ selFlags m i) || !zeros (imgBytes m (16 * i) 16) 13 16).map fun i =>
      (0x0100, i + 2 ^ 16),
    (l.find? fun i =>
      let f := selFlags m i
      (!bit f 3 && f % 8 != 0) || decide ((1 ≤ selLog m i ∧ selLog m i ≤ 7) ∨ 40 < selLog m i) ||
        (bit f 4 && decide (selHi m i ≤ selLo m i))).map fun i => (0x0105, i + 2 ^ 17)]

/-! ## Section 0x5, the microprogram table (03 R92, 07 R180, R181) -/

/-- Slots 16 to 63 that hold an image. -/
def fullSlots (m : Mem) : List Nat := ((m.map fun e => e.1 / 448 + 16).eraseDups)

def microSectionCheck (m : Mem) : Option Bad := (fullSlots m).findSome? fun n => (slotCheck n (slotImage m n)).map fun r => (0x0108, r)

/-! ## Section 0x6, the Lull (13 R343) -/

def lullCheck (m : Mem) : Option Bad :=
  let b := imgBytes m 0 64
  let armed := lullArmed m
  firstBad [
    if bitsAt b 0 2 6 ≠ 0 ∨ zeros b 1 4 = false ∨ zeros b 36 64 = false ∨ (armed = false ∧ m ≠ []) then some (0x0100, 0) else none,
    if armed && decide (lullId m = 0 ∨ lullRelease m < lullT m + 100000 ∨ lullT m + 10000000000 < lullRelease m) then some (0x0105, 0)
    else none,
    if armed && decide (lullCutPtr m = 0 ∨ lullCutPtr m % 4096 ≠ 0) then some (0x0103, 0) else none,
    if armed && decide (imgField m 32 4 < 65536) then some (0x0104, 0) else none]

/-! ## Shadow writes (03 R92) -/

/-- The image of section `n` of a set. -/
def CfgSet.sect (g : CfgSet) (n : Nat) : Mem :=
  match n with
  | 1 => g.superMap
  | 2 => g.power
  | 3 => g.routes
  | 4 => g.counters
  | 5 => g.micro
  | _ => g.lull

def CfgSet.setSect (g : CfgSet) (n : Nat) (m : Mem) : CfgSet :=
  match n with
  | 1 => { g with superMap := m }
  | 2 => { g with power := m }
  | 3 => { g with routes := m }
  | 4 => { g with counters := m }
  | 5 => { g with micro := m }
  | _ => { g with lull := m }

/-- The checks of one section. -/
def Ctx.sectionCheck (x : Ctx) (n : Nat) (m : Mem) : Option Bad :=
  match n with
  | 1 => superMapCheck m
  | 2 => x.powerCheck m
  | 3 => routeCheck m
  | 4 => selectionCheck m
  | 5 => microSectionCheck m
  | _ => lullCheck m

/-- An accepted shadow write. -/
def Ctx.acceptShadow (x : Ctx) (k : Cmd) (f : CfgSet → CfgSet) (r1 : Nat) : Ctx :=
  let y := x.onConfig fun g => { g with shadow := f g.shadow, shadowGen := g.shadowGen + 1 }
  y.done k 0 y.chip.config.shadowGen.toNat r1

/-- Write section `n` of the shadow set from its raw image. -/
def Ctx.writeShadow (x : Ctx) (k : Cmd) (n : Nat) (data : Bytes) : Ctx :=
  let m := imgOf (fit (sectionLen n) data)
  match x.sectionCheck n m with
  | some r => x.refuse k r.1 r.2 0
  | none => x.acceptShadow k (·.setSect n m) 0

def execSuperConfig (c : Fin 8) (id : Nat) (data : Bytes) (s : State) : Res :=
  chipNext c (fun x => x.run id 0x10 (fun _ => true) fun k x => x.writeShadow k 1 data) s

/-- CONFIG_WRITE_SHADOW: section 0x0 copies the active set. -/
def Ctx.configWrite (x : Ctx) (k : Cmd) (data : Bytes) : Ctx :=
  let n := k.arg 28 1 % 16
  if n = 0 then x.acceptShadow k (fun _ => x.act) 0 else x.writeShadow k n data

def execConfigWriteShadow (c : Fin 8) (id : Nat) (data : Bytes) (s : State) : Res :=
  chipNext c (fun x => x.run id 0x11 (fun _ => true) fun k x => x.configWrite k data) s

def execPowerPolicyWrite (c : Fin 8) (id : Nat) (data : Bytes) (s : State) : Res :=
  chipNext c (fun x => x.run id 0x60 (fun k => k.arg 28 1 % 4 == 0) fun k x => x.writeShadow k 2 data) s

def execFabricRouteSet (c : Fin 8) (id : Nat) (data : Bytes) (s : State) : Res :=
  chipNext c (fun x => x.run id 0x80 (fun _ => true) fun k x => x.writeShadow k 3 data) s

def execCounterSelectWrite (c : Fin 8) (id : Nat) (data : Bytes) (s : State) : Res :=
  chipNext c (fun x => x.run id 0x70 (fun k => k.arg 28 1 % 4 == 0) fun k x => x.writeShadow k 4 data) s

def execLullArm (c : Fin 8) (id : Nat) (data : Bytes) (s : State) : Res :=
  chipNext c (fun x => x.run id 0x71 (fun _ => true) fun k x => x.writeShadow k 6 data) s

/-! ## MICROPROGRAM_LOAD (07 R179) -/

/-- The lowest empty loadable slot of a table. -/
def emptySlot (m : Mem) : Option Nat := (List.range 48).findSome? fun k => if slotFull m (16 + k) then none else some (16 + k)

def Ctx.microLoad (x : Ctx) (k : Cmd) (data : Bytes) : Ctx :=
  let b := k.arg 28 1
  let table := x.chip.config.shadow.micro
  let img := fit 448 data
  if bit b 6 && b % 64 != 0 then x.refuse k 0x0105 0 0
  else if !bit b 6 && decide (b % 64 < 16) then x.refuse k 0x0105 0 0
  else match (if bit b 6 then emptySlot table else some (b % 64)) with
    | none => x.refuse k 0x0305 0 0
    | some n =>
      match slotCheck n img with
      | some r => x.refuse k 0x0108 r 0
      | none =>
        x.acceptShadow k (fun g => { g with micro := imgWrite g.micro (448 * (n - 16)) img }) (n + if iDecls img = 0 then 0 else 256)

def execMicroprogramLoad (c : Fin 8) (id : Nat) (data : Bytes) (s : State) : Res :=
  chipNext c (fun x => x.run id 0x90 (fun k => !bitAt k.entry 28 7) fun k x => x.microLoad k data) s

def Ctx.microClear (x : Ctx) (k : Cmd) : Ctx :=
  let b := k.arg 28 1
  let n := b % 64
  if bit b 6 || decide (n < 16) then x.refuse k 0x0105 0 0
  else x.acceptShadow k (fun g => { g with micro := imgWrite g.micro (448 * (n - 16)) (zeroBytes 448) }) n

def execMicroprogramClear (c : Fin 8) (id : Nat) (s : State) : Res :=
  chipNext c (fun x => x.run id 0x90 (fun k => bitAt k.entry 28 7) fun k x => x.microClear k) s

/-! ## The checks of a commit (03 R93, 04 R428) -/

/-- A model ID is loaded or being loaded. -/
def Model.present (m : Model) : Bool := decide (m.gen ≠ 0) || m.loading

/-- Streams other than FREE of Super `s` under a map. -/
def Ctx.liveStreams (x : Ctx) (m : Mem) (s : Nat) : List Nat :=
  (x.chip.serve.streams.filter fun e => e.2.state != .free && superOfStream m e.1 == some s).map (·.1)

/-- Super `s` holds a stream other than FREE or a loaded model. -/
def Ctx.holdsWork (x : Ctx) (s : Nat) : Bool :=
  !(x.liveStreams x.act.superMap s).isEmpty || x.chip.serve.models.any fun e => e.2.present && e.2.super == s

/-- Super `s` fits its slices of the new map. -/
def Ctx.superFits (x : Ctx) (n : Mem) (s : Nat) : Bool :=
  let m := x.act.superMap
  superDefined n s && superFrameCode n s == superFrameCode m s &&
  ((x.liveStreams m s).all fun i => superOfStream n i == some s) &&
  ((x.usedFrames s).all fun k => decide (k < superFrames n s)) &&
  x.chip.serve.models.all fun e =>
    !(e.2.present && e.2.super == s) ||
      ((e.2.kept.map Seg.place ++ e.2.arenaPlaces).all fun p =>
        if p.1 = 4 then decide (p.2.1 + p.2.2 ≤ generalBytes n s) else p.2.inside (sliceRange n s p.1))

/-- The micro-program slots that a loaded model uses. -/
def Ctx.usedSlots (x : Ctx) : List Nat :=
  x.chip.serve.models.flatMap fun e =>
    if !e.2.present then []
    else (e.2.kept.filter fun g => g.kind == 2).flatMap fun g =>
      (List.range (g.bytes / 64)).filterMap fun j =>
        let b := (x.store .hbm).readN (sliceBase x.act.superMap e.2.super + g.dst + 64 * j) 64
        if dOp b = 3 ∧ sRowOp b = 0 then some (sFunc b) else none

/-- A route change (11 R285). -/
def Ctx.routeChange (x : Ctx) : Bool :=
  let n := x.chip.config.shadow.routes
  n != x.act.routes && !x.chip.config.pendingRoutes.contains n

/-- The first failing check: section, check, index. -/
def Ctx.commitCheck (x : Ctx) : Option (Nat × Nat × Nat) :=
  let g := x.chip.config
  let n := g.shadow
  let m := n.superMap
  let def' := (List.range 8).filter (superDefined m)
  let swap := (x.chip.serve.models.find? fun e => e.2.swap.state != .idle).map (·.1)
  let shares := (def'.map (ppShare n.power)).sum
  let q := x.chip.stew.qps.find? fun e =>
    e.1 != 0 && e.2.live && !(superDefined m e.2.super && decide (superQpBase m e.2.super ≤ e.1 ∧
      e.1 < superQpBase m e.2.super + superQpCount m e.2.super))
  let pend := x.epoch :: g.pendingRoutes.map fun r => imgField r 0 4
  [q.map fun e => (1, 1, e.1),
   ((List.range 8).find? fun s => x.holdsWork s && !x.superFits m s).map fun s => (1, 2, s),
   (def'.find? fun s => ppShare n.power s == 0).map fun s => (2, 3, s),
   if 10000 < shares then some (2, 3, 0xFFFF) else none,
   ((selRecords n.counters).find? fun i => bit (selFlags n.counters i) 3 && !superDefined m (selFlags n.counters i % 8)).map fun i => (4, 4, i),
   ((x.usedSlots.filter fun k => !slotFull n.micro k).min?).map fun k => (5, 5, k),
   if x.routeChange && pend.any (fun e => decide (imgField n.routes 0 4 ≤ e)) then some (3, 6, 0) else none,
   if lullArmed n.lull && decide (lullT n.lull < x.time + 100000) then some (6, 7, 0) else none,
   if n.superMap ≠ x.act.superMap then swap.map fun k => (1, 8, k) else none,
   if n.micro ≠ x.act.micro then swap.map fun k => (5, 8, k) else none].findSome? id

/-! ## The exchange (03 R91, R94; 04 R428) -/

/-- What moves with a Super: places and lengths, old and new. -/
def Ctx.superMoves (x : Ctx) (o n : Mem) (s : Nat) : List (Nat × Nat × Nat) :=
  (sliceBase o s, sliceBase n s, min (generalBytes o s) (generalBytes n s)) ::
    (x.usedFrames s).map fun k => (frameAddr o s k, frameAddr n s k, superFrameBytes o s)

/-- The Supers that hold streams or models have their HBM slices moved; every other byte of HBM, and the Comb store shares of the
other Supers, are undefined afterwards. -/
def Ctx.moveSupers (x : Ctx) (o n : Mem) : Ctx :=
  let hold := (List.range 8).filter x.holdsWork
  let moves := hold.flatMap (x.superMoves o n)
  let x := moves.foldl (fun x p => if p.1 = p.2.1 then x else (x.inspect .hbm none p.1 p.2.2).1) x
  let old := x.store .hbm
  let blank := old.blur 0 hbmSize x.free
  let st := moves.foldl (fun st p =>
    let c := old.cut p.1 p.2.2 p.2.1
    st.paste p.2.1 p.2.2 (if p.1 = p.2.1 then c else { c with ue := [], ce := [], fix := [], onDie := [] })) blank
  let x := (x.setStore .hbm st).bump
  ((List.range 8).filter fun s => superDefined n s && !hold.contains s).foldl (fun x s =>
    (List.range 4).foldl (fun x d => x.blur (.sram d) (shareBase n s d) (shareBytes n s d)) x) x

/-- Exchange section `n` whole between the sets. -/
def Ctx.exchange (x : Ctx) (n : Nat) : Ctx :=
  let g := x.chip.config
  let old := g.active.sect n
  let new := g.shadow.sect n
  let x := if n = 1 then x.moveSupers old new else x
  let x := x.onConfig fun g => { g with active := g.active.setSect n new, shadow := g.shadow.setSect n old }
  if n = 6 then x.armLull
  else if n = 2 ∧ (ppLockstep new = true ∨ ppGust new = false) then x.endGust
  else x

/-- No step is dispatched, and every step that was has posted its completion (drain boundary). -/
def Ctx.drained (x : Ctx) : Bool :=
  (x.chip.serve.steps.all fun t => t.phase == .waiting || t.phase == .ready) && !(x.chip.stew.held.any fun h => h.op == 0x30)

/-- No step waits for dispatch (the commit is a dispatch boundary). -/
def Ctx.noneWaits (x : Ctx) : Bool := x.chip.serve.steps.all fun t => t.verify || t.phase == .dispatched || t.phase == .committed

/-- Every section has been exchanged: the generations rise and the commit completes. -/
def Ctx.commitDone (x : Ctx) : Ctx :=
  match x.chip.config.commit with
  | none => x
  | some w =>
    match x.cmd? w.cmd with
    | none => x
    | some k =>
      if w.waiting ≠ [] then x
      else
        let x := x.onConfig fun g => { g with activeGen := g.activeGen + 1, shadowGen := g.shadowGen + 1, commit := none }
        let r1 := match w.route, x.chip.config.pendingRoutes.getLast? with
          | some e, _ => e
          | none, some m => imgField m 0 4
          | none, none => x.epoch
        x.done k 0 x.chip.config.activeGen.toNat r1

/-- Exchange those of the waiting sections that `p` selects. -/
def Ctx.exchangeSome (x : Ctx) (p : Nat → Bool) : Ctx :=
  match x.chip.config.commit with
  | none => x
  | some w =>
    let x := (w.waiting.filter p).foldl Ctx.exchange x
    (x.onConfig fun g => { g with commit := some { w with waiting := w.waiting.filter fun n => !p n } }).commitDone

/-- A committed route change: in force at once, or pending until its EPOCH_TIME (11 R283, R284). -/
def Ctx.commitRoutes (x : Ctx) : Ctx :=
  let n := x.chip.config.shadow.routes
  let old := x.act.routes
  let at' := imgField n 8 8
  let x := x.onConfig fun g => { g with shadow := { g.shadow with routes := old } }
  if old = CfgSet.initial.routes then x.takeRoutes n
  else if at' < x.time then (x.event 0x0A02 0 (imgField n 0 4 + 2 ^ 32 * min (x.time - at') 0xFFFFFFFF)).takeRoutes n
  else if at' = x.time then x.takeRoutes n
  else x.onConfig fun g => { g with pendingRoutes := g.pendingRoutes ++ [n] }

def Ctx.configCommit (x : Ctx) (k : Cmd) : Ctx :=
  let g := x.chip.config
  if k.arg 28 4 ≠ g.shadowGen.toNat then x.refuse k 0x0203 0 0
  else match x.commitCheck with
    | some f => x.refuse k 0x0204 (f.1 + 256 * f.2.1 + 65536 * f.2.2) 0
    | none =>
      let differ := [6, 2, 4, 1, 5].filter fun n => g.active.sect n != g.shadow.sect n
      let route := if x.routeChange then some (imgField g.shadow.routes 0 4) else none
      let x := if route.isSome then x.commitRoutes else x
      let x := (x.onConfig fun g => { g with commit := some ⟨k.id, differ, route⟩ }).setPhase k.id .running
      x.exchangeSome fun n => n == 6 || ((n == 2 || n == 4) && x.noneWaits) || ((n == 1 || n == 5) && x.drained)

def execConfigCommit (c : Fin 8) (id : Nat) (s : State) : Res :=
  chipNext c (fun x => x.run id 0x12 (fun _ => true) fun k x => x.configCommit k) s

/-- The boundary of section `n` is reached: no step is dispatched while a commit waits, so a dispatch boundary may be now. -/
def Ctx.sectionExchange (x : Ctx) (n : Nat) : Ctx :=
  if x.frozen then x else x.exchangeSome fun m => m == n && (n == 2 || n == 4 || n == 6 || x.drained)

def execConfigSectionExchange (c : Fin 8) (sect : Fin 7) (s : State) : Res := chipNext c (·.sectionExchange sect) s

end Sys2Proof.Machine
end

