-- ==== Sys2Proof/Machine/Comb.lean ====
section
/-! DEFINITION. The Comb array: the descriptor sequencer, FILL and STREAM, tile loads, group drains, counters and samples
(05 R129 to R152, 06 R157 to R169, 13 R331, R338, 16 R404, R405). -/
namespace Sys2Proof.Machine

/-! ## Errors that a unit of a die meets (16 R404, R405) -/

/-- The source class of a Comb store address: the pinned weights of the step's model, or an arena. -/
def Ctx.storeSource (x : Ctx) (step die a : Nat) : Nat :=
  match x.step? step with
  | some t => if (x.model t.model).kept.any fun g => g.kind == 1 && g.die == die && decide (g.dst ≤ a ∧ a < g.dst + g.bytes) then 4 else 3
  | none => 3

/-- Bad granules met by a descriptor are errors of its step; the data of a unit serves every entry. -/
def Ctx.badOperands (x : Ctx) (q : QDesc) (die : Nat) (bad : List (Nat × SrcErr)) : Ctx :=
  bad.foldl (fun x g =>
    x.stepError q.step (srcStatus g.2) (dataDetail 0xFFFF q.layer 0xFFFF (x.storeSource q.step die g.1)) (2 ^ 62 * die + g.1)) x

/-- Read `n` bytes for a descriptor: the bytes, and whether a granule was bad. -/
def Ctx.readFor (x : Ctx) (q : QDesc) (die a n : Nat) : Ctx × Bytes × Bool :=
  let r := x.inspect (.sram die) (some q.super) a n
  (r.1.badOperands q die r.2, (r.1.store (.sram die)).readN a n, !r.2.isEmpty)

/-- Read several runs of bytes. -/
def Ctx.readRuns (x : Ctx) (q : QDesc) (die : Nat) : List (Nat × Nat) → Ctx × List Bytes × Bool
  | [] => (x, [], false)
  | p :: r =>
    let a := x.readFor q die p.1 p.2
    let b := a.1.readRuns q die r
    (b.1, a.2.1 :: b.2.1, a.2.2 || b.2.2)

/-! ## Fixed counters of a Comb -/

/-- Fixed counters of Comb `k` (05 R147). -/
def Ctx.combCount (x : Ctx) (k val n : Nat) : Ctx := x.count 0x02 k val n

/-- The granules that a run of bytes touches. -/
def granules (a n : Nat) : Nat := if n = 0 then 0 else (a + n + 63) / 64 - a / 64

/-! ## The descriptor sequencer (05 R142, R143) -/

/-- The head of a die's work queue leaves for Comb `k` of the die, which its Super owns and which has a free buffer entry. -/
def Ctx.sequencerRelease (x : Ctx) (d k : Nat) (w : TokenWait) : Ctx :=
  match (x.die d).work with
  | [] => x
  | q :: _ =>
    let i := 32 * d + k
    let c := x.comb i
    if x.frozen || !x.awake || !(superCombs x.act.superMap q.super).testBit i || decide (4 ≤ c.buf.length) ||
        !x.tokenMet d q.step q.bytes then x
    else
      let x := x.waitCounts d i q w
      (x.popWork d).setComb i { x.comb i with buf := (x.comb i).buf ++ [q] }

def execDescriptorSequencerRelease (c : Fin 8) (die : Fin 4) (k : Fin 32) (w : TokenWait) (s : State) : Res :=
  chipNext c (·.sequencerRelease die k w) s

/-! ## Elements (06 R157) -/

/-- Element `k` of a packed row. -/
def element (fmt : Nat) (row : Bytes) (k : Nat) : Nat :=
  match fmtBits fmt with
  | 4 => byteAt row (k / 2) / 16 ^ (k % 2) % 16
  | 6 => bits (field row (k / 4 * 3) 3) (6 * (k % 4)) 6
  | 16 => field row (2 * k) 2
  | _ => byteAt row k

def elements (fmt : Nat) (row : Bytes) (n : Nat) : List Nat := (List.range n).map (element fmt row)

/-! ## Accumulation (05 R148, 06 R161 to R167) -/

/-- Fast, SCALE 0x0 or 0x2: one addition per K-step. -/
def dotFast (ks : Nat) (ps : List (FV × FV)) : AccElem :=
  (chunks ps.length ks ps).foldl (fun a l => let r := accFast a.bits (sumProducts l); ⟨r.v, a.flushed || r.flushed, false⟩) ⟨0, false, false⟩

/-- Fast, SCALE 0x1: one addition per block of 32, with its two scales. -/
def dotScaled (ps : List (FV × FV)) (scales : List (Nat × Nat)) : AccElem :=
  ((chunks ps.length 32 ps).zip scales).foldl (fun a e =>
    let r := accFast a.bits (scaleBlock (sumProducts e.1) e.2.1 e.2.2)
    ⟨r.v, a.flushed || r.flushed, false⟩) ⟨0, false, false⟩

/-- Strict: one fused multiply-add per product. -/
def dotStrict (ps : List (FV × FV)) : AccElem × FFlags :=
  ps.foldl (fun a p =>
    let r := fmaV p.1 p.2 (dec32 a.1.bits)
    let v := r.1.to32 true r.2
    (⟨v.v, false, false⟩, a.2.or v.flags)) (⟨0, false, false⟩, .clear)

/-- Add to an INT32 that holds its bound once it has saturated. -/
def satInt (a : Int × Bool) (t : Int) : Int × Bool :=
  if a.2 then a
  else if 2 ^ 31 - 1 < a.1 + t then (2 ^ 31 - 1, true)
  else if a.1 + t < -2 ^ 31 then (-2 ^ 31, true)
  else (a.1 + t, false)

/-- Integer: exact products, saturating sum. -/
def dotInt (ps : List (Int × Int)) : AccElem :=
  let r := ps.foldl (fun a p => satInt a (p.1 * p.2)) ((0, false) : Int × Bool)
  ⟨BitVec.ofInt 32 r.1, false, r.2⟩

/-- The accumulator of one output element, from a row of A and a column of B. -/
def dotElem (b : Bytes) (as bs : List Nat) (scales : List (Nat × Nat)) : AccElem × FFlags :=
  if fmtInt (dFmtA b) then (dotInt ((as.map (decodeInt (dFmtA b))).zip (bs.map (decodeInt (dFmtB b)))), .clear)
  else
    let ps := (as.map (decodeOperand (dFmtA b))).zip (bs.map (decodeOperand (dFmtB b)))
    if dStrict b then dotStrict ps
    else if dScale b = 1 then (dotScaled ps scales, .clear)
    else (dotFast (kStep (dFmtA b)) ps, .clear)

/-- Stages 1 and 2 of R149: conversion to FP32, and the row scale of A, then the column scale of B. -/
def scaleElem (b : Bytes) (sa sb : Word32) (e : AccElem) : AccElem × FFlags :=
  if dScale b ≠ 2 then (e, .clear)
  else
    let v := if fmtInt (dFmtA b) then ofInt32 (signed 32 e.bits.toNat) else e.bits
    let r := mul32 (dStrict b) v sa
    let q := mul32 (dStrict b) r.v sb
    (⟨q.v, e.flushed || r.flushed || q.flushed, e.saturated⟩, r.flags.or q.flags)

/-! ## A group of rows -/

/-- The operand B of one quadrant: its K rows, its scales. -/
abbrev TileOf := List Bytes × Bytes

/-- The scales of column `j` and row scales `sa` along K. -/
def blockScales (b : Bytes) (sa : Bytes) (t : TileOf) (j : Nat) : List (Nat × Nat) :=
  (List.range (dK b / 32)).map fun i => (byteAt sa i, byteAt t.2 (i * dN b + j))

/-- One row of accumulators. -/
def rowElems (b : Bytes) (row sa : Bytes) (t : TileOf) : List (AccElem × FFlags) :=
  let as := elements (dFmtA b) row (dK b)
  (List.range (dN b)).map fun j =>
    let e := dotElem b as (t.1.map fun r => element (dFmtB b) r j) (blockScales b sa t j)
    let f := scaleElem b (BitVec.ofNat 32 (field sa 0 4)) (BitVec.ofNat 32 (field t.2 (4 * j) 4)) e.1
    (f.1, e.2.or f.2)

/-- Bytes of the scales of one row of A. -/
def saRow (b : Bytes) : Nat := match dScale b with | 1 => dK b / 32 | 2 => 4 | _ => 0

/-- The rows of the group that starts at `row`. -/
def groupRows (b : Bytes) (row : Nat) : Nat := min (shapeRows (dShape b)) (dRows b - row)

/-- The array cycles of one group (05 R152). -/
def groupCycles (b : Bytes) : Nat := if dStrict b then 4 * dK b else dK b / kStep (dFmtA b)

/-- Quadrant `u` of the group at `row`: its accumulators, its flags, and whether an operand of A was bad. -/
def Ctx.groupQuad (x : Ctx) (q : QDesc) (die u row : Nat) (t : TileOf) : Ctx × List (List AccElem) × FFlags × Bool :=
  let b := q.bytes
  let n := groupRows b row
  let off := u * dQStride b
  let ra := x.readRuns q die ((List.range n).map fun i => (dA b + off + (row + i) * dAPitch b, rowBytes (dFmtA b) (dK b)))
  let rs := ra.1.readRuns q die ((List.range n).map fun i => (dSA b + off + (row + i) * saRow b, saRow b))
  let es := (ra.2.1.zip rs.2.1).map fun p => rowElems b p.1 p.2 t
  (rs.1, es.map (·.map (·.1)), (es.flatten.map (·.2)).foldl FFlags.or .clear, ra.2.2 || rs.2.2)

/-- The quadrants of one group. -/
def Ctx.groupQuads (x : Ctx) (q : QDesc) (die row : Nat) : Nat → List TileOf → Ctx × List (List (List AccElem)) × FFlags × List Nat
  | _, [] => (x, [], .clear, [])
  | u, t :: r =>
    let a := x.groupQuad q die u row t
    let b := a.1.groupQuads q die row (u + 1) r
    (b.1, a.2.1 :: b.2.1, a.2.2.1.or b.2.2.1, (if a.2.2.2 then [u] else []) ++ b.2.2.2)

/-- The groups of a descriptor from `row` on, `n` of them; `bad` are the quadrants of a bad tile. -/
def Ctx.groupsOf (x : Ctx) (q : QDesc) (die : Nat) (tiles : List TileOf) (bad : List Nat) (cycles frozen : Nat) :
    Nat → Nat → Ctx × List Group
  | _, 0 => (x, [])
  | row, n + 1 =>
    let a := x.groupQuads q die row 0 tiles
    let r := a.1.groupsOf q die tiles bad cycles frozen (row + shapeRows (dShape q.bytes)) n
    (r.1, ⟨q, row, a.2.1, a.2.2.2 ++ bad, n == 0, a.2.2.1, .zero, false, cycles, frozen⟩ :: r.2)

/-! ## Issue of a matrix descriptor (05 R131, R136, R140, R142, R144, R146) -/

/-- The ranges of C that a group will write. -/
def Group.writes (g : Group) : List Range :=
  let b := g.desc.bytes
  (List.range (shapeQuads (dShape b))).map fun u =>
    span (dC b + u * dQStride b + g.row * dCPitch b) (groupRows b g.row) (dCPitch b) (cBytes (dOutFmt b) * dN b)

/-- What a held operation of any kind uses. -/
def opRanges (b : Bytes) : List Range := if dOp b = 3 ∨ dOp b = 4 then rowRanges b else matrixReads b ++ matrixWrites b

/-- The ranges of C whose drains are outstanding. -/
def Comb.draining (c : Comb) : List Range := (c.drain ++ c.pipe).flatMap Group.writes

/-- A matrix descriptor may issue: every earlier group has entered the drain queue, no outstanding drain writes what it reads,
and it does not touch what the hold slot keeps. -/
def Comb.mayIssue (c : Comb) (b : Bytes) : Bool :=
  c.pipe.isEmpty && !(c.draining.any fun w => (matrixReads b).any w.meets) &&
  match c.hold with
  | some h => !((opRanges h.bytes).any fun r => (matrixReads b ++ matrixWrites b).any r.meets)
  | none => true

/-- The tag of a STREAM descriptor's tile. -/
def tagOf (b : Bytes) : BankTag := ⟨dB b, dBPitch b, dSB b, dK b, dN b, dFmtB b, dShape b, dQStride b⟩

def Comb.bank (c : Comb) (i : Nat) : Bank := if i = 0 then c.bank0 else c.bank1
def Comb.setBank (c : Comb) (i : Nat) (b : Bank) : Comb := if i = 0 then { c with bank0 := b } else { c with bank1 := b }

/-- The bank holds the tile that was loaded for this descriptor. -/
def Bank.loaded (v : Bank) (b : Bytes) : Bool := v.fresh == some (tagOf b) && v.scale == dScale b

/-- Frozen cycles that the causes of R146 and R140 allow for this descriptor: a load freezes only a descriptor that loads, behind an
earlier matrix descriptor of the Comb. -/
def Freezes.fits (f : Freezes) (c : Comb) (b : Bytes) : Bool :=
  let fill := dOp b == 1
  let s := groupCycles b
  let slab := if fill && dShape b == 2 && !dStrict b then ceilDiv (s * rowBytes (dFmtB b) (kStep (dFmtB b) * dN b)) 288 - s else 0
  decide (f.feed0 ≤ f.total ∧ f.feed1 ≤ f.total ∧ f.wload ≤ f.total ∧ f.drain ≤ f.total ∧
    f.total ≤ f.feed0 + f.feed1 + f.wload + f.drain ∧ slab ≤ f.feed1 ∧ f.held ≤ f.idle) &&
  (if fill then f.wload == 0 else f.feed1 == 0) &&
  (f.wload == 0 || c.lastShape.isSome && (c.bank (dWBank b)).loaded b)

/-- A shape change invalidates the tags of both banks (05 R131). -/
def Comb.changeShape (c : Comb) : Comb :=
  { c with bank0 := { c.bank0 with tag := none }, bank1 := { c.bank1 with tag := none } }

/-- The groups at the end of the pipeline enter the drain queue while it has room; how many did (01 R35, 05 R146). -/
def Comb.enterDrain (c : Comb) : Comb × Nat :=
  let n := 8 - c.drain.length
  ({ c with drain := c.drain ++ c.pipe.take n, pipe := c.pipe.drop n }, min n c.pipe.length)

/-- MACs inside ROWS and N. -/
def usefulMacs (b : Bytes) : Nat := dRows b * dN b * dK b * shapeQuads (dShape b)

/-- Granules that the feeders read: A and its scales, and B and its scales where `withB`. -/
def feedGranules (b : Bytes) (withB : Bool) : Nat :=
  let rows := fun (a n pitch len : Nat) => ((List.range n).map fun i => granules (a + i * pitch) len).sum
  ((List.range (shapeQuads (dShape b))).map fun u =>
    let off := u * dQStride b
    rows (dA b + off) (dRows b) (dAPitch b) (rowBytes (dFmtA b) (dK b)) + granules (dSA b + off) (saBytes b) +
      if withB then rows (dB b + off) (dK b) (dBPitch b) (rowBytes (dFmtB b) (dN b)) + granules (dSB b + off) (sbBytes b) else 0).sum

/-- Energy of an advancing Comb cycle in fJ, by operand format; the dearer of two (12 R324). -/
def cycleEnergy (b : Bytes) : Nat :=
  let one := fun (f : Nat) => if fmtBits f = 16 then 2800000 else if fmtBits f = 4 then 2600000 else 2400000
  if dStrict b then 900000 else max (one (dFmtA b)) (one (dFmtB b))

/-- The counters of an issued descriptor, and its step's advancing cycles. -/
def Ctx.issueCounts (x : Ctx) (k : Nat) (q : QDesc) (f : Freezes) (change : Bool) : Ctx :=
  let b := q.bytes
  let groups := ceilDiv (dRows b) (shapeRows (dShape b))
  let adv := groups * groupCycles b
  let steps := groups * (dK b / kStep (dFmtA b))
  let hold := tget 0 x.chip.power.holdTime q.super
  let x := x.charge (k / 32) (adv * cycleEnergy b + 300000 * f.total)
  let x := x.onBehalf (.super q.super) fun x => x.charge (k / 32) (300000 * f.idle)
  let x := [(0, adv), (1, f.total), (2, f.feed0), (3, f.feed1), (4, f.wload), (5, f.drain), (6, f.idle), (8, b2n change)].foldl
    (fun x e => x.combCount k e.1 e.2) x
  let x := x.combEvents k none [(7, f.idle - f.held)]
  let x := x.combEvents k (some q) [(7, f.held), (1, adv), (2, f.total), (3, f.feed0), (4, f.feed1), (5, f.wload), (6, f.drain), (8, 1),
    (9, feedGranules b (dOp b == 1)), (0xE, hold), (0xF, usefulMacs b)]
  let x := x.count 0x0C (8 * (k / 32) + q.super) 1 hold
  let x := ((x.queueIn (20 + 2 * k) steps).queueOut (20 + 2 * k) steps)
  let x := if dOp b = 1 then (x.queueIn (21 + 2 * k) steps).queueOut (21 + 2 * k) steps else x
  x.onStep q.step fun t => { t with cycles := tupd 0 t.cycles (k / 32) (· + adv) }

/-- Send the groups of a descriptor through the array to the end of the pipeline, and into the drain queue while it has room. -/
def Ctx.issue (x : Ctx) (k : Nat) (q : QDesc) (f : Freezes) (tiles : List TileOf) (bad : List Nat) : Ctx :=
  let b := q.bytes
  let c := x.comb k
  let change := match c.lastShape with | some s => s != dShape b | none => false
  let groups := ceilDiv (dRows b) (shapeRows (dShape b))
  let x := x.issueCounts k q f change
  let cycles := groups * groupCycles b + (f.total - f.wload)
  let r := x.groupsOf q (k / 32) tiles bad cycles f.total 0 groups
  let c := if change then c.changeShape else c
  let e := Comb.enterDrain { c with buf := c.buf.drop 1, lastShape := some (dShape b), pipe := c.pipe ++ r.2 }
  (r.1.setComb k e.1).queueIn (276 + k) e.2

/-- The head of Comb `k`'s buffer, where it is a matrix descriptor of this OP that may issue now. -/
def Ctx.issuable (x : Ctx) (k op : Nat) (f : Freezes) : Option QDesc :=
  match (x.comb k).buf with
  | q :: _ =>
    if dOp q.bytes = op ∧ x.frozen = false ∧ x.awake = true ∧ (x.comb k).mayIssue q.bytes = true ∧ Freezes.fits f (x.comb k) q.bytes = true then some q else none
  | [] => none

/-- Operand B of quadrant `u` read from the Comb store. -/
def Ctx.readTile (x : Ctx) (q : QDesc) (die u : Nat) : Ctx × TileOf × Bool :=
  let b := q.bytes
  let off := u * dQStride b
  let r := x.readRuns q die ((List.range (dK b)).map fun i => (dB b + off + i * dBPitch b, rowBytes (dFmtB b) (dN b)))
  let s := r.1.readFor q die (dSB b + off) (sbBytes b)
  (s.1, (r.2.1, s.2.1), r.2.2 || s.2.2)

/-- Operand B of every quadrant, and the bad quadrants. -/
def Ctx.readTiles (x : Ctx) (q : QDesc) (die u : Nat) : Nat → Ctx × List TileOf × List Nat
  | 0 => (x, [], [])
  | n + 1 =>
    let a := x.readTile q die u
    let b := a.1.readTiles q die (u + 1) n
    (b.1, a.2.1 :: b.2.1, (if a.2.2 then [u] else []) ++ b.2.2)

/-- A FILL passes its K-steps. -/
def Ctx.fill (x : Ctx) (k : Nat) (f : Freezes) : Ctx :=
  match x.issuable k 1 f with
  | none => x
  | some q =>
    let r := (x.workFor (.step q.step)).readTiles q (k / 32) 0 (shapeQuads (dShape q.bytes))
    r.1.issue k q f r.2.1 r.2.2

def execFill (c : Fin 8) (k : Fin 128) (f : Freezes) (s : State) : Res := chipNext c (·.fill k f) s

/-- The tiles that a bank holds for a descriptor. -/
def Bank.tiles (v : Bank) (b : Bytes) : List TileOf :=
  let len := rowBytes (dFmtB b) (dN b)
  (List.range (shapeQuads (dShape b))).map fun u =>
    (chunks (dK b) len ((v.tile.drop (u * dK b * len)).take (dK b * len)), (v.scales.drop (u * sbBytes b)).take (sbBytes b))

/-- The bank holds the tile that a descriptor with W_KEEP 1 keeps. DESIGN CHOICE (log entry 99): the tag of 05 R139 names no
SCALE, and the scale buffer holds the scales of the SCALE that was loaded; since results never depend on W_KEEP, a tile of
another SCALE is loaded again. -/
def Bank.kept (v : Bank) (b : Bytes) : Bool := dWKeep b && v.tag == some (tagOf b) && v.scale == dScale b

/-- The bank holds the descriptor's tile: loaded for it, or kept with a matching tag. -/
def Bank.serves (v : Bank) (b : Bytes) : Bool := v.loaded b || v.kept b

/-- A STREAM passes its K-steps over the tile in its bank. -/
def Ctx.stream' (x : Ctx) (k : Nat) (f : Freezes) : Ctx :=
  match x.issuable k 2 f with
  | none => x
  | some q =>
    let i := dWBank q.bytes
    let v := (x.comb k).bank i
    if !v.serves q.bytes then x
    else
      let miss := v.loaded q.bytes && dWKeep q.bytes
      let x := x.workFor (.step q.step)
      let x := if miss then x.combCount k 7 1 else if dWKeep q.bytes then x.combEvents k (some q) [(0xB, 1)] else x
      let x := v.bad.foldl (fun x _ => x.stepError q.step 0x0402 (dataDetail 0xFFFF q.layer 0xFFFF (x.storeSource q.step (k / 32) (dB q.bytes)))
        (2 ^ 62 * (k / 32) + dB q.bytes)) x
      let x := x.issue k q f (v.tiles q.bytes) v.bad
      x.setComb k ((x.comb k).setBank i { (x.comb k).bank i with fresh := none })

def execStream (c : Fin 8) (k : Fin 128) (f : Freezes) (s : State) : Res := chipNext c (·.stream' k f) s

/-- Poison a quadrant of a group. -/
def Group.poison (g : Group) (u : Nat) : Group :=
  if u < g.quads.length ∧ !g.poisoned.contains u then { g with poisoned := u :: g.poisoned } else g

/-- An uncorrectable error in a word of the tile or scales of quadrant `u` that bank `i` holds (05 R150). -/
def Comb.weightError (c : Comb) (i u : Nat) : Comb :=
  let v := c.bank i
  match v.fresh.or v.tag with
  | some t => if u < shapeQuads t.shape ∧ !v.bad.contains u then c.setBank i { v with bad := u :: v.bad } else c
  | none => c

/-- A parity error in the accumulators of quadrant `u` of the `n`-th group of results, oldest first (05 R150). -/
def Comb.accumulatorError (c : Comb) (n u : Nat) : Comb :=
  { c with drain := c.drain.modify n (·.poison u), pipe := c.pipe.modify (n - c.drain.length) fun g => if n < c.drain.length then g else g.poison u }

/-! ## Tile loads (05 R137, R139, R140) -/

/-- The first STREAM descriptor of the buffer for each bank. -/
def firstFor (l : List QDesc) (i : Nat) : Option QDesc := l.find? fun q => dOp q.bytes == 2 && dWBank q.bytes == i

/-- The next descriptor, in buffer order, whose tile is to be loaded: its bank is named by none before it. -/
def Comb.nextLoad (c : Comb) : Option QDesc :=
  c.buf.find? fun q => dOp q.bytes == 2 && firstFor c.buf (dWBank q.bytes) == some q && !(c.bank (dWBank q.bytes)).serves q.bytes

/-- What the load of a STREAM descriptor's tile reads. -/
def tileReads (b : Bytes) : List Range :=
  (List.range (shapeQuads (dShape b))).flatMap fun u => [rangeB b u, rangeSB b u]

/-- The load waits for the drains that write what it reads: those outstanding, and those of matrix descriptors before it in the
buffer (05 R137, R142). -/
def Comb.loadWaits (c : Comb) (q : QDesc) : Bool :=
  let before := (c.buf.takeWhile (· != q)).filter fun p => dOp p.bytes == 1 || dOp p.bytes == 2
  (c.draining ++ before.flatMap fun p => matrixWrites p.bytes).any fun w => (tileReads q.bytes).any w.meets

/-- A tile load starts, and the bank holds no tile until it is complete. -/
def Ctx.tileStart (x : Ctx) (k : Nat) : Ctx :=
  let c := x.comb k
  match c.loading, c.nextLoad with
  | none, some q =>
    if x.frozen || !x.awake || c.loadWaits q then x
    else
      let i := dWBank q.bytes
      x.setComb k { c.setBank i { c.bank i with tag := none, fresh := none } with loading := some (i, q) }
  | _, _ => x

def execTileLoadStart (c : Fin 8) (k : Fin 128) (s : State) : Res := chipNext c (·.tileStart k) s

/-- The tile and its scales are in the bank. -/
def Ctx.tileComplete (x : Ctx) (k : Nat) : Ctx :=
  match (x.comb k).loading with
  | none => x
  | some (i, q) =>
    if x.frozen || !x.awake then x
    else
      let b := q.bytes
      let r := (x.workFor (.step q.step)).readTiles q (k / 32) 0 (shapeQuads (dShape b))
      let x := r.1.combEvents k (some q) [(9, feedGranules b true - feedGranules b false)]
      let x := (x.queueIn (21 + 2 * k) (dK b / kStep (dFmtB b))).queueOut (21 + 2 * k) (dK b / kStep (dFmtB b))
      let v : Bank := ⟨some (tagOf b), (r.2.1.flatMap (·.1)).flatten, r.2.1.flatMap (·.2), r.2.2, some (tagOf b), dScale b⟩
      x.setComb k { (x.comb k).setBank i v with loading := none }

def execTileLoadComplete (c : Fin 8) (k : Fin 128) (s : State) : Res := chipNext c (·.tileComplete k) s

/-! ## Drains (05 R149, R150; 06 R168, R169; 13 R338) -/

/-- Stages 3 and 4: the value at C, and the conversion to OUT_FMT. The encoding, the flags, and the counts of the element. -/
def drainElem (b : Bytes) (e : AccElem) (old : Word32) : Nat × FFlags × Tally :=
  let int := fmtInt (dFmtA b)
  if int && dScale b == 0 then
    let r := if dAccIn b then satInt (signed 32 e.bits.toNat, e.saturated) (signed 32 old.toNat) else (signed 32 e.bits.toNat, e.saturated)
    (unsigned 32 r.1, .clear, ⟨0, 0, 0, b2n r.2⟩)
  else
    let r := if dAccIn b && !e.saturated then add32 (dStrict b) e.bits old else FR.plain e.bits
    let c := convertOut (dOutFmt b) r.v
    let fast := !dStrict b
    (c.1, if dStrict b then r.flags.or c.2.1 else .clear,
      ⟨b2n (fast && (e.flushed || r.flushed)), b2n (fast && outNonfinite (dOutFmt b) c.1), b2n c.2.2, b2n e.saturated⟩)

def Tally.add (a b : Tally) : Tally := ⟨a.flush + b.flush, a.nonfinite + b.nonfinite, a.conv + b.conv, a.int + b.int⟩

/-- Drain one row: read C where it is added, write the outputs. -/
def Ctx.drainRow (x : Ctx) (q : QDesc) (die a : Nat) (es : List AccElem) : Ctx × FFlags × Tally × Bool :=
  let b := q.bytes
  let w := cBytes (dOutFmt b)
  let old := if dAccIn b then x.readFor q die a (w * es.length) else (x, [], false)
  let rs := (List.range es.length).map fun j =>
    drainElem b (es.getD j ⟨0, false, false⟩) (BitVec.ofNat 32 (field old.2.1 (w * j) 4))
  let x := old.1.put (.sram die) (some q.super) a (rs.flatMap fun r => toLE w r.1)
  (x, (rs.map (·.2.1)).foldl FFlags.or .clear, (rs.map (·.2.2)).foldl Tally.add .zero, old.2.2)

/-- Drain the rows of a quadrant from address `a` on. -/
def Ctx.drainRows (x : Ctx) (q : QDesc) (die a : Nat) : List (List AccElem) → Ctx × FFlags × Tally × Bool
  | [] => (x, .clear, .zero, false)
  | r :: l =>
    let p := x.drainRow q die a r
    let s := p.1.drainRows q die (a + dCPitch q.bytes) l
    (s.1, p.2.1.or s.2.1, p.2.2.1.add s.2.2.1, p.2.2.2 || s.2.2.2)

/-- Poison the outputs of a quadrant. -/
def Ctx.poisonQuad (x : Ctx) (g : Group) (die u : Nat) : Ctx :=
  let b := g.desc.bytes
  (List.range (groupRows b g.row)).foldl (fun x i =>
    x.poisonRange (.sram die) (dC b + u * dQStride b + (g.row + i) * dCPitch b) (cBytes (dOutFmt b) * dN b)) x

/-- Drain the quadrants of a group. -/
def Ctx.drainQuads (x : Ctx) (g : Group) (die : Nat) : Nat → List (List (List AccElem)) → Ctx × FFlags × Tally × Bool
  | _, [] => (x, .clear, .zero, false)
  | u, m :: l =>
    let b := g.desc.bytes
    let p := x.drainRows g.desc die (dC b + u * dQStride b + g.row * dCPitch b) m
    let bad := g.poisoned.contains u || p.2.2.2
    let y := if bad then p.1.poisonQuad g die u else p.1
    let s := y.drainQuads g die (u + 1) l
    (s.1, p.2.1.or s.2.1, p.2.2.1.add s.2.2.1, bad || s.2.2.2)

/-- The flag bits of DESC_END and ROWOP_END. -/
def flagBits (f : FFlags) (strict dirty : Bool) : Nat :=
  b2n f.invalid + 2 * b2n f.divZero + 4 * b2n f.overflow + 8 * b2n f.underflow + 16 * b2n f.inexact + 32 * b2n strict + 64 * b2n dirty

/-- The counters of R169 at the end of a descriptor. -/
def Ctx.arithCounts (x : Ctx) (die super : Nat) (f : FFlags) (t : Tally) : Ctx :=
  x.counts ((List.range 9).map fun v =>
    (0x03, 8 * die + super, v,
      [b2n f.invalid, b2n f.divZero, b2n f.overflow, b2n f.underflow, b2n f.inexact, t.flush, t.nonfinite, t.conv, t.int].getD v 0))

/-- A matrix descriptor has ended. -/
def Ctx.matrixEnd (x : Ctx) (k : Nat) (g : Group) : Ctx :=
  let q := g.desc
  let b := q.bytes
  let d := k / 32
  let x := x.arithCounts d q.super g.flags g.tally
  let x := x.trace 2 k (some q.super) (x.oneStream q.step) q.code (flagBits g.flags (dStrict b) g.dirty) g.cycles g.frozen
  let c := x.comb k
  let v := c.bank (dWBank b)
  let x := if dOp b = 2 ∧ v.bad ≠ [] ∧ v.tag = some (tagOf b) then x.setComb k (c.setBank (dWBank b) { v with tag := none }) else x
  x.descEnd d q.step b

/-- The granules that a group's drain moves. -/
def drainGranules (g : Group) : Nat :=
  let b := g.desc.bytes
  let n := ((List.range (shapeQuads (dShape b))).map fun u =>
    ((List.range (groupRows b g.row)).map fun i =>
      granules (dC b + u * dQStride b + (g.row + i) * dCPitch b) (cBytes (dOutFmt b) * dN b)).sum).sum
  if dAccIn b then 2 * n else n

/-- The oldest group of Comb `k` is written to the Comb store. -/
def Ctx.groupDrain (x : Ctx) (k : Nat) : Ctx :=
  let c := x.comb k
  match c.drain with
  | [] => x
  | g :: r =>
    if x.frozen || !x.awake then x
    else
      let p := (x.workFor (.step g.desc.step)).drainQuads g (k / 32) 0 g.quads
      let g' := { g with flags := g.flags.or p.2.1, tally := g.tally.add p.2.2.1, dirty := g.dirty || p.2.2.2 }
      let x := p.1.combEvents k (some g.desc) [(0xA, drainGranules g)]
      let carry := fun (h : Group) => if g.last then h else { h with flags := h.flags.or g'.flags, tally := g'.tally, dirty := g'.dirty }
      let c' := x.comb k
      let e := match r with
        | h :: l => Comb.enterDrain { c' with drain := carry h :: l }
        | [] => Comb.enterDrain { c' with drain := [], pipe := c'.pipe.head?.toList.map carry ++ c'.pipe.drop 1 }
      let x := ((x.setComb k e.1).queueOut (276 + k) 1).queueIn (276 + k) e.2
      if g.last then x.matrixEnd k g' else x

def execGroupDrainComplete (c : Fin 8) (k : Fin 128) (s : State) : Res := chipNext c (·.groupDrain k) s

end Sys2Proof.Machine
end

