-- ==== Sys2Proof/Machine/RowOps.lean ====
section
/-! DEFINITION. Row operations: the request queues, MAP, SOFTMAX, RMSNORM and LAYERNORM tile by tile, and selection row by row
(05 R144; 07 R184 to R194, R429). -/
namespace Sys2Proof.Machine

/-! ## Request queues and the hold slot (01 R34, 05 R144) -/

/-- A row operation before its first tile or row. -/
def SfuCtx.start (q : QDesc) : SfuCtx := ⟨q, 0, 0, 0, inf32 true, 0, 0, [], false, [], false, false, .clear, .zero, 0⟩

/-- The Combs of die `d`. -/
def dieCombs (d : Nat) : List Nat := (List.range 32).map (32 * d + ·)

/-- The request queue of a unit of die `d` has a free entry: 32 for the SFU, 16 for the selection unit (01 R35). A request keeps its
entry until its operation ends. -/
def Ctx.rowSpace (x : Ctx) (d : Nat) (sfu : Bool) : Bool :=
  if sfu then decide (((dieCombs d).map fun k => (x.comb k).sfu.length).sum < 32)
  else decide (((dieCombs d).map fun k => (x.comb k).sel.length).sum < 16)

/-- The Combs of die `d` whose held operation waits for a credit of this unit (01 R34). -/
def Ctx.rowWaiters (x : Ctx) (d : Nat) (sfu : Bool) : List Nat :=
  (dieCombs d).filter fun k => match (x.comb k).hold with | some q => (dOp q.bytes == 3) == sfu | none => false

/-- The arbiter of a unit's request queue. -/
def Die.rowArb (v : Die) (sfu : Bool) : Arb := if sfu then v.sfuArb else v.selArb

/-- The request queue of a row operation's unit gives Comb `k` a credit: it has a free entry, and its arbiter grants it to `k` where
Combs wait for one (01 R34, 05 R144). -/
def Ctx.rowCredit (x : Ctx) (k : Nat) (q : QDesc) : Bool :=
  let d := k / 32
  let sfu := dOp q.bytes == 3
  let w := x.rowWaiters d sfu
  x.rowSpace d sfu && (w.isEmpty || ((x.die d).rowArb sfu).mayGrant (fun _ => 1) w k)

/-- The arbiter has granted the credit that Comb `k` waited for. -/
def Ctx.rowGranted (x : Ctx) (k : Nat) (sfu : Bool) : Ctx :=
  let d := k / 32
  let a := ((x.die d).rowArb sfu).grant (fun _ => 1) (x.rowWaiters d sfu) k
  x.setDie d (if sfu then { x.die d with sfuArb := a } else { x.die d with selArb := a })

/-- Comb `k` waits in the SFU request queue of its die. -/
def Ctx.enqueueSfu (x : Ctx) (k : Nat) : Ctx :=
  let d := k / 32
  if (x.die d).sfuQ.contains k || (x.die d).granted == some k then x
  else x.setDie d { x.die d with sfuQ := (x.die d).sfuQ ++ [k] }

/-- Comb `k` waits in the selection request queue of its die. -/
def Ctx.enqueueSel (x : Ctx) (k : Nat) : Ctx :=
  let d := k / 32
  if (x.die d).selQ.contains k then x else x.setDie d { x.die d with selQ := (x.die d).selQ ++ [k] }

/-- Place the request of a row operation. -/
def Ctx.placeRow (x : Ctx) (k : Nat) (q : QDesc) : Ctx :=
  let c := x.comb k
  (if dOp q.bytes = 3 then ((x.setComb k { c with sfu := c.sfu ++ [.start q] }).enqueueSfu k).queueIn (404 + k / 32) 1
  else ((x.setComb k { c with sel := c.sel ++ [.start q] }).enqueueSel k).queueIn (408 + k / 32) 1).activate

/-- The row operation at the head of Comb `k`'s buffer is requested, or set aside in the hold slot. DESIGN CHOICE (log entry 99): a
second row operation waits at the head of the buffer for the hold slot, and the matrix descriptors behind it wait with it. -/
def Ctx.rowIssue (x : Ctx) (k : Nat) (p : Bytes → Bool) : Ctx :=
  let c := x.comb k
  match c.buf with
  | q :: r =>
    if x.frozen || !x.awake || !p q.bytes || c.hold.isSome then x
    else if x.rowCredit k q then (x.setComb k { c with buf := r }).placeRow k q
    else x.setComb k { c with buf := r, hold := some q }
  | [] => x

def sfuKind (op : Nat) (b : Bytes) : Bool := dOp b == 3 && sRowOp b == op

def execSfuMap (c : Fin 8) (k : Fin 128) (s : State) : Res := chipNext c (·.rowIssue k (sfuKind 0)) s
def execSoftmax (c : Fin 8) (k : Fin 128) (s : State) : Res := chipNext c (·.rowIssue k (sfuKind 1)) s
def execRmsnorm (c : Fin 8) (k : Fin 128) (s : State) : Res := chipNext c (·.rowIssue k (sfuKind 2)) s
def execLayernorm (c : Fin 8) (k : Fin 128) (s : State) : Res := chipNext c (·.rowIssue k (sfuKind 3)) s
def execSelection (c : Fin 8) (k : Fin 128) (s : State) : Res := chipNext c (·.rowIssue k fun b => dOp b == 4) s

/-- The held row operation enters its request queue. -/
def Ctx.holdRelease (x : Ctx) (k held : Nat) : Ctx :=
  match (x.comb k).hold with
  | some q =>
    if x.frozen || !x.awake || !x.rowCredit k q then x
    else
      let x := (x.combEvents k (some q) [(0xD, held)]).rowGranted k (dOp q.bytes == 3)
      (x.setComb k { x.comb k with hold := none }).placeRow k q
  | none => x

def execHoldSlotRelease (c : Fin 8) (k : Fin 128) (held : Nat) (s : State) : Res := chipNext c (·.holdRelease k held) s

/-! ## Tiles (07 R185) -/

/-- Elements of tile `t` of a row. -/
def tileLen (b : Bytes) (t : Nat) : Nat := min 128 (rLen b - 128 * t)

/-- The first byte of tile `t` of a row with elements of `w` bytes. -/
def tileAt (base row pitch t w : Nat) : Nat := base + row * pitch + 128 * t * w

/-- The elements of a run of `n` with `w` bytes each from `a` that meet a granule of `gs`. -/
def meeting (a w n : Nat) (gs : List Nat) : List Nat := (List.range n).filter fun i => gs.any fun g => overlap (a + i * w) w g 64

/-- Read `n` elements for a row operation: their FP32 values, and which of them a bad granule holds. -/
def Ctx.readElems (x : Ctx) (q : QDesc) (die fmt a n : Nat) : Ctx × List Word32 × List Nat :=
  let w := inBytes fmt
  let r := x.inspect (.sram die) (some q.super) a (w * n)
  let bs := (r.1.store (.sram die)).readN a (w * n)
  (r.1.badOperands q die r.2, (List.range n).map (fun i => inTo32 fmt (field bs (w * i) w)), meeting a w n (r.2.map (·.1)))

/-- Write the encodings of `w` bytes each from `a`, and poison the outputs listed in `bad`. -/
def Ctx.writeElems (x : Ctx) (q : QDesc) (die w a : Nat) (vs : List Nat) (bad : List Nat) : Ctx :=
  let x := x.put (.sram die) (some q.super) a (vs.flatMap fun v => toLE w v)
  bad.foldl (fun x i => x.poisonRange (.sram die) (a + i * w) w) x

/-- Tile `t` of the current row of the input. -/
def Ctx.tileIn (x : Ctx) (s : SfuCtx) (die : Nat) : Ctx × List Word32 × List Nat :=
  let b := s.desc.bytes
  x.readElems s.desc die (sInFmt b) (tileAt (sIn b) s.row (sInPitch b) s.tile (inBytes (sInFmt b))) (tileLen b s.tile)

/-- Pairs of neighbours added: the sums, the flags raised, and whether a sum was flushed. -/
def pairUp (strict : Bool) : List Word32 → List Word32 × FFlags × Bool
  | a :: b :: r =>
    let f := add32 strict a b
    let s := pairUp strict r
    (f.v :: s.1, f.flags.or s.2.1, f.flushed || s.2.2)
  | l => (l, .clear, false)

/-- The balanced binary tree of at most 2^n values; a value without a partner goes up unchanged (07 R184). -/
def treeSum (strict : Bool) : Nat → List Word32 → FR
  | 0, l => .plain (l.headD 0)
  | n + 1, l =>
    let p := pairUp strict l
    let s := treeSum strict n p.1
    ⟨s.v, p.2.1.or s.flags, p.2.2 || s.flushed⟩

/-- The flags of a list of results. -/
def flagsOf (l : List FR) : FFlags := (l.map (·.flags)).foldl FFlags.or .clear

/-- The elements of tile `t` whose results were flushed, as elements of the row. -/
def flushedAt (t : Nat) (l : List FR) : List Nat :=
  (List.range l.length).filterMap fun i => if (l.map (·.flushed)).getD i false then some (128 * t + i) else none

/-- Gather flags and flushed elements. -/
def SfuCtx.note (s : SfuCtx) (f : FFlags) (fl : List Nat) : SfuCtx := { s with flags := s.flags.or f, flush := s.flush ++ fl }

/-- Gather the flags and flushes of results that every element of the row shares. -/
def SfuCtx.noteRow (s : SfuCtx) (l : List FR) : SfuCtx :=
  { s with flags := s.flags.or (flagsOf l), rowFlush := s.rowFlush || l.any (·.flushed) }

/-- Write the final results of a tile at OUT_FMT width: counted, poisoned where an element is bad. -/
def Ctx.tileOut (x : Ctx) (s : SfuCtx) (die : Nat) (ys : List FR) (bad : List Nat) : Ctx × SfuCtx :=
  let b := s.desc.bytes
  let fast := !dStrict b
  let w := outBytes (dOutFmt b)
  let cs := ys.map fun y => convertOut (dOutFmt b) y.v
  let s := s.note (if fast then .clear else (flagsOf ys).or ((cs.map (·.2.1)).foldl FFlags.or .clear)) (flushedAt s.tile ys)
  let n := fun (p : Nat × FFlags × Bool → Bool) => if fast then cs.countP p else 0
  let here := (List.range ys.length).filter fun i => s.rowFlush || s.flush.contains (128 * s.tile + i)
  let t := s.tally.add ⟨if fast then here.length else 0, n fun c => outNonfinite (dOutFmt b) c.1, n fun c => c.2.2, 0⟩
  (x.writeElems s.desc die w (tileAt (sOut b) s.row (sOutPitch b) s.tile w) (cs.map (·.1)) bad,
    { s with tally := t, dirty := s.dirty || !bad.isEmpty })

/-- MAP: FUNC(a × x + b). -/
def Ctx.mapTile (x : Ctx) (s : SfuCtx) (die : Nat) : Ctx × SfuCtx :=
  let b := s.desc.bytes
  let r := x.tileIn s die
  let us := r.2.1.map fun v => fmaKeep (dStrict b) (sParam0 b) v (sParam1 b)
  let ys := us.map fun u => slotFn (dStrict b) x.act.micro (sFunc b) u.v
  r.1.tileOut (s.note (flagsOf us) []) die ys r.2.2

/-- The maximum of two values, NaN where one is; `pick` says which of two zeros it is. -/
def max32 (pick : Bool) (a b : Word32) : Word32 :=
  if isNan a || isNan b then nan32 else if lt32 a b then b else if lt32 b a then a else if pick then a else b

/-- SOFTMAX, pass 1 (07 R186). -/
def Ctx.softmaxFirst (x : Ctx) (s : SfuCtx) (die : Nat) : Ctx × SfuCtx :=
  let b := s.desc.bytes
  let st := dStrict b
  let r := x.tileIn s die
  let zs := r.2.1.map (mul32 st (sParam0 b))
  let mt := zs.foldl (fun m z => max32 (Config.freeNat x.free % 2 == 0) m z.v) s.m
  let up := lt32 s.m mt && !isZero s.l
  let e := if up then expDiff32 st s.m mt else .plain one32
  let l := if up then mul32 st s.l e.v else .plain s.l
  let ps := zs.map fun z => expDiff32 st z.v mt
  let t := treeSum st 7 (ps.map (·.v))
  let n := add32 st l.v t.v
  let x := r.1.bump.writeElems s.desc die 4 (tileAt (sOut b) s.row (sOutPitch b) s.tile 4) (ps.map (·.v.toNat)) []
  let s := (s.note (flagsOf (zs ++ ps)) (flushedAt s.tile zs ++ flushedAt s.tile ps)).noteRow [e, l, t, n]
  (x, { s with m := mt, l := n.v, tmax := s.tmax ++ [mt], bad := s.bad || !r.2.2.isEmpty })

/-- The factor r of pass 2: +0 for a row of -∞ only, RN(1 ÷ c) for a row with c elements of +∞, else RECIP(l) (07 R186, R189). -/
def softmaxRecip (strict : Bool) (m l : Word32) : FR :=
  if isZero l then .plain 0
  else if isInf m then
    match dec32 l with
    | .fin n k e => let r := div32 (2 ^ 149) (k * 2 ^ (e + 149).toNat); finishFn strict r (exactFn 0 n k e r)
    | _ => .plain nan32
  else shippedFn strict 0 l

/-- SOFTMAX, pass 2. -/
def Ctx.softmaxSecond (x : Ctx) (s : SfuCtx) (die : Nat) : Ctx × SfuCtx :=
  let b := s.desc.bytes
  let st := dStrict b
  let r := if s.tile = 0 then softmaxRecip st s.m s.l else .plain s.r
  let s := { s with r := r.v }.noteRow [r]
  let p := x.readElems s.desc die 0 (tileAt (sOut b) s.row (sOutPitch b) s.tile 4) (tileLen b s.tile)
  let tm := s.tmax.getD s.tile nan32
  let e := if eq32 tm s.m then .plain one32 else expDiff32 st tm s.m
  let f := if eq32 tm s.m then .plain s.r else mul32 st e.v s.r
  let ys := p.2.1.map fun v => let y := mul32 st v f.v; { y with flushed := y.flushed || e.flushed || f.flushed }
  p.1.tileOut ({ s with bad := s.bad || !p.2.2.isEmpty }.note (flagsOf [e, f]) []) die ys []

/-- 1 ÷ LEN, a constant that raises no flag (07 R184). -/
def invLen (b : Bytes) : Word32 := div32 1 (rLen b)

/-- Add a tile's sum to that of the tiles before it. -/
def SfuCtx.addTile (s : SfuCtx) (strict : Bool) (t : FR) : SfuCtx :=
  if s.tile = 0 then { s.noteRow [t] with l := t.v }
  else let r := add32 strict s.l t.v; { s.noteRow [t, r] with l := r.v }

/-- The difference from the mean. -/
def sub32 (strict : Bool) (a b : Word32) : FR := add32 strict a (b ^^^ 0x80000000)

/-- A summing pass of a norm: squares of x (RMSNORM), x itself, or squares of x - μ (LAYERNORM). -/
def Ctx.normSum (x : Ctx) (s : SfuCtx) (die : Nat) : Ctx × SfuCtx :=
  let b := s.desc.bytes
  let st := dStrict b
  let r := x.tileIn s die
  let ds := if sRowOp b = 3 ∧ s.pass = 1 then r.2.1.map (sub32 st · s.m) else r.2.1.map FR.plain
  let qs := if sRowOp b = 3 ∧ s.pass = 0 then ds else ds.map fun d => mul32 st d.v d.v
  let s : SfuCtx := (s.note (flagsOf (ds ++ qs)) (flushedAt s.tile ds ++ flushedAt s.tile qs)).addTile st (treeSum st 7 (qs.map (·.v)))
  let s : SfuCtx := { s with bad := s.bad || !r.2.2.isEmpty }
  if sRowOp b = 3 ∧ s.pass = 0 ∧ rLen b ≤ 128 * (s.tile + 1) then
    let μ := mul32 st s.l (invLen b)
    (r.1, { s.noteRow [μ] with m := μ.v })
  else (r.1, s)

/-- Gains or biases of a tile, from element `off` of the auxiliary range; `d` where AUX_ADDR is 0. -/
def Ctx.auxIn (x : Ctx) (s : SfuCtx) (die off : Nat) (d : Word32) : Ctx × List Word32 × List Nat :=
  let b := s.desc.bytes
  let n := tileLen b s.tile
  if sAux b = 0 then (x, List.replicate n d, [])
  else x.readElems s.desc die (sInFmt b) (sAux b + (off + 128 * s.tile) * inBytes (sInFmt b)) n

/-- The last pass of a norm. -/
def Ctx.normLast (x : Ctx) (s : SfuCtx) (die : Nat) : Ctx × SfuCtx :=
  let b := s.desc.bytes
  let st := dStrict b
  let v := mul32 st s.l (invLen b)
  let e := add32 st v.v (sParam0 b)
  let f := shippedFn st 1 e.v
  let s := if s.tile = 0 then { s.noteRow [v, e, f] with r := f.v } else s
  let r := x.tileIn s die
  let g := r.1.auxIn s die 0 one32
  let h := if sRowOp b = 3 then g.1.auxIn s die (rLen b) 0 else (g.1, [], [])
  let ds := if sRowOp b = 3 then r.2.1.map (sub32 st · s.m) else r.2.1.map FR.plain
  let us := ds.map fun d => mul32 st d.v s.r
  let ys := (List.range us.length).map fun i =>
    let u := us.getD i (.plain 0)
    if sRowOp b = 3 then fma32 st u.v (g.2.1.getD i one32) (h.2.1.getD i 0) else mul32 st u.v (g.2.1.getD i one32)
  h.1.tileOut ({ s with bad := s.bad || !r.2.2.isEmpty }.note (flagsOf (ds ++ us)) (flushedAt s.tile ds ++ flushedAt s.tile us)) die ys
    (g.2.2 ++ h.2.2)

/-- Passes over a row. -/
def rowPasses (op : Nat) : Nat := match op with | 0 => 1 | 3 => 3 | _ => 2

/-- Steps of a shipped function (07 R182). -/
def shippedSteps : List Nat := [5, 6, 8, 6, 5, 7, 12, 10, 11, 16, 9, 9]

/-- Array cycles of a tile (07 R185). -/
def tileCost (micro : Mem) (b : Bytes) (pass tile : Nat) : Nat :=
  match sRowOp b with
  | 0 => 2 * (if sFunc b < 12 then shippedSteps.getD (sFunc b) 0 else iCount (slotImage micro (sFunc b))) + 6
  | 1 => if pass = 0 then 24 else 10
  | op => if pass + 1 = rowPasses op then (if tile = 0 then 26 else 6) else 4

/-- The arithmetic of the tile that a context serves next. -/
def Ctx.serveTile (x : Ctx) (s : SfuCtx) (die : Nat) : Ctx × SfuCtx :=
  match sRowOp s.desc.bytes with
  | 0 => x.mapTile s die
  | 1 => if s.pass = 0 then x.softmaxFirst s die else x.softmaxSecond s die
  | op => if s.pass + 1 = rowPasses op then x.normLast s die else x.normSum s die

/-- The end of a row: statistics, special rows, and poison for a row whose input was bad (07 R186, R189, R429). -/
def Ctx.rowEnd (x : Ctx) (s : SfuCtx) (die : Nat) : Ctx × SfuCtx :=
  let b := s.desc.bytes
  let soft := sRowOp b = 1
  let stat := sStat b + 8 * s.row
  let x :=
    if soft ∧ sStat b ≠ 0 then x.put (.sram die) (some s.desc.super) stat (toLE 4 s.m.toNat ++ toLE 4 s.l.toNat) else x
  let x :=
    if soft then
      if isNan s.m then x.count 0x04 (8 * die + s.desc.super) 3 1
      else if isInf s.m then x.count 0x04 (8 * die + s.desc.super) (if isNeg s.m then 2 else 4) 1
      else x
    else x
  let x :=
    if s.bad then
      let x := x.poisonRange (.sram die) (sOut b + s.row * sOutPitch b) (rLen b * outBytes (dOutFmt b))
      if soft ∧ sStat b ≠ 0 then x.poisonRange (.sram die) stat 8 else x
    else x
  (x, { s with row := s.row + 1, pass := 0, tile := 0, m := inf32 true, l := 0, r := 0, tmax := [], bad := false, flush := [],
               rowFlush := false, dirty := s.dirty || s.bad })

/-- The context after a tile: the next tile, the next pass, or the end of the row. -/
def Ctx.afterTile (x : Ctx) (s : SfuCtx) (die : Nat) : Ctx × SfuCtx :=
  let b := s.desc.bytes
  if 128 * (s.tile + 1) < rLen b then (x, { s with tile := s.tile + 1 })
  else if s.pass + 1 < rowPasses (sRowOp b) then (x, { s with tile := 0, pass := s.pass + 1 })
  else x.rowEnd s die

/-- A row operation has ended: counts, ROWOP_END, its token (07 R174; 13 R338). -/
def Ctx.rowOpEnd (x : Ctx) (k : Nat) (s : SfuCtx) : Ctx :=
  let q := s.desc
  let b := q.bytes
  let d := k / 32
  let sel := dOp b = 4
  let x := if sel then x else x.arithCounts d q.super s.flags s.tally
  let x := x.trace 3 (if sel then 132 + d else 128 + d) (some q.super) (x.oneStream q.step) q.code
    (if sel then 0 else flagBits s.flags (dStrict b) s.dirty) s.cycles (dRows b)
  let c := x.comb k
  let x := if sel then (x.setComb k { c with sel := c.sel.drop 1 }).queueOut (408 + d) 1
    else (x.setComb k { c with sfu := c.sfu.drop 1 }).queueOut (404 + d) 1
  x.descEnd d q.step b

/-- Comb `k` waits again where it has a row operation left. -/
def Ctx.requeueSfu (x : Ctx) (k : Nat) : Ctx := if (x.comb k).sfu.isEmpty then x else x.enqueueSfu k
def Ctx.requeueSel (x : Ctx) (k : Nat) : Ctx := if (x.comb k).sel.isEmpty then x else x.enqueueSel k

/-! ## Grants (07 R185) -/

/-- The lanes of the SFU as a MAP tile starts: a × x + b in v0 of each. -/
def Ctx.loadLanes (x : Ctx) (s : SfuCtx) (die : Nat) : Tab Lane :=
  let b := s.desc.bytes
  if sRowOp b ≠ 0 then []
  else
    let w := inBytes (sInFmt b)
    let n := min 64 (tileLen b s.tile)
    let bs := (x.store (.sram die)).readN (tileAt (sIn b) s.row (sInPitch b) s.tile w) (w * n)
    (List.range n).foldl (fun t i =>
      tset .empty t i { Lane.empty with
        regs := tset 0 [] 0 (fmaKeep (dStrict b) (sParam0 b) (inTo32 (sInFmt b) (field bs (w * i) w)) (sParam1 b)).v }) []

/-- The Comb that has waited longest is granted a tile. -/
def Ctx.tileGrant (x : Ctx) (d : Nat) : Ctx :=
  let v := x.die d
  match v.granted, v.sfuQ with
  | none, k :: r =>
    if x.frozen || !x.awake then x
    else
      let l := match (x.comb k).sfu with | s :: _ => x.loadLanes s d | [] => []
      x.setDie d { v with granted := some k, sfuQ := r, lanes := l }
  | _, _ => x

def execSfuTileGrant (c : Fin 8) (die : Fin 4) (s : State) : Res := chipNext c (·.tileGrant die) s

/-- The granted tile ends; `waited` gives the array cycles in which requests of each Super waited. -/
def Ctx.tileEnd (x : Ctx) (d : Nat) (waited : List Nat) : Ctx :=
  match (x.die d).granted with
  | none => x
  | some k =>
    match (x.comb k).sfu with
    | [] => x
    | s :: l =>
      if x.frozen || !x.awake then x
      else
        let b := s.desc.bytes
        let x := (x.workFor (.step s.desc.step)).charge d 20000000
        let x := x.setDie d { x.die d with granted := none }
        let x := (x.count 0x04 (8 * d + s.desc.super) 0 1).counts ((List.range 8).map fun u => (0x04, 8 * d + u, 1, waited.getD u 0))
        let r := x.serveTile { s with cycles := s.cycles + tileCost x.act.micro b s.pass s.tile } d
        let n := r.1.afterTile r.2 d
        (if n.2.row < dRows b then n.1.setComb k { n.1.comb k with sfu := n.2 :: l } else n.1.rowOpEnd k n.2).requeueSfu k

def execSfuTileComplete (c : Fin 8) (die : Fin 4) (waited : List Nat) (s : State) : Res := chipNext c (·.tileEnd die waited) s

/-! ## Selection (07 R190, R191, R193) -/

/-- One merge pass: runs and run length after it. -/
def mergePass (k : Nat) (p : Nat × Nat) : Nat × Nat := (ceilDiv p.1 16, min k (p.2 * min 16 p.1))

/-- The merge passes from a number of runs: how many, and the cycles of their writes. -/
def mergePasses (k : Nat) : Nat → Nat × Nat → Nat × Nat
  | 0, _ => (0, 0)
  | n + 1, p =>
    if p.1 ≤ 1 then (0, 0)
    else
      let q := mergePass k p
      let r := mergePasses k n q
      (r.1 + 1, r.2 + ceilDiv (q.1 * q.2) 4)

/-- Merge passes and array cycles of a row. -/
def selCost (l k : Nat) : Nat × Nat :=
  if k ≤ 64 then (0, ceilDiv l 16 + k + 24)
  else let p := mergePasses k 32 (ceilDiv l 64, 64); (p.1, ceilDiv l 16 + p.2 + 24)

/-- Element `a` ranks no later than `b`: index, value, and the free order of equal keys. -/
def rankLe (smallest : Bool) (a b : Nat × Word32 × Nat) : Bool :=
  match isNan a.2.1, isNan b.2.1 with
  | true, true => decide (a.2.2 ≤ b.2.2)
  | true, false => false
  | false, true => true
  | false, false =>
    if eq32 a.2.1 b.2.1 then decide (a.2.2 ≤ b.2.2) else if smallest then lt32 a.2.1 b.2.1 else lt32 b.2.1 a.2.1

/-- The K highest-ranked elements of a row, in rank order. -/
def selectRow (smallest : Bool) (k stamp : Nat) (vs : List Word32) : List (Nat × Word32) :=
  let l := (List.range vs.length).map fun i => (i, vs.getD i 0, Config.freeNat (stamp + i))
  ((sortBy (rankLe smallest) l).take k).map fun e => (e.1, if isNan e.2.1 then nan32 else e.2.1)

/-- The selection unit finishes the row of the Comb that has waited longest. -/
def Ctx.selectionRow (x : Ctx) (d : Nat) : Ctx :=
  let v := x.die d
  match v.selQ with
  | [] => x
  | k :: r =>
    match (x.comb k).sel with
    | [] => x
    | s :: l =>
      if x.frozen || !x.awake then x
      else
        let q := s.desc
        let b := q.bytes
        let x := (x.workFor (.step q.step)).charge d (15 * rLen b)
        let x := x.setDie d { v with selQ := r }
        let a := x.readElems q d (lInFmt b) (lIn b + s.row * lInPitch b) (rLen b)
        let c := if lK b ≤ 64 then (a.1, false) else
          let i := (a.1.memEnergy (.sram d) (16 * rLen b)).inspect (.sram d) (some q.super) (lScratch b) (16 * rLen b)
          ((i.1.badOperands q d i.2).blur (.sram d) (lScratch b) (16 * rLen b), !i.2.isEmpty)
        let es := selectRow (lOrder b) (lK b) c.1.free a.2.1
        let x := { c.1 with free := c.1.free + rLen b }
        let out := lOut b + s.row * lOutPitch b
        let x := x.put (.sram d) (some q.super) out (es.flatMap fun e => toLE 4 e.1 ++ toLE 4 e.2.toNat)
        let bad := c.2 || !a.2.2.isEmpty
        let x := if bad then x.poisonRange (.sram d) out (8 * lK b) else x
        let cost := selCost (rLen b) (lK b)
        let i := 8 * d + q.super
        let x := x.counts [(0x04, i, 5, 1), (0x04, i, 6, cost.1), (0x04, i, 7, es.countP fun e => isNan e.2)]
        let s := { s with row := s.row + 1, cycles := s.cycles + cost.2, dirty := s.dirty || bad }
        (if s.row < dRows b then x.setComb k { x.comb k with sel := s :: l } else x.rowOpEnd k s).requeueSel k

def execSelectionRowComplete (c : Fin 8) (die : Fin 4) (s : State) : Res := chipNext c (·.selectionRow die) s

end Sys2Proof.Machine
end

