-- ==== Sys2Proof/Machine/Copies.lean ====
section
/-! DEFINITION. Copies: FORAGER_COPY, copy descriptors on the Foragers, host read timeouts (08 R195, R202 to R208, R213, R214;
10 R251, R252, R272; 16 R404, R410). -/
namespace Sys2Proof.Machine

/-! ## FORAGER_COPY (08 R204, R206) -/

/-- The destination of one descriptor meets a range of another. -/
def destMeets (a b : Bytes) : Bool :=
  let same := cDst a == cDst b && (cDst a != 2 || cDstDie a == cDstDie b) &&
    (cDst a != 4 || cDstAddr a / 2 ^ 48 == cDstAddr b / 2 ^ 48)
  (same && (cDstRange a).meets (cDstRange b)) || endsMeet (cDst a) (cDstDie a) (cDstRange a) (cSrc b) (cSrcDie b) (cSrcRange b)

/-- The destination of descriptor `i` meets a range of another of the command. -/
def destClash (l : List Bytes) (i : Nat) : Bool :=
  (List.range l.length).any fun j => j != i && destMeets (l.getD i []) (l.getD j [])

/-- The first failing check of each descriptor. -/
def Ctx.copyFails (x : Ctx) (super : Nat) (l : List Bytes) : List (Nat × Nat × Nat) :=
  (List.range l.length).filterMap fun i =>
    let b := l.getD i []
    match copyCheck x.act.superMap super false (x.stream (cStream b)) b with
    | some f => some (f.2, i, f.1)
    | none => if destClash l i then some (9, i, 0x0105) else none

/-- Check by check over the descriptors: (order, index, status) of the first failure. -/
def Ctx.copyFail (x : Ctx) (super : Nat) (l : List Bytes) : Option (Nat × Nat × Nat) :=
  (x.copyFails super l).foldl (fun m f =>
    match m with | none => some f | some g => if f.1 < g.1 then some f else some g) none

def Ctx.foragerCopy (x : Ctx) (k : Cmd) (data : Bytes) : Ctx :=
  let super := k.arg 28 1 % 8
  let n := k.arg 32 4
  let l := chunks n 64 (fit (64 * n) data)
  if k.qp ≠ 0 ∧ super ≠ x.sup k then x.refuse k 0x0209 0 0
  else if (k.qp = 0 ∧ superDefined x.act.superMap super = false) ∨ n < 1 ∨ 4096 < n then x.refuse k 0x0105 0 0
  else match x.copyFail super l with
    | some f => x.refuse k f.2.2 (f.2.1 + 2 ^ 16 * f.1) 0
    | none =>
      let x := (x.setPhase k.id .running).onEng fun e => { e with copies := e.copies ++ [⟨k.id, n, none, 0⟩] }
      (List.range n).foldl (fun x i => x.placeCopy ⟨l.getD i [], super, some k.id, none, 0, 0, i, 0, none⟩) x

/-- The streams that the frames sources of copy descriptors name. -/
def frameStreams (l : List Bytes) : List Nat := (l.filter fun b => cSrc b == 3).map cStream

/-- FORAGER_COPY starts once the streams it names are free of earlier commands of its queue (03 R87). -/
def execForagerCopy (c : Fin 8) (id : Nat) (data : Bytes) (s : State) : Res :=
  chipNext c (fun x =>
    let n := match x.cmd? id with | some k => k.arg 32 4 | none => 0
    match x.start? id 0x50 (fun _ => true) (some (frameStreams (chunks n 64 (fit (64 * n) data)))) with
    | none => x
    | some k => (x.begin k).foragerCopy k data) s

/-! ## The source of one row -/

/-- A run of source data: its bytes, and its bad granules by offset, with the error, the address reported, and the frame-table index
or 0xFFFF. -/
structure Run where
  bytes : Bytes
  bad : List (Nat × SrcErr × Nat × Nat)
  deriving DecidableEq, Repr

/-- A run read from an on-chip memory. -/
def Ctx.readRun (x : Ctx) (j : CopyJob) (p : Spc) (a n index : Nat) : Ctx × Run :=
  let r := x.inspect p (some j.super) a n
  (r.1, ⟨(r.1.store p).readN a n, r.2.map fun g => (g.1 - a, g.2, p.named g.1, index)⟩)

def Run.append (a b : Run) : Run := ⟨a.bytes ++ b.bytes, a.bad ++ b.bad.map fun g => (g.1 + a.bytes.length, g.2)⟩

/-- The stream that a frames source names, as it is when the copy starts. Where the ID has been freed or opened again since the
checks, the occupant that the copy names has no committed slot left (04 R103; 08 R208). -/
def Ctx.framesSource (x : Ctx) (b : Bytes) : Stream :=
  let t := x.stream (cStream b)
  if t.gen = cGen b ∧ t.state ≠ .free then t else { t with position := 0 }

/-- One granule of a stream's frame image of a layer: committed slots as they are, every other slot as zeros (08 R199, R208). -/
def Ctx.frameGranule (x : Ctx) (j : CopyJob) (t : Stream) (layer off : Nat) : Ctx × Run :=
  let m := x.act.superMap
  let size := superFrameBytes m j.super
  let i := off / size
  let pos := 64 * i + off % size / (size / 64)
  if pos < t.position then
    match (t.table[i]?).bind (·[layer]?) with
    | some f => x.readRun j .hbm (frameAddr m j.super f + off % size) 64 i
    | none => (x.bump, ⟨(List.range 64).map fun b => Config.freeByte x.free b, []⟩)
  else (x, ⟨zeroBytes 64, []⟩)

/-- `n` granules of a frame image. -/
def Ctx.frameRun (x : Ctx) (j : CopyJob) (t : Stream) (layer : Nat) : Nat → Nat → Ctx × Run
  | _, 0 => (x, ⟨[], []⟩)
  | off, n + 1 =>
    let a := x.frameGranule j t layer off
    let b := a.1.frameRun j t layer (off + 64) n
    (b.1, a.2.append b.2)

/-- Row `i` of a copy's source. Host data comes with the command: `host` from the first row on, and the offsets that failed. -/
def Ctx.sourceRow (x : Ctx) (j : CopyJob) (t : Stream) (host : Bytes) (bad : List (Nat × SrcErr)) (i : Nat) : Ctx × Run :=
  let b := j.bytes
  let n := cRowBytes b
  let a := cSrcAddr b + i * cSrcPitch b
  match cSrc b with
  | 0 =>
    let here := bad.filter fun g => decide (i * n ≤ g.1 ∧ g.1 < (i + 1) * n)
    let x := here.foldl (fun x g => x.hostError g.2) x
    (x.pcieBytes n, ⟨fit n ((host.drop (i * n)).take n), here.map fun g => (granule (g.1 - i * n), SrcErr.hostRead, 0, 0xFFFF)⟩)
  | 1 => x.readRun j .hbm (sliceBase x.act.superMap j.super + a) n 0xFFFF
  | 2 => x.readRun j (.sram (cSrcDie b)) a n 0xFFFF
  | 3 => x.frameRun j t (cSrcAddr b / 2 ^ 48) (cSrcAddr b % 2 ^ 48 + i * cSrcPitch b) (n / 64)
  | _ => (x, ⟨zeroBytes n, []⟩)

/-! ## The destination of one row -/

/-- Write a run to an on-chip memory, bad granules as poisoned (08 R213). -/
def Ctx.writeRun (x : Ctx) (j : CopyJob) (p : Spc) (a : Nat) (r : Run) : Ctx :=
  r.bad.foldl (fun x g => x.poisonGranule p (granule (a + g.1))) (x.put p (some j.super) a r.bytes)

/-- Write a run to host memory: a bad granule as zeros with the EP bit set (08 R214). -/
def Ctx.writeHost (x : Ctx) (a : Nat) (r : Run) : Ctx :=
  if r.bad.isEmpty then x.hostWrite a r.bytes
  else if x.chip.boot.linkFatal then x
  else (List.range (r.bytes.length / 64)).foldl (fun x i =>
    let ep := r.bad.any fun g => g.1 == 64 * i
    x.emit (.hostWrite x.c (a + 64 * i) (if ep then zeroBytes 64 else (r.bytes.drop (64 * i)).take 64) ep false)) x

/-- A tag that no WRITE in flight carries, from the next one on. -/
def Ctx.freeTag (x : Ctx) : Nat :=
  let busy := x.chip.fab.outstanding.map (·.tag)
  ((List.range (busy.length + 1)).map fun i => (x.chip.fab.nextTag + i) % 65536).find? (fun t => !busy.contains t) |>.getD x.chip.fab.nextTag

/-- The granules of a message, poisoned ones as zeros, and its POISON field (10 R252). -/
def withPoison (bs : Bytes) (bad : List Nat) : Bytes × Nat :=
  ((List.range (bs.length / 64)).flatMap fun i => if bad.contains (64 * i) then zeroBytes 64 else (bs.drop (64 * i)).take 64,
    (List.range (bs.length / 64)).foldl (fun v i => v + if bad.contains (64 * i) then 2 ^ i else 0) 0)

/-- Send one WRITE of up to 16 granules (10 R251, R252, R272). -/
def Ctx.sendWrite (x : Ctx) (f : Nat) (j : CopyJob) (chip addr off : Nat) (bs : Bytes) (bad : List Nat) : Ctx :=
  let n := bs.length / 64
  let tag := x.freeTag
  let d := withPoison bs bad
  let vc := if n ≤ 4 then 0 else 2
  let x := x.onFab fun v => { v with nextTag := (tag + 1) % 65536, outstanding := v.outstanding ++ [⟨tag, f, off, n - bad.length⟩] }
  let v := x.forager f
  let x := x.setForager f { v with unacked := v.unacked ++ [tag] }
  x.sendMsg ⟨msgHead 1 n chip (x.chipId.getD 0) j.super d.2 tag 0 addr 0 0 ++ d.1, chip, vc, some tag⟩

/-- Send one COLLECTIVE of up to 16 granules to rank `e.2` of group `e.1`; it has no response (10 R251, 11 R290). A rank that no
route reaches fails the copy with 0x0501. -/
def Ctx.sendColl (x : Ctx) (f : Nat) (j : CopyJob) (e : Nat × Nat) (addr off : Nat) (bs : Bytes) (bad : List Nat) : Ctx :=
  let r := x.act.routes
  let chip := groupMember r e.1 e.2
  if groupPeer r j.super e.1 e.2 = false ∨ x.noRoute chip = true then
    let v := x.forager f
    x.setForager f { v with failed := worse v.failed (0x0501, off), badGranules := v.badGranules + bs.length / 64 }
  else
    let d := withPoison bs bad
    let a := addr + 2 ^ 48 * e.1 + 2 ^ 54 * groupRank r e.1
    x.sendMsg ⟨msgHead 3 (bs.length / 64) chip (x.chipId.getD 0) j.super d.2 0 0 a 0 0 ++ d.1, chip, 3, none⟩

/-- Send a run to another chip: to the one that the copy names, or to a rank of a group. -/
def Ctx.writeRemote (x : Ctx) (f : Nat) (j : CopyJob) (chip addr off : Nat) (r : Run) : Ctx :=
  let l := chunks ((r.bytes.length + 1023) / 1024) 1024 r.bytes
  (List.range l.length).foldl (fun x i =>
    let bad := (r.bad.filter fun g => decide (1024 * i ≤ g.1 ∧ g.1 < 1024 * (i + 1))).map fun g => g.1 - 1024 * i
    match j.coll with
    | none => x.sendWrite f j chip (addr + 1024 * i) (off + 1024 * i) (l.getD i []) bad
    | some e => x.sendColl f j e (addr + 1024 * i) (off + 1024 * i) (l.getD i []) bad) x

/-- The die-to-die queues that a row of a copy passes: between the Forager's die, its source and its destination (01 R26, R39). -/
def Ctx.crossRow (x : Ctx) (f : Nat) (b : Bytes) : Ctx :=
  let n := cRowBytes b
  let d := f / 4
  let x := if cSrc b = 2 ∧ cSrcDie b ≠ d then (x.crossDie (cSrcDie b) 0 n).crossDie d 1 n
    else if cSrc b = 2 ∨ cSrc b = 5 then x else x.crossDie d 1 n
  if cDst b = 2 ∧ cDstDie b ≠ d then (x.crossDie d 0 n).crossDie (cDstDie b) 1 n
  else if cDst b = 2 then x else x.crossDie d 0 n

/-- Write row `i` of a copy. -/
def Ctx.destRow (x : Ctx) (f : Nat) (j : CopyJob) (i : Nat) (r : Run) : Ctx :=
  let b := j.bytes
  let a := cDstAddr b + i * cDstPitch b
  match cDst b with
  | 0 => x.writeHost a r
  | 1 => x.writeRun j .hbm (sliceBase x.act.superMap j.super + a) r
  | 2 => x.writeRun j (.sram (cDstDie b)) a r
  | _ => x.writeRemote f j (cDstAddr b / 2 ^ 48 % 32768) (cDstAddr b % 2 ^ 48 + i * cDstPitch b) (i * cRowBytes b) r

/-! ## Running a copy descriptor -/

/-- The source class of R405. -/
def Ctx.copySource (x : Ctx) (j : CopyJob) (a : Nat) : Nat :=
  match cSrc j.bytes, j.step with
  | 3, _ => 2
  | 2, some t => x.storeSource t (cSrcDie j.bytes) (a % 2 ^ 62)
  | _, _ => 1

/-- Bad source granules of row `i`: the copy's failure, and the error of the step it belongs to (08 R207; 16 R404, R405). -/
def Ctx.copyBad (x : Ctx) (f : Nat) (j : CopyJob) (i : Nat) (bad : List (Nat × SrcErr × Nat × Nat)) : Ctx :=
  bad.foldl (fun x g =>
    let v := x.forager f
    let x := x.setForager f { v with
      failed := worse v.failed (srcStatus g.2.1, i * cRowBytes j.bytes + g.1), badGranules := v.badGranules + 1 }
    match j.step with
    | none => x
    | some id =>
      let entry := match x.step? id with
        | some t => if cSrc j.bytes = 3 then (firstIdx (fun e => e.stream == cStream j.bytes) t.entries).getD 0xFFFF else 0xFFFF
        | none => 0xFFFF
      x.stepError id (srcStatus g.2.1) (dataDetail entry j.layer g.2.2.2 (x.copySource j g.2.2.1)) g.2.2.1) x

/-- For whom a copy runs. -/
def Ctx.copyUser (x : Ctx) (j : CopyJob) : User :=
  match j.step, (j.cmd).bind x.cmd? with
  | some t, _ => .step t
  | none, some k => .qp k.qp
  | none, none => .none

/-- The energy of a row that a Forager moves: on the rail of a die end, or of the I/O die where there is none (12 R324). -/
def Ctx.moveEnergy (x : Ctx) (b : Bytes) : Ctx :=
  x.charge (if cSrc b = 2 then cSrcDie b else if cDst b = 2 then cDstDie b else 4) (1200 * cRowBytes b)

/-- The rows of a copy from `i` on. -/
def Ctx.copyRows (x : Ctx) (f : Nat) (j : CopyJob) (t : Stream) (host : Bytes) (bad : List (Nat × SrcErr)) : Nat → Nat → Ctx
  | _, 0 => x
  | i, n + 1 =>
    let r := x.sourceRow j t host bad i
    let x := (((r.1.moveEnergy j.bytes).crossRow f j.bytes).destRow f j i r.2).copyBad f j i r.2.bad
    x.copyRows f j t host bad (i + 1) n

/-- A command that acts on the stream of a frames source has started and not ended: the copy waits for it (08 R208). -/
def Ctx.framesBusy (x : Ctx) (j : CopyJob) : Bool :=
  cSrc j.bytes == 3 && x.chip.stew.cmds.any fun k =>
    k.phase == .running && [0x21, 0x22, 0x24, 0x31].contains k.opcode &&
      match x.cmdStreams k with
      | some l => l.contains (cStream j.bytes)
      | none => false

/-- A Forager takes the descriptor at the head of its queue. -/
def Ctx.copyStart (x : Ctx) (f : Nat) (host : Bytes) (bad : List (Nat × SrcErr)) : Ctx :=
  let v := x.forager f
  match v.running, v.queue with
  | none, j :: r =>
    let met := match j.step with | some t => x.tokenMet j.die t j.bytes | none => true
    if x.frozen || !x.awake || x.chip.power.quiet != .none || !met || x.framesBusy j then x
    else
      let x := ((x.setForager f { v with queue := r, running := some j, unacked := [], failed := none, badGranules := 0 }).queueOut
        (4 + f) 1).refillCopies
      (x.workFor (x.copyUser j)).copyRows f j (x.framesSource j.bytes) host bad 0 (cRows j.bytes)
  | _, _ => x

def execCopyDescriptor (c : Fin 8) (f : Fin 16) (host : Bytes) (bad : List (Nat × SrcErr)) (s : State) : Res :=
  chipNext c (·.copyStart f host bad) s

/-! ## The end of a copy (08 R205, R207; 13 R338) -/

/-- The order of R207 among failures of different descriptors: the status class, then the descriptor. -/
def worseOf (a : Option (Nat × Nat × Nat × Nat)) (b : Nat × Nat × Nat × Nat) : Option (Nat × Nat × Nat × Nat) :=
  match a with
  | none => some b
  | some a => if b.1 < a.1 ∨ (b.1 = a.1 ∧ b.2.2.1 < a.2.2.1) then some b else some a

/-- A descriptor of a FORAGER_COPY has ended. -/
def Ctx.copyCmdPart (x : Ctx) (id index : Nat) (failed : Option (Nat × Nat)) (bad : Nat) : Ctx :=
  match x.chip.eng.copies.find? fun e => e.cmd == id with
  | none => x
  | some e =>
    let f := match failed with
      | none => e.failed
      | some (st, off) => worseOf e.failed (if st ≤ 0x0401 then 0 else st, st, index, off)
    let e' : CopyCmd := { e with left := e.left - 1, failed := f, badGranules := e.badGranules + bad }
    if 1 < e.left then x.onEng fun v => { v with copies := v.copies.map fun a => if a.cmd = id then e' else a }
    else
      let x := x.onEng fun v => { v with copies := v.copies.filter fun a => a.cmd != id }
      match x.cmd? id, f with
      | some k, none => x.done k 0 0 0
      | some k, some g => x.done k g.2.1 (2 ^ 48 * g.2.2.1 + g.2.2.2) e'.badGranules
      | none, _ => x

/-- The copy of Forager `f` ends once every WRITE has been answered. -/
def Ctx.copyEnd (x : Ctx) (f : Nat) : Ctx :=
  let v := x.forager f
  match v.running with
  | none => x
  | some j =>
    if x.frozen || !x.awake || !v.unacked.isEmpty then x
    else
      let b := j.bytes
      let status := (v.failed.map (·.1)).getD 0
      let stream := if cSrc b = 3 then some (cStream b) else match j.step with | some t => x.oneStream t | none => none
      let x := x.setForager f { v with running := none, failed := none, badGranules := 0 }
      let x := x.trace 4 (136 + f) (some j.super) stream j.code (b2n v.failed.isSome) (cBytesMoved b) status
      let x := match j.step with
        | some t => if 0x0500 ≤ status then x.stepError t status 0 0 else x.descEnd j.die t b
        | none => x
      match j.cmd with
      | some id => x.copyCmdPart id j.index v.failed v.badGranules
      | none => x

def execCopyDescriptorComplete (c : Fin 8) (f : Fin 16) (s : State) : Res := chipNext c (·.copyEnd f) s

/-! ## Host reads without a completion (16 R410) -/

/-- The granule at byte `off` of the copy that Forager `f` runs could not be read: it is written as poisoned. -/
def Ctx.copyTimeout (x : Ctx) (f off : Nat) : Ctx :=
  match (x.forager f).running with
  | none => x
  | some j =>
    let b := j.bytes
    if cSrc b ≠ 0 ∨ cBytesMoved b ≤ off then x
    else
      let n := cRowBytes b
      let r : Run := ⟨zeroBytes 64, [(0, .hostRead, 0, 0xFFFF)]⟩
      let a := cDstAddr b + off / n * cDstPitch b + granule (off % n)
      let x := match cDst b with
        | 0 => x.writeHost a r
        | 1 => x.writeRun j .hbm (sliceBase x.act.superMap j.super + a) r
        | 2 => x.writeRun j (.sram (cDstDie b)) a r
        | _ => x.writeRemote f j (a / 2 ^ 48 % 32768) (a % 2 ^ 48) (granule off) r
      x.copyBad f j (off / n) [(granule (off % n), .hostRead, 0, 0xFFFF)]

/-- The token IDs of plan entry `entry` could not be read: check 0x08 after check 0x07 (04 R114). -/
def Ctx.tokensTimeout (x : Ctx) (id entry : Nat) : Ctx :=
  match x.running? id 0x30, x.step? id with
  | some k, some t =>
    if t.phase = .waiting ∧ x.planIdle t = true ∧ x.frozen = false then
      match firstFailure [entryFail 0x0203 7 t.entries fun e => !e.cancelled && e.gen != (x.stream e.stream).gen,
          entryFail 0x0403 8 (List.range t.entries.length) fun i => i == entry] with
      | some f => x.planRefuse k f
      | none => x
    else x
  | _, _ => x

/-- The source of a load or of a swap could not be read (09 R227, R238). -/
def Ctx.sourceTimeout (x : Ctx) (id seg off : Nat) : Ctx :=
  match x.cmd? id with
  | none => x
  | some k =>
    if k.opcode = 0x42 ∧ k.phase = .running then x.swapFail (k.arg 28 1) .hostRead seg off
    else if k.phase = .fetched ∧ (k.opcode = 0x40 ∨ k.opcode = 0x42) then x.refuse k 0x0403 (seg + 2 ^ 16 * off) 0
    else x

/-- A Completion Timeout is reported, and the read fails; a frozen chip acts on none (13 R345, R346). -/
def Ctx.hostTimeout (x : Ctx) (r : HostRead) : Ctx :=
  let x := x.emit (.aer x.c 1 "Completion Timeout")
  match r with
  | .submission q => x.fetchError q
  | .argument id => x.argumentError id
  | .planTokens id entry => x.tokensTimeout id entry
  | .modelSource id seg off => x.sourceTimeout id seg off
  | .copySource f off => x.copyTimeout f off
  | .consumer => x

def execHostReadTimeout (c : Fin 8) (r : HostRead) (s : State) : Res :=
  chipNext c (fun x => onlyIf (x.chip.boot.linkL0 && !x.frozen) (·.hostTimeout r) x) s

end Sys2Proof.Machine
end

