-- ==== Sys2Proof/Machine/PowerCtl.lean ====
section
/-! DEFINITION. Power control of a chip: the meters, the limiter, Gust, share gating, droop, thermal limits, Lockstep, conflicts,
POWER_CALIBRATE; and the allotments of the Ndevas (12 R301 to R329). -/
namespace Sys2Proof.Machine

/-! ## The policy in force and the clocks -/

def Ctx.pol (x : Ctx) : Mem := x.act.power
def Ctx.lockstep (x : Ctx) : Bool := ppLockstep x.pol
def Ctx.mhz (x : Ctx) (d : Nat) : Nat := (x.die d).mhz

/-- Set a die's array clock. Only a level 1 to 3 control sets it below F_MIN (12 R307, R310). -/
def Ctx.setMhz (x : Ctx) (d f : Nat) : Ctx := x.setDie d { x.die d with mhz := f, low := decide (f < ppFMin x.pol) }
def Ctx.active (x : Ctx) : Bool := x.chip.boot.pstate == .active

/-- All four dies at one frequency. -/
def Ctx.setAll (x : Ctx) (f : Nat) : Ctx := (List.range 4).foldl (fun x d => x.setMhz d f) x

/-- The lowest frequency of the four dies. -/
def Ctx.lowest (x : Ctx) : Nat := (List.range 4).foldl (fun m d => min m (x.mhz d)) 2100

/-- The target frequency of a die (12 R310). -/
def Ctx.target (x : Ctx) : Nat := if x.lockstep then ppFLock x.pol else ppFMax x.pol

/-- A thermal throttle or a droop storm keeps die `d` from being raised (12 R314, R316). -/
def Ctx.dieHeld (x : Ctx) (d : Nat) : Bool := ([d, 4, 13].any fun g => x.chip.power.throttled.contains g) || (x.die d).storm

/-- The frequency of a Lockstep break as the chip reports it at once to the Ndevas (12 R321). -/
def Ctx.reportBreak (x : Ctx) (f : Nat) : Ctx := ((x.count 0x0A 0 9 1).event 0x0B06 0 f).emit (.lockReport x.c f)

/-- A level 1 to 3 control has lowered a die of a Lockstep chip below F_LOCK: the others follow, and the break is reported
(12 R321). -/
def Ctx.lockBreak (x : Ctx) : Ctx :=
  let f := x.lowest
  if !x.lockstep || !x.active || decide (ppFLock x.pol ≤ f) then x
  else
    let new := x.chip.power.broken.isNone
    let x := (x.setAll f).onPower fun p => { p with broken := some f }
    if new then x.reportBreak f else x

/-- A level 1 to 3 control acts: a quiet window in which it does is spoilt (12 R327). -/
def Ctx.controlActs (x : Ctx) : Ctx := x.onQuiet fun w => { w with control := true }

/-- Lower dies by `n` MHz, not below the clock's range; a level 1 to 3 control. -/
def Ctx.lowerDies (x : Ctx) (l : List Nat) (n : Nat) : Ctx :=
  let y := l.foldl (fun x d => x.setMhz d (max 600 (x.mhz d - n))) x
  if l.any fun d => decide (y.mhz d < x.mhz d) then y.controlActs.lockBreak else y

/-! ## Meters, the modelled static power, and the fast limit (12 R301, R313, R324) -/

/-- The running averages of INPUT in mW, over 1,000 samples and over 10 (R310, R313). -/
def Power.avg1ms (p : Power) : Nat := p.sum1ms / 1000
def Power.sum10us (p : Power) : Nat := (p.samples.take 10).sum

/-- The input power that a power state other than Active allows, in mW (02 R57). -/
def PState.limit : PState → Nat
  | .off => 0
  | .booting | .resetting => 400000
  | .active => 2200000
  | .idle => 260000
  | .dormant => 85000

/-- A meter of range `top` reads `v` mW. -/
def inRange (top v : Nat) : Nat := min top v

/-- The meters as they can read: within their ranges, and INPUT within the limit of the power state and its accuracy (R301, 02
R57). -/
def Ctx.readMeters (x : Ctx) (m : Meters) : List Nat :=
  let limit := x.chip.boot.pstate.limit
  [min (limit + 15 * limit / 1000 + 3000) (inRange 2200000 m.input)] ++ ((List.range 4).map fun d => inRange 800000 (m.dies.getD d 0)) ++
    [inRange 400000 m.iod, inRange 500000 m.hbm]

/-- Units of 2^-84 J in a joule. -/
def joule : Nat := 2 ^ 84

/-- 1.03^(Tj - 60) as a ratio. -/
def leakage (tj : Nat) : Nat × Nat := if 60 ≤ tj then (103 ^ (tj - 60), 100 ^ (tj - 60)) else (100 ^ (60 - tj), 103 ^ (60 - tj))

/-- The modelled static energy of a rail in 1 µs, in units of 2^-84 J: 45 W × (V ÷ 0.80 V)³ × 1.03^(Tj - 60) of a die, 110 W of the
I/O die, 5 W of each of eight HBM stacks; V ÷ 0.80 V is (8,750 + 3f) ÷ 14,000 (R324). -/
def Ctx.staticStep (x : Ctx) (r : Nat) : Nat :=
  let l := leakage (x.chip.power.temps.getD r 0)
  if r < 4 then 45 * (8750 + 3 * x.mhz r) ^ 3 * l.1 * joule / (14000 ^ 3 * l.2 * 1000000)
  else (if r = 4 then 110 else 40) * joule / 1000000

/-- Two lists of amounts added. -/
def plus (a b : List Nat) : List Nat := List.zipWith (· + ·) a b

/-- A sample of the meters, which stands for 1 µs: into the running average, the report of the interval, and the energy of the next
split, or of the Lull (R301, R309, R323; 13 R345). -/
def Ctx.takeSample (x : Ctx) (l : List Nat) : Ctx :=
  let input := l.headD 0
  let stat := (List.range 6).map x.staticStep
  let lull := x.frozen
  x.onPower fun p =>
    { p with
      samples := (input :: p.samples).take 1000, sum1ms := p.sum1ms + input - p.samples.getD 999 0
      repSum := p.repSum + input, repCount := p.repCount + 1
      lullMet := if lull then p.lullMet + 2 ^ 20 * input else p.lullMet
      met := if lull then p.met else plus p.met l
      stat := if lull then p.stat else plus p.stat stat }

def Ctx.powerSample (x : Ctx) (m : Meters) : Ctx :=
  if x.chip.boot.rails ≠ .up then x
  else
    let x := x.takeSample (x.readMeters m)
    if decide (19000000 < x.chip.power.sum10us) && !x.chip.power.fastLimit then
      ((x.onPower fun p => { p with fastLimit := true }).controlActs).count 0x0A 0 6 1
    else x

def execPowerSample (c : Fin 8) (m : Meters) (s : State) : Res := chipNext c (·.powerSample m) s

def execFastLimitRelease (c : Fin 8) (s : State) : Res := chipNext c (·.onPower fun p => { p with fastLimit := false }) s

/-! ## Wait fractions (12 R309) -/

/-- DIE_WAIT and the array cycles of dies 0 to 3. -/
def Ctx.dieWaits (x : Ctx) : List Nat := (List.range 4).map fun d => x.ctr 0x0B d 0
def Ctx.dieClocks (x : Ctx) : List Nat := (List.range 4).map fun d => tget 0 x.chip.ledger.clocks d

/-- DIE_WAIT ÷ array cycles between two readings, in thousandths; `none` where the die had no array cycle. -/
def waitFraction (way : Rounding) (w0 w1 c0 c1 : Nat) : Option Nat :=
  if c1 ≤ c0 then none else some (min 1000 (way.div (1000 * 4000 * ((w1 + 2 ^ 48 - w0) % 2 ^ 48)) (c1 - c0)))

/-- The wait fraction of a die over the last 1 ms, from the oldest limiter step in it. -/
def Ctx.recentWait (x : Ctx) (way : Rounding) (d : Nat) : Nat :=
  match (x.chip.power.waitLog.filter fun e => decide (x.now ≤ e.1 + 1000000)).getLast? with
  | none => 0
  | some e => (waitFraction way (e.2.1.getD d 0) (x.ctr 0x0B d 0) (e.2.2.getD d 0) (tget 0 x.chip.ledger.clocks d)).getD 0

/-- The limiter notes the counts of this moment. -/
def Ctx.noteWaits (x : Ctx) : Ctx :=
  let w := x.dieWaits
  let c := x.dieClocks
  x.onPower fun p => { p with waitLog := (x.now, w, c) :: p.waitLog.filter fun e => decide (x.now ≤ e.1 + 1000000) }

/-! ## The limiter and Gust (12 R310, R311) -/

/-- The die that `better` prefers to every other of a list, the first on a tie. -/
def pickDie (better : Nat → Nat → Bool) : List Nat → Option Nat
  | [] => none
  | d :: r => some (r.foldl (fun m e => if better e m then e else m) d)

/-- A Gust window may start. -/
def Ctx.gustMay (x : Ctx) : Bool :=
  let p := x.chip.power
  ppGust x.pol && decide (p.a < p.p) && p.gust.isNone && ((List.range 4).all fun d => decide (p.temps.getD d 0 ≤ 85)) &&
    !p.hold && !x.frozen && !p.ndevasLost && decide (p.lockout ≤ x.now)

/-- A Gust window opens; its order wakes a chip that it names (02 R60). -/
def Ctx.openGust (x : Ctx) : Ctx :=
  (((x.onPower fun p => { p with gust := some x.now }).controlActs).count 0x0A 0 4 1).wakeEvent

/-- The limiter may move die `d` again: one step per die per 20 µs. -/
def Ctx.mayStep (x : Ctx) (d : Nat) : Bool := decide ((x.die d).nextStep ≤ x.now)

/-- One step of the limiter at a die. -/
def Ctx.stepDie (x : Ctx) (d f : Nat) : Ctx :=
  let y := x.setMhz d f
  y.setDie d { y.die d with nextStep := x.now + 20000 }

/-- Lower the die with the highest wait fraction, the lowest index on a tie; below F_MIN only above P_n, which is a level 3
action. -/
def Ctx.limitDown (x : Ctx) (way : Rounding) : Ctx :=
  let p := x.chip.power
  let above := decide (1000 * p.p < p.avg1ms)
  let floor := if above then 600 else ppFMin x.pol
  match pickDie (fun e m => decide (x.recentWait way m < x.recentWait way e))
      ((List.range 4).filter fun d => decide (floor < x.mhz d) && x.mayStep d) with
  | none => x
  | some d =>
    if x.gustMay then x.openGust
    else
      let f := max floor (x.mhz d - 25)
      (if f < ppFMin x.pol then x.controlActs else x).stepDie d f

/-- Raise the die with the lowest wait fraction, the highest index on a tie. -/
def Ctx.limitUp (x : Ctx) (way : Rounding) : Ctx :=
  match pickDie (fun e m => decide (x.recentWait way e ≤ x.recentWait way m))
      ((List.range 4).filter fun d => decide (x.mhz d < x.target) && !x.dieHeld d && x.mayStep d) with
  | none => x
  | some d => x.stepDie d (min x.target (x.mhz d + 25))

/-- Bring the dies inside the window of a policy that has changed; a die that a level 1 to 3 control has lowered below it is raised
step by step (12 R306, R307, R310). -/
def Ctx.intoWindow (x : Ctx) : Ctx :=
  (List.range 4).foldl (fun x d =>
    let f := min (x.mhz d) (ppFMax x.pol)
    if (x.die d).low || x.dieHeld d then (if x.mhz d = f then x else x.setMhz d f)
    else if x.mhz d = max f (ppFMin x.pol) then x else x.setMhz d (max f (ppFMin x.pol))) x

/-- Lockstep: F_LOCK, or the frequency of an order; the lowest die while a control holds one down (12 R321). -/
def Ctx.lockTick (x : Ctx) : Ctx :=
  let p := x.chip.power
  let f := match p.order with | some f => min f (ppFLock x.pol) | none => ppFLock x.pol
  if 1000 * p.p < p.avg1ms then
    if (List.range 4).all x.mayStep then
      (List.range 4).foldl (fun y d => y.setDie d { y.die d with nextStep := x.now + 20000 }) (x.lowerDies [0, 1, 2, 3] 25)
    else x
  else if (List.range 4).any x.dieHeld then x.setAll (min x.lowest f)
  else if p.broken.isSome ∧ 970 * p.p ≤ p.avg1ms then x
  else (x.setAll f).onPower fun p => { p with broken := none }

/-- One step of the limiter. -/
def Ctx.limiterStep (x : Ctx) (way : Rounding) : Ctx :=
  let p := x.chip.power
  if !x.active then x
  else if x.lockstep then x.lockTick
  else if x.frozen then (if 1000 * p.p < p.avg1ms then x.limitDown way else x)
  else
    let x := (x.onPower fun p => { p with broken := none }).intoWindow
    let l := if p.gust.isSome then p.p else p.a
    if 990 * l < p.avg1ms then x.limitDown way else if p.avg1ms < 970 * l then x.limitUp way else x

def Ctx.limiterTick (x : Ctx) (way : Rounding) : Ctx := (x.limiterStep way).noteWaits

def execLimiterTick (c : Fin 8) (way : Rounding) (s : State) : Res := chipNext c (·.limiterTick way) s

/-- The condition that ends a Gust window holds. -/
def Ctx.gustOver (x : Ctx) (why : GustEnd) : Bool :=
  let p := x.chip.power
  match why with
  | .tenMs => match p.gust with | some t => decide (t + 10000000 ≤ x.now) | none => false
  | .belowAllotment => decide (p.avg1ms < 970 * p.a)
  | .lull => x.frozen
  | .throttle => !p.throttled.isEmpty
  | .noHeadroom => decide (p.p ≤ p.a)

def execGustWindowEnd (c : Fin 8) (why : GustEnd) (s : State) : Res :=
  chipNext c (fun x => onlyIf (x.gustOver why) Ctx.endGust x) s

/-! ## Share gating (12 R312) -/

/-- The energy of Super `u`: measured (`val` 0) or modelled (1), over its own accumulators and its queue pairs. -/
def Ctx.superEnergy (x : Ctx) (u val : Nat) : Nat :=
  x.ctr 0x10 u val + x.ctr 0x10 u (2 + val) +
    (((List.range 64).filter fun q => q != 0 && (x.qp q).live && (x.qp q).super == u).map fun q => x.ctr 0x0F q val).sum

/-- The limiter holds a die below its target. -/
def Ctx.limiting (x : Ctx) : Bool := !x.lockstep && x.active && (List.range 4).any fun d => decide (x.mhz d < x.target) && !x.dieHeld d

/-- The hold time of a Super after 1 ms over its share, or not. -/
def nextHold (above : Bool) (h : Nat) : Nat :=
  if above then (if h = 0 then 64 else min 8192 (2 * h)) else if h / 2 < 64 then 0 else h / 2

/-- The measured attribution of Super `u` since the last share-gating step exceeds SHARE × L: its energy in units of 2^-20 J
over the nanoseconds gone by, against hundredths of a percent of L watts. The accumulators show whole units: `way` says whether the
part of a unit that they do not show counts as none or as one. -/
def Ctx.overShare (x : Ctx) (way : Rounding) (u : Nat) : Bool :=
  let p := x.chip.power
  let l := if p.gust.isSome then p.p else p.a
  decide (ppShare x.pol u * l * 2 ^ 20 * (x.now - p.shareAt) < 10000 * 1000000000 * (way.more + x.superEnergy u 0 - p.shareBase.getD u 0))

/-- Super `u` is held above its share while the limiter limits. -/
def Ctx.shareAbove (x : Ctx) (way : Rounding) (u : Nat) : Bool := x.limiting && superDefined x.act.superMap u && x.overShare way u

/-- The hold time of every Super after its millisecond. -/
def Ctx.nextHolds (x : Ctx) (way : Rounding) (t : Tab Nat) : Tab Nat :=
  (List.range 8).foldl (fun t u => tupd 0 t u (nextHold (x.shareAbove way u))) t

def Ctx.shareTick (x : Ctx) (way : Rounding) : Ctx :=
  if x.frozen then x
  else x.onPower fun p =>
    { p with
      holdTime := x.nextHolds way p.holdTime
      shareAt := x.now
      shareBase := (List.range 8).map fun u => x.superEnergy u 0 }

def execShareGatingTick (c : Fin 8) (way : Rounding) (s : State) : Res := chipNext c (·.shareTick way) s

/-! ## Droop (01 R41, 12 R314) -/

def Ctx.droop (x : Ctx) (d : Nat) : Ctx :=
  if x.chip.boot.rails ≠ .up then x
  else
    let v := x.die d
    let l := within x.now 1000000 v.droops ++ [x.now]
    let x := ((x.setDie d { v with stretched := true, droops := l }).count 0x0B d 2 1).controlActs
    if decide (1000 < l.length) && !v.storm then
      ((x.setDie d { x.die d with storm := true, stormCut := min 100 (v.mhz - 600) }).lowerDies [d] 100).event 0x0B04 0 d
    else x

def execDroopDetect (c : Fin 8) (die : Fin 4) (s : State) : Res := chipNext c (·.droop die) s

def execDroopRecovery (c : Fin 8) (die : Fin 4) (s : State) : Res :=
  chipNext c (fun x => x.setDie die { x.die die with stretched := false }) s

/-- What a droop storm has lowered is given back, up to the target; the dies of a Lockstep chip are raised together (R321). -/
def Ctx.stormEnd (x : Ctx) (d : Nat) : Ctx :=
  let v := x.die d
  if v.storm then
    let y := x.setDie d { v with storm := false, stormCut := 0 }
    if x.lockstep then y else y.setMhz d (max v.mhz (min x.target (v.mhz + v.stormCut)))
  else x

def execDroopStormEnd (c : Fin 8) (die : Fin 4) (s : State) : Res := chipNext c (·.stormEnd die) s

/-! ## Work ended by the chip (12 R316, 15 R385) -/

/-- A running FORAGER_COPY posts a status: its descriptors leave the Foragers. -/
def Ctx.endCopy (x : Ctx) (status r0 id : Nat) : Ctx :=
  let mine := fun (j : CopyJob) => j.cmd == some id
  let x := (List.range 16).foldl (fun x f =>
    let v := x.forager f
    let x := x.queueOut (4 + f) (v.queue.countP mine)
    let v := { v with queue := v.queue.filter fun j => !mine j }
    if (v.running.map mine).getD false then
      (x.onFab fun b => { b with outstanding := b.outstanding.filter fun o => o.forager != f }).setForager f
        { v with running := none, unacked := [], failed := none, badGranules := 0 }
    else x.setForager f v) x
  let x := x.onEng fun e => { e with copies := e.copies.filter (·.cmd != id), backlog := e.backlog.filter fun j => !mine j }
  match x.cmd? id with
  | some k => x.refillCopies.done k status r0 0
  | none => x.refillCopies

/-- End a dispatched step with the error it has met, else with a status. -/
def Ctx.endStepWith (x : Ctx) (t : StepRec) (status : Nat) : Ctx :=
  match x.cmd? t.id with
  | some k => let e := t.error.getD (status, 0, 0); x.errorEnd k t e.1 e.2.1 e.2.2
  | none => x

/-- Every dispatched step and every running FORAGER_COPY ends with a status, a step with its first error where it has one. -/
def Ctx.endWork (x : Ctx) (status : Nat) : Ctx :=
  let x := (x.chip.serve.steps.filter fun t => t.phase == .dispatched).foldl (fun x t => x.endStepWith t status) x
  (x.chip.eng.copies.map (·.cmd)).foldl (fun x id => x.endCopy status 0 id) x

/-- The work stop: dispatched work ends with 0x0601 and the chip is Idle; inside a Lull the steps end at its release (13 R347). -/
def Ctx.workStop (x : Ctx) : Ctx :=
  if x.frozen then x.onObs fun o => { o with stopInLull := true }
  else
    let y := x.endWork 0x0601
    if y.chip.boot.pstate = .active then y.enterIdle else y

/-- The release of a Lull, and the work stop that fell inside it (13 R347). -/
def execLullRelease (c : Fin 8) (s : State) : Res :=
  chipNext c (fun x =>
    let y := x.lullRelease
    if x.chip.obs.stopInLull && !y.frozen then (y.onObs fun o => { o with stopInLull := false }).workStop else y) s

/-! ## Thermal limits (12 R315, R316) -/

/-- Throttle start, release, work stop and rails off of a sensor group, in °C. -/
def thermalPoints (g : Nat) : Nat × Nat × Nat × Nat :=
  if g < 4 then (95, 90, 105, 115) else if g = 4 then (100, 95, 110, 120) else if g < 13 then (85, 80, 95, 105) else (110, 100, 120, 125)

/-- The dies that a throttled group lowers. -/
def lowersDies (g : Nat) : List Nat := if g < 4 then [g] else if g = 4 ∨ g = 13 then [0, 1, 2, 3] else []

/-- The accesses of an HBM stack: 50 % of its rate after 1 ms above the throttle start and 25 % after 2 ms, until the release. -/
def Ctx.hbmThrottle (x : Ctx) (g t : Nat) : Ctx :=
  let k := g - 5
  let pt := thermalPoints g
  if g < 5 ∨ 12 < g then x
  else if pt.1 < t then
    x.onPower fun p =>
      let since := (tget none p.hbmSince k).getD x.now
      let rate := if since + 2000000 ≤ x.now then 25 else if since + 1000000 ≤ x.now then 50 else 100
      { p with hbmSince := tset none p.hbmSince k (some since), hbmRate := tset 100 p.hbmRate k (min rate (tget 100 p.hbmRate k)) }
  else
    x.onPower fun p =>
      { p with hbmSince := tset none p.hbmSince k none, hbmRate := if t < pt.2.1 then tset 100 p.hbmRate k 100 else p.hbmRate }

/-- A group's throttle: its start, its steps of 25 MHz every 100 µs, its release. -/
def Ctx.throttle (x : Ctx) (g t : Nat) : Ctx :=
  let pt := thermalPoints g
  let was := x.chip.power.throttled.contains g
  let x := x.hbmThrottle g t
  if pt.1 < t then
    let x := if was then x else
      (((x.onPower fun p => { p with throttled := p.throttled ++ [g] }).event 0x0B02 0 (g + 256 * t)).endGust).controlActs
    if tget 0 x.chip.power.thermalNext g ≤ x.now then
      (x.onPower fun p => { p with thermalNext := tset 0 p.thermalNext g (x.now + 100000) }).lowerDies (lowersDies g) 25
    else x
  else if t < pt.2.1 then
    x.onPower fun p => { p with throttled := p.throttled.filter (· != g), thermalNext := tset 0 p.thermalNext g 0 }
  else x

/-- A group's work stop and rails-off point. -/
def Ctx.thermalStop (x : Ctx) (g t : Nat) : Ctx :=
  let pt := thermalPoints g
  let off := decide (pt.2.2.2 < t)
  let x :=
    if pt.2.2.1 < t then
      let first := x.chip.power.stopped.isEmpty
      let x := x.onPower fun p => { p with stopped := if p.stopped.contains g then p.stopped else p.stopped ++ [g] }
      if first then ((x.count 0x0A 0 7 1).event 0x0B03 0 (g + 256 * t + 65536 * b2n off)).workStop
      else if off && !x.chip.boot.tripLine then x.event 0x0B03 0 (g + 256 * t + 65536)
      else x
    else x
  if off then x.onBoot fun b => { b with tripLine := true } else x

def Ctx.sensorRead (x : Ctx) (temps : List Nat) : Ctx :=
  if x.chip.boot.rails ≠ .up then x
  else
    let x := x.onPower fun p => { p with temps := (List.range 14).map fun g => temps.getD g 0 }
    let moved := fun (w : QuietWin) => (List.range 14).any fun g =>
      decide (w.temps.getD g 0 + 1 < temps.getD g 0 ∨ temps.getD g 0 + 1 < w.temps.getD g 0)
    let x := x.onQuiet fun w => { w with sensor := w.sensor || moved w }
    let x := (List.range 14).foldl (fun x g => (x.throttle g (temps.getD g 0)).thermalStop g (temps.getD g 0)) x
    if (List.range 14).all fun g => decide (temps.getD g 0 < (thermalPoints g).2.1) then x.onPower fun p => { p with stopped := [] }
    else x

def execThermalSensorRead (c : Fin 8) (temps : List Nat) (s : State) : Res := chipNext c (·.sensorRead temps) s

/-! ## Lockstep orders and allotments as the chip receives them (12 R317, R319, R321) -/

/-- The chip receives a Lockstep order and holds its frequency; the order wakes it (02 R60). -/
def Ctx.takeOrder (x : Ctx) : Ctx :=
  match x.chip.power.orderSent with
  | none => x
  | some f =>
    let x := (x.onPower fun p => { p with order := some f, orderSent := none }).wakeEvent
    if x.lockstep then x.setAll (min f x.lowest) else x

def execLockstepOrder (c : Fin 8) (s : State) : Res := chipNext c Ctx.takeOrder s

/-- The order is withdrawn once no break stands behind it. -/
def execLockstepOrderWithdraw (c : Fin 8) (s : State) : Res :=
  chipNext c (fun x =>
    if s.nd.orders.any fun o => o.1 == ppGroup x.pol && o.2.2 != c then x
    else (x.onPower fun p => { p with order := none, orderSent := none })) s

def Ctx.takeAllotment (x : Ctx) : Ctx :=
  match x.chip.power.sent with
  | none => x
  | some v =>
    let lost := x.chip.power.ndevasLost
    let x := x.onPower fun p =>
      { p with a := v.a, p := v.p, clamp := v.clamp, hold := v.hold, sent := none, ndevasLost := false }
    let x := if v.p ≤ v.a then x.endGust else x
    if lost then x.event 0x0B07 0 0 else x

def execAllotmentReceive (c : Fin 8) (s : State) : Res := chipNext c Ctx.takeAllotment s

/-- No allotment for 50 ms: A_n and P_n are the last A_n. -/
def Ctx.loseNdevas (x : Ctx) : Ctx :=
  if x.chip.boot.rails ≠ .up ∨ x.chip.power.ndevasLost = true then x
  else ((x.onPower fun p => { p with p := p.a, ndevasLost := true }).endGust).event 0x0B07 0 1

def execAllotmentTimeout (c : Fin 8) (s : State) : Res := chipNext c Ctx.loseNdevas s

/-! ## Conflicts (12 R308) -/

/-- The dies of a conflict kind: kinds 1 and 3 are those of a die, the others of the chip. -/
def conflictDies (kind : Nat) : List Nat := if kind = 1 ∨ kind = 3 then [0, 1, 2, 3] else [0xFF]

/-- The condition of a conflict kind holds. -/
def Ctx.conflictHolds (x : Ctx) (kind die : Nat) : Bool :=
  let p := x.chip.power
  match kind with
  | 1 => decide (die < 4 ∧ x.mhz die < ppFMin x.pol) && (x.die die).low
  | 2 => decide (1000 * p.a < p.avg1ms) &&
      (List.range 4).all fun d => decide (x.mhz d = if x.lockstep then ppFLock x.pol else ppFMin x.pol)
  | 3 => x.lockstep && decide (die < 4 ∧ x.mhz die < ppFLock x.pol)
  | 4 => decide (p.a < if x.lockstep then ppTdp x.pol else ppLo x.pol)
  | _ => !x.lockstep && p.clamp

/-- The frequency in MHz or the power in whole W that a conflict concerns: the die's clock, the average of INPUT, A_n. -/
def Ctx.conflictValue (x : Ctx) (kind die : Nat) (way : Rounding) : Nat :=
  if kind = 1 ∨ kind = 3 then x.mhz die else if kind = 2 then way.div x.chip.power.avg1ms 1000 else x.chip.power.a

/-- An episode of this kind and die that has lasted CONFLICT_MS and has not been reported. -/
def Ctx.conflictDue (x : Ctx) (kind die : Nat) : Bool :=
  x.chip.power.conflicts.any fun e =>
    e.kind == kind && e.die == die && !e.reported && decide (e.since + 1000000 * ppConflict x.pol ≤ x.now)

/-- An episode has lasted CONFLICT_MS: it is counted and posted once. -/
def Ctx.conflict (x : Ctx) (kind die : Nat) (way : Rounding) : Ctx :=
  if !x.conflictDue kind die then x
  else
    let y := x.onPower fun p => { p with conflicts := p.conflicts.map fun e =>
      if e.kind = kind ∧ e.die = die then { e with reported := true } else e }
    (y.count 0x0A 0 8 1).event 0x0B01 0 (kind + 256 * die + 65536 * x.conflictValue kind die way)

def execPolicyConflict (c : Fin 8) (kind : Fin 5) (die : Option (Fin 4)) (way : Rounding) (s : State) : Res :=
  chipNext c (·.conflict (kind.val + 1) (match die with | some d => d.val | none => 0xFF) way) s

/-- An episode goes on; it ends once its condition has been false for 1 ms without a break. -/
def Ctx.keepConflict (x : Ctx) (e : Conflict) : Option Conflict :=
  if x.conflictHolds e.kind e.die then some { e with falseSince := none }
  else match e.falseSince with
    | none => some { e with falseSince := some x.now }
    | some t => if t + 1000000 ≤ x.now then none else some e

/-- The episodes that start now. -/
def Ctx.newConflicts (x : Ctx) (l : List Conflict) : List Conflict :=
  [1, 2, 3, 4, 5].flatMap fun k => (conflictDies k).filterMap fun d =>
    if x.conflictHolds k d && !(l.any fun e => e.kind == k && e.die == d) then some ⟨k, d, x.now, none, false⟩ else none

/-- Episodes start and end. -/
def Ctx.settleConflicts (x : Ctx) : Ctx :=
  let l := x.chip.power.conflicts.filterMap x.keepConflict
  x.onPower fun p => { p with conflicts := l ++ x.newConflicts l }

/-! ## POWER_CALIBRATE (12 R327) -/

def Ctx.powerCalibrate (x : Ctx) (k : Cmd) : Ctx :=
  let w := k.arg 28 4
  if w < 1 ∨ 100000 < w then x.refuse k 0x0105 0 0
  else (x.onPower fun p => { p with quiet := .draining k.id }).setPhase k.id .running

def execPowerCalibrate (c : Fin 8) (id : Nat) (s : State) : Res :=
  chipNext c (fun x =>
    if x.chip.power.quiet = .none then x.run id 0x61 (fun _ => true) fun k x => x.powerCalibrate k else x) s

/-- The dispatched steps have completed and no copy runs: the window starts. -/
def Ctx.quietStart (x : Ctx) : Ctx :=
  match x.chip.power.quiet with
  | .draining id =>
    if x.drained && (x.chip.eng.foragers.all fun f => f.2.running.isNone) && !x.frozen then
      let hbm := x.chip.ledger.hbmBytes
      x.onPower fun p => { p with
        quiet := .window id, quietWin := some ⟨x.now, p.temps, p.met, p.stat, hbm, false, p.gust.isSome, false⟩ }
    else x
  | _ => x

def execQuietWindowStart (c : Fin 8) (s : State) : Res := chipNext c Ctx.quietStart s

/-- A rail has an accepted reference: it is no longer stale (12 R325, R326). -/
def Ctx.freshRail (x : Ctx) (r : Nat) : Ctx :=
  let y := x.onPower fun p => { p with refAt := p.refAt.set r x.now }
  if x.chip.power.stale.contains r then
    (y.onPower fun p => { p with stale := p.stale.filter (· != r) }).event 0x0B05 0 (2 ^ r)
  else y

/-- A fit inside 0.5 to 2.0. -/
def fitGood (v : Nat) : Bool := decide (500 ≤ v ∧ v ≤ 2000)

/-- What spoils a quiet window, 0 for nothing. -/
def QuietWin.spoilt (w : QuietWin) : Nat := if w.lull then 2 else if w.control then 3 else if w.sensor then 4 else 0

/-- The energy that rail `r` has taken in the window, in nJ. -/
def Power.windowEnergy (p : Power) (w : QuietWin) (r : Nat) : Nat := p.met.getD (r + 1) 0 - w.met.getD (r + 1) 0

/-- c_r = E_r ÷ modelled static over the window, in thousandths; none where nothing was modelled. -/
def Power.windowFit (p : Power) (w : QuietWin) (way : Rounding) (r : Nat) : Option Nat :=
  let st := p.stat.getD r 0 - w.stat.getD r 0
  if st = 0 then none else some (way.div (1000 * p.windowEnergy w r * joule) (1000000000 * st))

/-- The quiet rails: the die rails, and the HBM rail where it saw no access. -/
def Ctx.quietRails (x : Ctx) (w : QuietWin) : List Nat := [0, 1, 2, 3] ++ if x.chip.ledger.hbmBytes = w.hbm then [5] else []

/-- The fits of the window: accepted where they lie inside 0.5 to 2.0, else discarded and counted. -/
def Ctx.takeFits (x : Ctx) (w : QuietWin) (way : Rounding) : Ctx × List Nat :=
  let fit := x.chip.power.windowFit w way
  let good := (x.quietRails w).filter fun r => match fit r with | some v => fitGood v | none => false
  let bad := (x.quietRails w).filter fun r => match fit r with | some v => !fitGood v | none => false
  let y := bad.foldl (fun x r => x.count 0x0E r 0 1) x
  (good.foldl (fun y r => (y.onPower fun p => { p with corrs := p.corrs.set r ((fit r).getD 1000) }).freshRail r) y, good)

/-- RESULT1: the power in whole W of the die rails together, and of the HBM rail, over the window. -/
def Ctx.quietPower (x : Ctx) (w : QuietWin) (way : Rounding) : Nat :=
  let e := x.chip.power.windowEnergy w
  way.div (e 0 + e 1 + e 2 + e 3) (x.now - w.start) % 65536 + 65536 * (way.div (e 5) (x.now - w.start) % 65536)

/-- The end of the 200 µs window. -/
def Ctx.quietEnd (x : Ctx) (way : Rounding) : Ctx :=
  match x.chip.power.quiet, x.chip.power.quietWin with
  | .window id, some w =>
    match x.cmd? id with
    | none => x
    | some k =>
      if x.frozen || decide (x.now < w.start + 200000) then x
      else
        let y := x.onPower fun p => { p with quiet := .none, quietWin := none }
        if w.spoilt ≠ 0 then y.done k 0x0602 w.spoilt 0
        else
          let r := y.takeFits w way
          if r.2 = [] then r.1.done k 0x0602 5 0
          else (r.1.count 0x0A 0 10 1).done k 0 ((r.2.map fun r => 2 ^ r).sum) (x.quietPower w way)
  | _, _ => x

def execQuietWindowEnd (c : Fin 8) (way : Rounding) (s : State) : Res := chipNext c (·.quietEnd way) s

/-- Not drained within MAX_WAIT; the time of a Lull is not counted (13 R346). -/
def Ctx.drainTimeout (x : Ctx) : Ctx :=
  match x.chip.power.quiet with
  | .draining id =>
    match x.cmd? id with
    | some k => if x.frozen then x else (x.onPower fun p => { p with quiet := .none }).done k 0x0602 1 0
    | none => x
  | _ => x

def execCalibrateDrainTimeout (c : Fin 8) (s : State) : Res := chipNext c Ctx.drainTimeout s

/-! ## The tray: reports and allotments (12 R317, R318, R319, R321) -/

/-- The hazards of a Guard channel that call for HOLD, and for REDUCE (15 R381, R382). -/
def Hazard.calls (h : Hazard) (reduce : Bool) : Bool :=
  h.guard && if reduce then h.code == 1 || h.code == 2 || h.code == 5 || ((h.code == 3 || h.code == 6) && decide (1 ≤ h.level))
    else decide (1 ≤ h.code ∧ h.code ≤ 8)

def Ndevas.holding (n : Ndevas) : Bool := n.hazards.any fun h => h.calls false
def Ndevas.reducing (n : Ndevas) : Bool := n.hazards.any fun h => h.calls true

def Ndevas.position (n : Ndevas) (k : Nat) : Position := tget .initial n.pos k
def Ndevas.setPosition (n : Ndevas) (k : Nat) (p : Position) : Ndevas := { n with pos := tset .initial n.pos k p }

/-- The wait fraction of die `d` since the last report, in thousandths. -/
def Ctx.intervalWait (x : Ctx) (way : Rounding) (d : Nat) : Nat :=
  let p := x.chip.power
  (waitFraction way (p.repWaits.getD d 0) (x.ctr 0x0B d 0) (p.repClocks.getD d 0) (tget 0 x.chip.ledger.clocks d)).getD 1000

/-- The dies that ran a dispatched step since the last report. -/
def Ctx.ranDies (x : Ctx) : List Nat := (List.range 4).filter fun d => x.chip.ledger.ran.contains d || !(x.die d).work.isEmpty

/-- w_n in thousandths: the lowest among the dies that ran a dispatched step; 1.0 where none did, and in a Lull (R309, 13 R345). -/
def Ctx.chipWait (x : Ctx) (way : Rounding) : Nat :=
  if x.frozen || !x.active then 1000 else x.ranDies.foldl (fun m d => min m (x.intervalWait way d)) 1000

/-- A chip reports its power state, its policy, w_n and the interval's average INPUT. -/
def Ctx.reportNow (x : Ctx) (wait input : Rounding) : Report :=
  let m := x.pol
  ⟨x.chip.boot.pstate, ppLockstep m, ppGust m, ppGroup m, ppTdp m, ppLo m, ppHi m, ppFLock m, x.chipWait wait,
    if x.chip.power.repCount = 0 then 0 else input.div x.chip.power.repSum x.chip.power.repCount⟩

/-- The next interval of reports starts. -/
def Ctx.newInterval (x : Ctx) : Ctx :=
  let w := x.dieWaits
  let c := x.dieClocks
  { x with chip := { x.chip with
      ledger := { x.chip.ledger with ran := [] }
      power := { x.chip.power with repSum := 0, repCount := 0, repWaits := w, repClocks := c } } }

/-- Every chip with rails up reports over its SMBus segment. -/
def execChipReport (c : Fin 8) (wait input : Rounding) (s : State) : Res :=
  if (s.chips.get c).boot.rails = .up then
    let x : Ctx := ⟨c, s.now, s.free, s.chips.get c, [], .none⟩
    .next { s with
      chips := s.chips.set c x.newInterval.chip
      nd := if s.nd.running then s.nd.setPosition c { s.nd.position c with report := some (x.reportNow wait input) } else s.nd }
  else .next s

/-- The base of a chip (step 1). -/
def baseOf (p : Position) : Nat :=
  match p.report with
  | none => p.a
  | some r =>
    if r.lockstep then r.tdp else if p.baseFor = some (r.tdp, r.lo, r.hi) then max r.lo (min r.hi p.a) else r.tdp

/-- Scale the bases to a sum of `b`, none below 700 W (step 2); `low` are the chips held at 700 W. -/
def scaleTo (b : Nat) (l : List Nat) (low : List Nat) : Nat → List Nat
  | 0 => l
  | n + 1 =>
    let rest := (List.range l.length).filter fun i => l.getD i 0 ≠ 0 && !low.contains i
    let sum := (rest.map fun i => l.getD i 0).sum
    let left := b - 700 * low.length
    match rest.find? fun i => decide (l.getD i 0 * left < 700 * sum) with
    | some i => scaleTo b l (i :: low) n
    | none => (List.range l.length).map fun i =>
        if l.getD i 0 = 0 then 0 else if low.contains i then 700 else l.getD i 0 * left / sum

/-- Steps 1 and 2: bases that fit the cap. The watts that the division leaves go to chips that the spec does not name. -/
def capBases (b stamp : Nat) (l : List Nat) : List Nat :=
  if l.sum ≤ b then l
  else
    let q := scaleTo b l [] 9
    let rest := (List.range q.length).filter fun i => decide (700 < q.getD i 0)
    let extra := min (b - q.sum) rest.length
    let start := Config.freeNat stamp % (rest.length + 1)
    let lucky := ((rest.drop start) ++ rest.take start).take extra
    (List.range q.length).map fun i => q.getD i 0 + b2n (lucky.contains i)

/-- Sort positions by a key, the lower position first on a tie. -/
def sortPos (key : Nat → Nat) (l : List Nat) : List Nat := sortBy (fun i j => decide (key i < key j ∨ (key i = key j ∧ i ≤ j))) l

/-- Step 3 for one group: the allotments after the transfers, and the clamped chips. -/
def tailwind (reports : List (Option Report)) (g : Nat) (a : List Nat × List Nat) : List Nat × List Nat :=
  let rep := fun i => (reports.getD i none)
  let mem := (List.range 8).filter fun i => match rep i with | some r => !r.lockstep && r.group == g | none => false
  let w := fun i => match rep i with | some r => r.wait | none => 0
  let lo := fun i => match rep i with | some r => r.lo | none => 0
  let hi := fun i => match rep i with | some r => r.hi | none => 0
  let at' := fun i => a.1.getD i 0
  let n := mem.length
  if n < 2 then a
  else
    let sum := (mem.map w).sum
    let gain := mem.filter fun i => decide (n * w i + 20 * n < sum)
    let lose := mem.filter fun i => decide (sum + 20 * n < n * w i)
    let gain' := sortPos w (gain.filter fun i => decide (at' i < hi i))
    let lose' := sortPos (fun i => 1000000 - w i) (lose.filter fun i => decide (lo i < at' i))
    let clamped := (gain.filter fun i => decide (hi i ≤ at' i)) ++ lose.filter fun i => decide (at' i ≤ lo i)
    ((lose'.zip gain').foldl (fun l p =>
      let m := min 25 (min (l.getD p.1 0 - lo p.1) (hi p.2 - l.getD p.2 0))
      (l.set p.1 (l.getD p.1 0 - m)).set p.2 (l.getD p.2 0 + m)) a.1, a.2 ++ clamped)

/-- The orders of the tray: a broken Lockstep chip of a group names its frequency to the other Lockstep chips of the group. -/
def lockOrders (s : State) : List (Nat × Nat × Nat) :=
  (List.range 8).filterMap fun i =>
    let c := s.chips.toList.getD i Chip.off
    match c.power.broken with
    | some f => if ppGroup c.config.active.power ≠ 0 ∧ ppLockstep c.config.active.power = true then
        some (ppGroup c.config.active.power, f, i) else none
    | none => none

/-- The order that chip `i` is to receive. -/
def orderFor (s : State) (orders : List (Nat × Nat × Nat)) (i : Nat) : Option Nat :=
  let m := (s.chips.toList.getD i Chip.off).config.active.power
  ((orders.filter fun o => o.1 == ppGroup m && o.2.2 != i && ppLockstep m).map (·.2.1)).foldl
    (fun a f => match a with | none => some f | some g => some (min f g)) none

/-- The allotments of an interval: A_n, G_n and the clamped chips. -/
def allotments (n : Ndevas) (stamp : Nat) : List Nat × List Nat × List Nat :=
  let up := fun i => (n.position i).pwrgd
  let b := n.active.trayCap - 120
  let bases := (List.range 8).map fun i => if up i then baseOf (n.position i) else 0
  let reports := (List.range 8).map fun i => if up i then (n.position i).report else none
  let t := (List.range 255).foldl (fun a g => tailwind reports (g + 1) a) (capBases b stamp bases, [])
  let gusts := fun i => match reports.getD i none with | some r => r.pstate == .active && (r.lockstep || r.gustEn) | none => false
  let ng := ((List.range 8).filter gusts).length
  let gs := (List.range 8).map fun i =>
    if gusts i && !n.holding && !n.reducing then min (1650 - t.1.getD i 0) ((b - t.1.sum) / ng) else 0
  let as := (List.range 8).map fun i =>
    let a := t.1.getD i 0
    if up i = false then 0 else if n.reducing then 700 else if n.holding then min a ((n.position i).aAtHold.getD (n.position i).a) else a
  (as, gs, t.2)

/-- One interval of the Ndevas. -/
def execAllotmentInterval (s : State) : Res :=
  if s.nd.running = false then .next s
  else
    let v := allotments s.nd s.free
    let orders := lockOrders s
    let nd := (List.range 8).foldl (fun (n : Ndevas) i =>
      let p := n.position i
      if p.pwrgd then
        n.setPosition i { p with
          a := v.1.getD i 0, g := v.2.1.getD i 0, p := v.1.getD i 0 + v.2.1.getD i 0
          baseFor := match p.report with | some r => some (r.tdp, r.lo, r.hi) | none => p.baseFor
          aAtHold := if s.nd.holding then some (p.aAtHold.getD p.a) else none
          broken := (s.chips.toList.getD i Chip.off).power.broken }
      else n) { s.nd with orders := orders }
    .next { s with
      nd := nd, free := s.free + 1
      chips := Vector.ofFn fun i =>
        let c := s.chips.get i
        if (nd.position i).pwrgd then
          let o := orderFor s orders i
          { c with power := { c.power with
            sent := some ⟨(nd.position i).a, (nd.position i).p, v.2.2.contains i, s.nd.holding⟩
            orderSent := if o = c.power.order then c.power.orderSent else match o with | some f => some f | none => c.power.orderSent } }
        else c }

end Sys2Proof.Machine
end

