-- ==== Sys2Proof/Machine/Energy.lean ====
section
/-! DEFINITION. Energy accounting: the measured and the modelled split, DISAGREE_PPM, and the estimator (12 R322 to R326). -/
namespace Sys2Proof.Machine

/-- A share of energy: the accumulator as block, instance and value, and its amount in units of 2^-84 J. -/
abbrev Share := (Nat × Nat × Nat) × Nat

/-- The resolution inside a split: units of 2^-84 J in a unit of 2^-20 J. -/
def fine : Nat := 2 ^ 64

/-- The MEAS accumulator of energy that no Super owns. -/
def unowned : Nat × Nat × Nat := (0x11, 0, 1)

/-- The MEAS accumulator of a consumer of the ledger. -/
def meterOf (c : Nat) : Nat × Nat × Nat :=
  if c < 64 then (0x0F, c, 0) else if c < 72 then (0x10, c - 64, 2) else if c < 80 then (0x10, c - 72, 0) else unowned

/-- What one split divides: INPUT in units of 2^-20 J, and per rail 0 to 5 the metered energy, the modelled static energy, and each
consumer's modelled dynamic energy. -/
structure Split where
  input : Nat
  rails : List Nat
  static : List Nat
  /-- Consumer, rail, amount. -/
  dyn : List (Nat × Nat × Nat)

/-- nJ in units of 2^-20 J. -/
def units (nj : Nat) : Nat := nj * 2 ^ 20 / 1000000000

/-- An amount of the ledger in units of 2^-84 J. -/
def spentEnergy (rail v : Nat) : Nat := v * joule / (10 ^ 15 * if rail < 4 then 14000 ^ 2 else 1)

/-- What has come together since the last split. -/
def Ctx.splitNow (x : Ctx) : Split :=
  let p := x.chip.power
  { input := units (p.met.getD 0 0) - units (p.splitMet.getD 0 0)
    rails := (List.range 6).map fun r => (p.met.getD (r + 1) 0 - p.splitMet.getD (r + 1) 0) * joule / 1000000000
    static := (List.range 6).map fun r => p.stat.getD r 0 - p.splitStat.getD r 0
    dyn := x.chip.ledger.spent.map fun e => (e.1 / 8, e.1 % 8, spentEnergy (e.1 % 8) e.2) }

/-- Dynamic energy of a rail by its consumers, each estimate multiplied by a gain in thousandths (R323 step 2). -/
def dynShares (e : Split) (rail gain : Nat) : List Share :=
  (e.dyn.filter fun d => d.2.1 == rail).map fun d => (meterOf d.1, d.2.2 * gain / 1000)

def shareSum (l : List Share) : Nat := (l.map (·.2)).sum

/-- The static part of a rail divided among Supers and UNOWNED (R323 step 4). -/
def staticShares (m : Mem) (rail amount : Nat) : List Share :=
  let part := fun (u : Nat) =>
    if superDefined m u = false then 0
    else if rail < 4 then amount * combsOnDie m u rail / 32
    else if rail = 5 then amount * superHbmMib m u / 294912
    else 0
  let ps : List Share := (List.range 8).map fun u => ((0x10, u, 0), part u)
  ps ++ [(unowned, amount - shareSum ps)]

/-- The measured shares of a rail (R323 steps 2 to 4). -/
def railShares (m : Mem) (e : Split) (rail gain metered : Nat) : List Share :=
  let d := dynShares e rail gain
  let t := shareSum d
  if metered < t then d.map fun s => (s.1, s.2 * metered / t) else d ++ staticShares m rail (metered - t)

/-- The modelled shares of a rail: gain 1, and the static formulas (R324). -/
def modelShares (m : Mem) (e : Split) (rail : Nat) : List Share :=
  dynShares e rail 1000 ++ staticShares m rail (e.static.getD rail 0)

/-- Metered energy of the rails: scaled to INPUT where they exceed it (R323 step 1). -/
def meteredRails (e : Split) : List Nat :=
  if e.input * fine < e.rails.sum then e.rails.map fun v => v * (e.input * fine) / e.rails.sum else e.rails

/-- The shares with the conversion loss divided in proportion (R323 step 5). -/
def addLoss (l : List Share) (total : Nat) : List Share :=
  let s := shareSum l
  if s = 0 then [(unowned, total)] else l.map fun v => (v.1, v.2 * total / s)

/-- The accumulators of a list of shares, each once. -/
def sharesOf (l : List Share) : List Share :=
  (l.map (·.1)).eraseDups.map fun k => (k, ((l.filter fun s => s.1 == k).map (·.2)).sum)

/-- Add whole units; what the rounding leaves of `total` goes to one of the accumulators, the spec does not say which. -/
def Ctx.addShares (x : Ctx) (total : Nat) (l : List Share) : Ctx :=
  let u := (sharesOf l).map fun s => (s.1, s.2 / fine)
  let left := total - (u.map (·.2)).sum
  let lucky := Config.freeNat x.free % u.length
  let x := x.bump
  (List.range u.length).foldl (fun x i =>
    let s := u.getD i (unowned, 0)
    x.count s.1.1 s.1.2.1 s.1.2.2 (s.2 + if i = lucky then left else 0)) x

/-- The MODEL accumulator beside a MEAS one. -/
def modelOf' (s : Share) : Share := ((s.1.1, s.1.2.1, s.1.2.2 + 1), s.2)

/-- (MEAS - MODEL) ÷ MEAS in parts per million; a free value where nothing was measured (R322). -/
def ppm (way : Rounding) (meas model : Int) (stamp : Nat) : Int :=
  if meas ≤ 0 then signed 32 (Config.freeWord stamp).toNat
  else
    let q := 1000000 * (meas - model)
    q / meas + if q % meas = 0 then 0 else way.more

/-- DISAGREE_PPM of one Super, from its sums now and at the start of the second. -/
def Ctx.disagreeOne (x : Ctx) (way : Rounding) (sums was : List (Nat × Nat)) (u : Nat) : Ctx :=
  let w := was.getD u (0, 0)
  let n := sums.getD u (0, 0)
  let v := ppm way ((n.1 : Int) - w.1) ((n.2 : Int) - w.2) x.free
  x.bump.onObs fun o => { o with counters := tset 0 o.counters (ctrKey 0x10 u 4) (unsigned 64 (signed 32 (unsigned 32 v))) }

/-- The running second of DISAGREE_PPM is over. -/
def Power.ppmDue (p : Power) (now : Nat) : Bool := decide (1000000000 + p.ppmAt ≤ now)

/-- The sums of every Super's energies. -/
def Ctx.energySums (x : Ctx) : List (Nat × Nat) := (List.range 8).map fun u => (x.superEnergy u 0, x.superEnergy u 1)

/-- DISAGREE_PPM, every 1 s (R322). -/
def Ctx.disagree (x : Ctx) (way : Rounding) : Ctx :=
  let sums := x.energySums
  if x.chip.power.ppmDue x.now then
    ((List.range 8).foldl (fun y u => y.disagreeOne way sums x.chip.power.ppmBase u) x).onPower fun p =>
      { p with ppmAt := x.now, ppmBase := sums }
  else x

/-- The hottest sensor of a rail: the die's, the I/O die's, the hottest stack's. -/
def Power.railTemp (p : Power) (r : Nat) : Nat :=
  if r < 5 then p.temps.getD r 0 else (List.range 8).foldl (fun m k => max m (p.temps.getD (5 + k) 0)) 0

/-- The frequency of a rail: a die's array clock; the others have none. -/
def Ctx.railMhz (x : Ctx) (r : Nat) : Nat := if r < 4 then x.mhz r else 0

/-- The lowest and the highest of what was seen, with one value more. -/
def widen (l : List (Nat × Nat)) (v : Nat → Nat) : List (Nat × Nat) :=
  (List.range 6).map fun r => let e := l.getD r (v r, v r); (min e.1 (v r), max e.2 (v r))

/-- A split enters the millisecond of the estimator that it falls in (R325). -/
def Ctx.noteSplit (x : Ctx) (e : Split) (rails : List Nat) : Ctx :=
  let start := x.now / 1000000 * 1000000
  let dyn := (List.range 6).map fun r => shareSum (dynShares e r 1000)
  let temp := x.chip.power.railTemp
  let mhz := x.railMhz
  x.onPower fun p =>
    match p.buckets with
    | b :: r =>
      if b.start = start then
        { p with buckets := ⟨start, plus b.dyn dyn, plus b.stat e.static, plus b.met rails, widen b.mhz mhz, widen b.temp temp⟩ :: r }
      else { p with buckets := ⟨start, dyn, e.static, rails, widen [] mhz, widen [] temp⟩ :: p.buckets.take 5 }
    | [] => { p with buckets := [⟨start, dyn, e.static, rails, widen [] mhz, widen [] temp⟩] }

/-- In a Lull all metered energy goes to MEAS_LULL (13 R345). -/
def Ctx.lullSplit (x : Ctx) : Ctx :=
  let n := x.chip.power.lullMet / 1000000000
  (x.onPower fun p => { p with lullMet := p.lullMet % 1000000000 }).count 0x11 0 3 n

/-- The measured and the modelled split of what has come together (R323, R324). -/
def Ctx.divide (x : Ctx) (e : Split) : Ctx :=
  let m := x.act.superMap
  let p := x.chip.power
  let rails := meteredRails e
  let meas := (List.range 6).flatMap fun r =>
    railShares m e r (if p.stale.contains r then 1000 else p.gains.getD r 1000) (rails.getD r 0)
  let model := (List.range 6).flatMap (modelShares m e)
  let total := shareSum model * 1045 / 1000
  let x := (x.count 0x11 0 0 e.input).addShares e.input (addLoss meas (e.input * fine))
  (x.addShares ((total + fine / 2) / fine) ((addLoss model total).map modelOf')).noteSplit e e.rails

/-- The next split starts. -/
def Ctx.nextSplit (x : Ctx) : Ctx :=
  { x with chip := { x.chip with
      ledger := { x.chip.ledger with spent := [] }
      power := { x.chip.power with splitMet := x.chip.power.met, splitStat := x.chip.power.stat } } }

/-- One split, every 10 µs. -/
def Ctx.energySplit (x : Ctx) (way : Rounding) : Ctx :=
  if x.chip.boot.rails ≠ .up then x
  else
    let x := x.lullSplit
    if x.frozen then x else ((x.divide x.splitNow).nextSplit).disagree way

def execEnergySplitTick (c : Fin 8) (way : Rounding) (s : State) : Res := chipNext c (·.energySplit way) s

/-! ## The estimator (12 R325, R326) -/

/-- The last five whole milliseconds, newest first, where they follow one another and start no earlier than `from_`. -/
def Power.fiveMs (p : Power) (from_ now : Nat) : Option (List Bucket) :=
  let l := (p.buckets.filter fun b => decide (b.start + 1000000 ≤ now)).take 5
  let newest := now / 1000000 * 1000000
  if l.length = 5 && (List.range 5).all fun i => decide ((l.map (·.start)).getD i 0 + 1000000 * (i + 1) = newest) then
    if (l.all fun b => decide (from_ ≤ b.start)) then some l else none
  else none

/-- The milliseconds of a rail are steady: its modelled dynamic power within 2 % of its mean in each, its frequency unchanged,
and its hottest sensor within 1 °C of its middle. -/
def steady (l : List Bucket) (r : Nat) : Bool :=
  let d := l.map fun b => b.dyn.getD r 0
  let mhz : List (Nat × Nat) := l.map fun b => b.mhz.getD r (0, 0)
  let temp : List (Nat × Nat) := l.map fun b => b.temp.getD r (0, 0)
  let near := fun v => decide (98 * d.sum ≤ 500 * v ∧ 500 * v ≤ 102 * d.sum)
  let f := mhz.headD (0, 0)
  decide (0 < d.sum) && d.all near && mhz.all (fun e => decide (e.1 = f.1 ∧ e.2 = f.1)) &&
    decide ((temp.map (·.2)).foldl max 0 ≤ temp.foldl (fun m e => min m e.1) (temp.headD (0, 0)).1 + 2)

/-- g_r = (E_r - c_r × modelled static) ÷ modelled dynamic over the milliseconds, in thousandths; none below 0. -/
def gainFit (way : Rounding) (l : List Bucket) (r corr : Nat) : Option Nat :=
  let e := 1000 * (l.map fun b => b.met.getD r 0).sum
  let st := corr * (l.map fun b => b.stat.getD r 0).sum
  if e < st then none else some (way.div (e - st) (l.map fun b => b.dyn.getD r 0).sum)

/-- A steady reference of a rail: its gain, or a fit discarded and counted. -/
def Ctx.reference (x : Ctx) (r : Nat) (way : Rounding) : Ctx :=
  let p := x.chip.power
  match p.fiveMs (p.refFrom.getD r 0) x.now with
  | none => x
  | some l =>
    if x.frozen || !steady l r then x
    else
      let x := x.onPower fun p => { p with refFrom := p.refFrom.set r (x.now / 1000000 * 1000000) }
      match gainFit way l r (p.corrs.getD r 1000) with
      | some g => if fitGood g then (x.onPower fun p => { p with gains := p.gains.set r g }).freshRail r else x.count 0x0E r 0 1
      | none => x.count 0x0E r 0 1

def execEstimatorReference (c : Fin 8) (rail : Fin 6) (way : Rounding) (s : State) : Res := chipNext c (·.reference rail way) s

/-- A rail without an accepted reference for 60 s. -/
def Ctx.goStale (x : Ctx) (r : Nat) : Ctx :=
  if x.chip.boot.rails ≠ .up ∨ x.chip.power.stale.contains r = true ∨ x.now < x.chip.power.refAt.getD r 0 + 60000000000 then x
  else (x.onPower fun p => { p with stale := p.stale ++ [r] }).event 0x0B05 0 (2 ^ r + 256)

def execEstimateStale (c : Fin 8) (rail : Fin 6) (s : State) : Res := chipNext c (·.goStale rail) s

end Sys2Proof.Machine
end

