-- ==== Sys2Proof/Machine/Observe.lean ====
section
/-! DEFINITION. Read-outs: the counter read and the Lull cut record, the trace settings and the host ring, the health structure
(13 R333 to R341, R348; 16 R413). -/
namespace Sys2Proof.Machine

/-! ## The read-out format (13 R336) -/

/-- The counter blocks of a read: code, instances, values per instance. -/
def readBlocks : List (Nat × Nat × Nat) :=
  [(0x01, 128, 16), (0x02, 128, 9), (0x03, 32, 9), (0x04, 32, 8), (0x05, 32, 1), (0x06, 8, 3), (0x07, 4, 4), (0x08, 8, 5),
   (0x09, 18, 17), (0x0A, 1, 18), (0x0B, 4, 4), (0x0C, 32, 2), (0x0D, 14, 1), (0x0E, 6, 1), (0x0F, 64, 2), (0x10, 8, 5),
   (0x11, 1, 4), (0x12, 153, 1)]

/-- A block: its 16 B header and its values, instance-major. -/
def blockBytes (code inst per : Nat) (v : Nat → Nat → Nat) : Bytes :=
  toLE 2 code ++ toLE 2 inst ++ toLE 2 per ++ zeroBytes 10 ++
    (List.range inst).flatMap fun i => (List.range per).flatMap fun k => toLE 8 (v i k)

/-- The blocks 0x01 to 0x12. -/
def Ctx.counterBlocks (x : Ctx) : Bytes := readBlocks.flatMap fun b => blockBytes b.1 b.2.1 b.2.2 (x.ctr b.1)

/-- A chip ID as IDENTIFY gives it, the stale rails, and the last accepted parent offset. -/
def Ctx.readTail (x : Ctx) : Bytes :=
  toLE 4 x.chip.config.activeGen.toNat ++ toLE 2 (chipIdWord x.act.routes) ++
    toLE 1 (x.chip.power.stale.foldl (fun n r => n ||| 2 ^ r) 0) ++ toLE 1 0 ++
    toLE 4 (unsigned 32 x.chip.fab.parentOffset) ++ zeroBytes 24

/-- A header of 64 B before its blocks. -/
def readOut (kind flags time freeze id : Nat) (tail : Bytes) (nblocks : Nat) (blocks : Bytes) : Bytes :=
  toLE 4 (64 + blocks.length) ++ toLE 2 nblocks ++ toLE 1 kind ++ toLE 1 flags ++ toLE 8 time ++ toLE 8 freeze ++ toLE 4 id ++
    tail ++ blocks

/-- What COUNTER_SELECT with READ writes. -/
def Ctx.counterRead (x : Ctx) : Bytes := readOut 1 0 x.time 0 0 x.readTail 18 x.counterBlocks

def execCounterSelectRead (c : Fin 8) (id : Nat) (s : State) : Res :=
  chipNext c (fun x => x.run id 0x70 (fun k => k.arg 28 1 % 4 == 1) fun k x => x.finish k 0 0 0 x.counterRead) s

/-! ## The cut record (13 R348) -/

/-- The SEQ fields and the credits of a cut, as three values of block 0x14. -/
def cutValues (oldest sent accepted : Nat) (credits : List Nat) : List Nat :=
  [oldest + 2 ^ 16 * sent + 2 ^ 32 * accepted,
   leNat ((credits.take 4).flatMap (toLE 2)), leNat (((credits.drop 4).take 2).flatMap (toLE 2))]

/-- The eight values of a port in block 0x14. -/
def Port.cutVals (v : Port) : List Nat :=
  let known := match v.partnerId with | some i => if i < 32768 then some i else none | none => none
  let v0 := v.cutState + 16 * b2n v.partnerCut.isSome + 32 * b2n known.isSome + 2 ^ 16 * known.getD 0
  let own := match v.ownCut with | some (o, s, a, cr) => cutValues o s a cr | none => [0, 0, 0]
  let theirs := match v.partnerCut with
    | some b => cutValues (field b 16 2) (field b 18 2) (field b 20 2) ((List.range 6).map fun k => field b (24 + 2 * k) 2) ++
        [field b 8 8]
    | none => [0, 0, 0, 0]
  if v.ownCut.isSome then v0 :: own ++ theirs else v0 :: List.replicate 7 0

/-- The cut record: blocks 0x01 to 0x14. -/
def Ctx.cutRecord (x : Ctx) (missing : Bool) : Bytes :=
  let o := x.chip.obs
  let m := x.act.lull
  let flags := b2n o.late + 2 * b2n o.unsynced + 4 * b2n o.wasDormant + 8 * b2n missing
  let blocks := x.counterBlocks ++ blockBytes 0x13 528 2 (fun i k => tget 0 o.queueIo (2 * i + k)) ++
    blockBytes 0x14 18 8 fun p k => (x.port p).cutVals.getD k 0
  readOut 2 flags (lullT m) o.freezeTime (lullId m) x.readTail 20 blocks

/-- Every partner's CUT has come or is marked missing. -/
def Ctx.cutsIn (x : Ctx) : Bool :=
  (List.range 18).all fun p => (x.port p).ownCut.isNone || (x.port p).partnerCut.isSome || (x.port p).cutMissing

/-- The Steward writes the cut record and posts LULL_CUT. -/
def Ctx.lullCut (x : Ctx) : Ctx :=
  if !x.frozen || x.chip.obs.cutWritten || !x.cutsIn then x
  else
    let missing := (List.range 18).any fun p => (x.port p).cutMissing && (x.port p).partnerCut.isNone
    let o := x.chip.obs
    let m := x.act.lull
    ((x.hostWrite (lullCutPtr m) (x.cutRecord missing)).onObs fun o => { o with cutWritten := true }).event 0x0C01 0
      (lullId m + 2 ^ 32 * b2n o.late + 2 ^ 33 * b2n o.unsynced + 2 ^ 34 * b2n missing)

def execLullCut (c : Fin 8) (s : State) : Res := chipNext c Ctx.lullCut s

/-! ## The trace settings and the host ring (13 R339, R340) -/

/-- TRACE_CONFIG. A new host ring starts at PRODUCER 0, which its bytes 0 to 7 hold (13 R340). -/
def Ctx.traceConfig (x : Ctx) (k : Cmd) : Ctx :=
  let o := x.chip.obs
  let mask := k.arg 28 1 % 64
  let wrap := (k.arg 28 1).testBit 6
  let sup := k.arg 29 1
  let base := k.arg 32 8
  let size := k.arg 40 4
  if base % 4096 ≠ 0 then x.refuse k 0x0103 0 0
  else if (if base = 0 then decide (size ≠ 0) else decide (size % 4096 ≠ 0 ∨ size < 65536 ∨ 2 ^ 30 < size)) then
    x.refuse k 0x0105 0 0
  else if mask = o.classMask ∧ wrap = o.wrap ∧ sup = o.superMask ∧ base = o.hostBase ∧ size = o.hostSize then x.done k 2 0 0
  else
    let fresh := decide (base ≠ o.hostBase ∨ size ≠ o.hostSize)
    let x := x.onObs fun o =>
      { o with
        classMask := mask, wrap := wrap, superMask := sup, hostBase := base, hostSize := size
        producer := if fresh then 0 else o.producer, consumer := if fresh then 0 else o.consumer }
    (if fresh = true ∧ base ≠ 0 then x.hostWrite base (toLE 8 0) else x).done k 0 0 0

def execTraceConfig (c : Fin 8) (id : Nat) (s : State) : Res :=
  chipNext c (fun x => x.run id 0x72 (fun _ => true) fun k x => x.traceConfig k) s

/-- The records that the host ring holds. -/
def hostRingSize (size : Nat) : Nat := (size - 4096) / 32

/-- The oldest record of the HBM ring goes to the host ring, and PRODUCER after it. -/
def Ctx.copyRecord (x : Ctx) : Ctx :=
  let o := x.chip.obs
  match o.ring with
  | [] => x
  | r :: l =>
    let n := o.producer
    if o.hostBase = 0 ∨ hostRingSize o.hostSize ≤ n - o.consumer ∨ x.frozen = true ∨ x.chip.boot.linkFatal = true ∨
        x.chip.boot.ready = false then x
    else
      let q := x.readRing r.1
      if q.2 then
        let y := q.1.onObs fun o => { o with ring := l, producer := (n + 1) % 2 ^ 64 }
        ((y.hostWrite (o.hostBase + 4096 + 32 * (n % hostRingSize o.hostSize)) r.2).hostWrite o.hostBase (toLE 8 (n + 1))).tellLoss
      else q.1.tellLoss

def execTraceHostCopy (c : Fin 8) (s : State) : Res := chipNext c Ctx.copyRecord s

/-- The chip reads CONSUMER. A value above PRODUCER is partner input without a stated answer: it is logged (16 R401). -/
def Ctx.readConsumer (x : Ctx) (v : Nat) : Ctx :=
  let o := x.chip.obs
  if o.hostBase = 0 ∨ x.frozen = true then x
  else if o.producer < v then x.ras 0x0D 8 0 0 none 0 v
  else x.onObs fun o => { o with consumer := v }

def execConsumerRead (c : Fin 8) (v : Word64) (s : State) : Res := chipNext c (·.readConsumer v.toNat) s

/-! ## HEALTH_QUERY (16 R413) -/

/-- The entries that queue pair `q` may see: all of them on queue pair 0, else those of its Super and of chip scope. -/
def Ctx.healthLog (x : Ctx) (q : Nat) : List Bytes :=
  if q = 0 then x.chip.obs.rasLog
  else x.chip.obs.rasLog.filter fun e => bitAt e 14 7 || byteAt e 14 % 8 == (x.qp q).super

/-- The health structure, 4,096 B. -/
def Ctx.healthBytes (x : Ctx) (q : Nat) : Bytes :=
  let log := x.healthLog q
  let fenced := (List.range 18).foldl (fun n p => n + if (x.port p).state = .fenced then 2 ^ p else 0) 0
  fit 4096 (toLE 4 4096 ++ toLE 2 log.length ++ toLE 2 0 ++ toLE 4 x.chip.obs.logLost ++ toLE 4 fenced ++ toLE 8 x.time ++
    toLE 4 x.chip.bar.stewardFault.toNat ++ toLE 4 x.chip.obs.watchdogs ++ zeroBytes 32 ++ log.flatMap id)

def execHealthQueryRead (c : Fin 8) (id : Nat) (s : State) : Res :=
  chipNext c (fun x => x.run id 0xA0 (fun k => k.arg 28 1 % 4 == 0) fun k x => x.finish k 0 0 0 (x.healthBytes k.qp)) s

/-- READ_AND_CLEAR belongs to queue pair 0. -/
def Ctx.healthClear (x : Ctx) (k : Cmd) : Ctx :=
  if k.qp ≠ 0 then x.refuse k 0x0102 0 0
  else (x.onObs fun o => { o with rasLog := [], logLost := 0 }).finish k 0 0 0 (x.healthBytes 0)

def execHealthQueryReadAndClear (c : Fin 8) (id : Nat) (s : State) : Res :=
  chipNext c (fun x => x.run id 0xA0 (fun k => k.arg 28 1 % 4 == 1) fun k x => x.healthClear k) s

end Sys2Proof.Machine
end

