-- ==== Sys2Proof/Machine/NdOps.lean ====
section
/-! DEFINITION. Shared operations of the Ndevas: channels and readings, the event log, outputs, e-fuses, isolation, hazards
(14 R358 to R378, 15 R379 to R394). -/
namespace Sys2Proof.Machine

def onNd (f : Ndevas → Ndevas) (s : State) : State := { s with nd := f s.nd }

def Ndevas.loop (n : Ndevas) (k : Nat) : Loop := tget .initial n.loops k
def Ndevas.setLoop (n : Ndevas) (k : Nat) (l : Loop) : Ndevas := { n with loops := tset .initial n.loops k l }
def Ndevas.leak (n : Ndevas) (k : Nat) : Leak := tget .initial n.leaks k
def Ndevas.setLeak (n : Ndevas) (k : Nat) (l : Leak) : Ndevas := { n with leaks := tset .initial n.leaks k l }
def Ndevas.output (n : Ndevas) (k : Nat) : Output := tget .initial n.outs k
def Ndevas.setOut (n : Ndevas) (k : Nat) (o : Output) : Ndevas := { n with outs := tset .initial n.outs k o }

/-- The parameters in force of a channel or output. -/
def Ndevas.loopCfg (n : Ndevas) (k : Nat) : LoopCfg := (n.loop k).cfg
def Ndevas.leakCfg (n : Ndevas) (k : Nat) : LeakCfg := (n.leak k).cfg
def Ndevas.outRole (n : Ndevas) (k : Nat) : Nat := n.active.outRoles.getD k 0

/-- The parameters of a channel in the active set. -/
def Ndevas.setLoopCfg (n : Ndevas) (k : Nat) : LoopCfg := n.active.loops.getD k (LoopCfg.initial 0)
def Ndevas.setLeakCfg (n : Ndevas) (k : Nat) : LeakCfg := n.active.leaks.getD k ⟨0, false, false⟩

/-- The I_LIM of e-fuse `k` in A: the active set's, and never above the limit of the tray board memory (14 R374). -/
def Ndevas.fuseLimit (n : Ndevas) (k : Nat) : Nat :=
  match n.limits[k]? with
  | some l => min l (n.active.fuses.getD k 42)
  | none => n.active.fuses.getD k 42

/-- The Ndevas senses and acts: its firmware runs, or it comes up with standby power. While it restarts only hardware acts (14 R357,
R373, R375). -/
def Ndevas.acts (n : Ndevas) : Bool := n.standby && (n.running || n.startCause == 1)

/-! ## Engineering values (14 R358) -/

/-- A reading that carries an engineering value. -/
def Reading.valued (r : Reading) : Bool := decide (r.quality ≤ 2)

/-- V = SPAN_LO + (I - 4 mA) ÷ 16 mA × (SPAN_HI - SPAN_LO), exactly, in units of 2^-512 ÷ 256,000; none for a span that is not
finite. -/
def LoopCfg.value (c : LoopCfg) (i16 : Nat) : Option Int :=
  match fix32 c.spanLo, fix32 c.spanHi with
  | some lo, some hi => some (lo * 256000 + ((i16 : Int) - 64000) * (hi - lo))
  | _, _ => none

/-- The engineering value as FP32, rounded to nearest. -/
def LoopCfg.value32 (c : LoopCfg) (r : Reading) : Word32 :=
  match r.valued, c.value r.i16 with
  | true, some v =>
    if v.natAbs < 256000 then 0
    else BitVec.ofNat 32 (fp32.round (decide (v < 0)) (v.natAbs / 256000) (-512) (v.natAbs % 256000 != 0)).1
  | _, _ => nan32

def LoopCfg.below (c : LoopCfg) (r : Reading) : Bool :=
  match r.valued, c.value r.i16, fix32 c.limitLo with
  | true, some v, some m => decide (v < m * 256000)
  | _, _, _ => false

def LoopCfg.above (c : LoopCfg) (r : Reading) : Bool :=
  match r.valued, c.value r.i16, fix32 c.limitHi with
  | true, some v, some m => decide (m * 256000 < v)
  | _, _, _ => false

/-! ## Sensor resistance (14 R363) -/

/-- The terminal voltage of a leak input in mV: the converter's step is 2 mV (DESIGN CHOICE, log 104). -/
def leakMv (code : Nat) : Nat := 2 * code

/-- Rs, the resistance that divides 5.0 V through 10.0 kΩ to this voltage, is below `ohms`. -/
def rsBelow (mv ohms : Nat) : Bool := decide (10000 * mv < ohms * (5000 - mv))

/-- Rs is above `ohms`; from 5.0 V on it is beyond every resistance. -/
def rsAbove (mv ohms : Nat) : Bool := decide (ohms * (5000 - mv) < 10000 * mv)

/-- Rs in Ω as FP32, rounded to nearest: infinity from 5.0 V on, NaN before any sample. -/
def rs32 (code : Option Nat) : Word32 :=
  match code.map leakMv with
  | none => nan32
  | some 0 => 0
  | some mv => if mv < 5000 then div32 (10000 * mv) (5000 - mv) else 0x7F800000

/-- Rs in whole Ω, below 5.0 V. -/
def rsOhms (code : Option Nat) : Nat := match code.map leakMv with | some mv => 10000 * mv / (5000 - mv) | none => 0

/-! ## The event log (15 R390 to R394) -/

/-- What the snapshots of a record look at. -/
inductive LogSrc where
  | loop (k : Nat) | leak (k : Nat) | output (k : Nat)
  | fuse (k : Nat)
  | none
  deriving DecidableEq, Repr

/-- The leak state code (15 R391). -/
def leakCode : LeakState → Nat
  | .clear => 0
  | .leak => 1
  | .indeterminate => 2
  | .channelFault => 3
  | .chatter => 4

def srcState (n : Ndevas) : LogSrc → Nat
  | .loop k => (n.loop k).last.quality
  | .leak k => leakCode (n.leak k).state
  | _ => 15

def srcValue (n : Ndevas) : LogSrc → Word32
  | .loop k => (n.loopCfg k).value32 (n.loop k).last
  | .leak k => rs32 (n.leak k).code
  | .output k => if (n.output k).sample.ma = 0 then 0 else div32 (n.output k).sample.ma 1000
  | .fuse k => match (n.position k).samples.getLast? with
    | some v => if v.ma = 0 then 0 else div32 v.ma 1000
    | none => nan32
  | .none => nan32

/-- The latest reading of a role: of the first channel of that role that has a value. -/
def roleValue (n : Ndevas) (role : Nat) : Word32 :=
  match (List.range 16).find? fun k => (n.loopCfg k).role == role && (n.loop k).last.valued with
  | some k => (n.loopCfg k).value32 (n.loop k).last
  | none => nan32

def Output.faulty (o : Output) : Bool := o.state == .overload || o.state == .backfed || o.state == .crossfed

/-- The rails of chip `i` are up. -/
def State.railsUp (s : State) (i : Nat) : Bool := (s.chips.toList.getD i Chip.off).boot.rails == .up

/-- A snapshot, 18 B. Tray input power is a measurement that no command carries: a free value. -/
def snapshot (s : State) (src : LogSrc) : Bytes :=
  let n := s.nd
  toLE 1 (srcState n src) ++
    toLE 1 ((List.range 4).foldl (fun a k => a + b2n ((n.output k).state == .on) * 2 ^ k + b2n (n.output k).faulty * 2 ^ (4 + k)) 0) ++
    toLE 4 (srcValue n src).toNat ++ toLE 4 (roleValue n 1).toNat ++ toLE 4 (roleValue n 3).toNat ++
    toLE 2 (Config.freeNat s.free) ++ toLE 1 ((List.range 8).foldl (fun a i => a + b2n (s.railsUp i) * 2 ^ i) 0) ++
    toLE 1 (b2n n.holding + 2 * b2n n.reducing + 4 * b2n ((List.range 8).any fun i => (n.position i).iso.isSome))

/-- Milliseconds since the Ndevas started. -/
def State.ndMs (s : State) : Nat := (s.now - s.nd.startedAt) / 1000000

/-- TIME of a record. -/
def State.logTime (s : State) : Nat := s.nd.clock.getD 0 + s.ndMs

/-- An event: `s0` is the state before its cause. It waits in the RAM queue, or joins the coalesced record. -/
def State.log (s0 s : State) (src : LogSrc) (kind source : Nat) (acted watch : Bool) (detail : Nat) : State :=
  let n := s.nd
  let t := s.logTime
  if !n.standby then s
  else match n.coalesced with
    | some (t0, _, c, codes) =>
      { s with nd := { n with coalesced := some (t0, t, c + 1, if codes.contains kind then codes else codes ++ [kind]) } }
    | none =>
      if n.queue.length < 511 then
        let r : LogRec :=
          ⟨n.seq.toNat, t, kind, source, b2n n.clock.isNone + 2 * b2n acted + 4 * b2n watch, 1, detail, snapshot s0 src, none, true⟩
        { s with nd := { n with queue := n.queue ++ [r], seq := n.seq + 1 }, free := s.free + 1 }
      else { s with nd := { n with coalesced := some (t, t, 1, [kind]) } }

/-- An event for which the spec gives no code: its KIND and DETAIL are free values, SOURCE is what it is about. -/
def State.logOpen (s0 s : State) (src : LogSrc) (source : Nat) (watch : Bool) : State :=
  s0.log { s with free := s.free + 2 } src (Config.freeNat s.free % 2 ^ 16) source false watch (Config.freeNat (s.free + 1) % 2 ^ 64)

/-! ## Outputs (14 R370 to R373, 15 R382, R383) -/

/-- ALARM is in force. -/
def Ndevas.alarm (n : Ndevas) : Bool := n.hazards.any fun h => h.guard && decide (7 ≤ h.code)

/-- What the actions in force drive output `k` to. -/
def Ndevas.drive (n : Ndevas) (k : Nat) : Option Bool :=
  match n.outRole k with
  | 1 | 2 => if n.closePump then some true else none
  | 3 => if n.closePump then some false else none
  | 4 => if n.alarm then some true else none
  | _ => none

/-- The state that output `k` is to have: what an action drives it to, else its commanded state. -/
def Ndevas.wanted (n : Ndevas) (k : Nat) : Bool := (n.drive k).getD (n.output k).cmd

/-- Switch output `k`: an output that is off or in OVERLOAD turns on; an on output turns off; BACKFED and CROSSFED hold it off. -/
def Ndevas.switch (n : Ndevas) (k : Nat) (on : Bool) : Ndevas :=
  let o := n.output k
  match o.state, on with
  | .off, true | .overload, true =>
    (List.range 4).foldl (fun n j =>
      if j = k then n else n.setOut j { n.output j with wasLow := decide ((n.output j).sample.mv < 2000) })
      (n.setOut k { o with state := .on, inLimit := 0, low := 0, high := 0, below := 0, sinceOn := 0 })
  | .on, false | .overload, false => n.setOut k { o with state := .off, inLimit := 0, low := 0, high := 0 }
  | _, _ => n

/-- Actions have begun or ended since `old`: the outputs they drive, or drove, follow. -/
def Ndevas.refresh (old n : Ndevas) : Ndevas :=
  (List.range 4).foldl (fun m k => if old.drive k = n.drive k then m else m.switch k (n.wanted k)) n

/-! ## E-fuses and isolation (14 R374, R375; 15 R384) -/

/-- A chip that is Off: all contents lost; the host's PERST# stays as it is. -/
def Chip.offWith (c : Chip) : Chip := { Chip.off with boot := { Boot.initial with perst := c.boot.perst } }

/-- The rails of chip `i` that are enabled go down, in the reverse of their order (02 R46). -/
def Chip.railsDown (h : Chip) (i : Nat) : List Out := (List.range h.boot.railsOn).reverse.map fun r => .rail i r false

/-- Chip `i` goes Off. -/
def State.chipOff (s : State) (i : Fin 8) : State :=
  { s with
    chips := s.chips.set i (s.chips.get i).offWith
    out := s.out ++ (s.chips.get i).railsDown i
    nd := s.nd.setPosition i
      { s.nd.position i with
        pwrgd := false, iso := none, notice := false, isoReady := false, due := false, byCommand := false, a := 0, g := 0, p := 0
        aAtHold := none, report := none, baseFor := none, broken := none } }

/-- E-fuse `i` opens; its chip goes Off. -/
def State.openFuse (s : State) (i : Fin 8) : State :=
  onNd (fun n => n.setPosition i { n.position i with fuse := false }) (s.chipOff i)

/-- Steps 3 and 4 of the isolation: the e-fuse opens and CHIP_ISOLATED is logged, with its cause. -/
def State.isolated (s0 s : State) (i : Fin 8) (cause : Nat) (ready : Bool) : State :=
  let s := onNd (fun n => n.setPosition i { n.position i with cause := cause }) (s.openFuse i)
  s0.log s .none 0x1104 i true false (cause + 256 * b2n ready)

/-- Steps 1 and 2: ISOLATE_NOTICE goes out with the grace in ms, on a chip with rails up. An isolation in progress keeps its cause
and the shorter grace. -/
def State.startIso (s : State) (i : Fin 8) (cause : IsoCause) (grace : Nat) : State :=
  if (s.chips.get i).boot.rails = .down then s
  else
    let p := s.nd.position i
    let iso := match p.iso with | some (c, g) => (c, min g grace) | none => (cause, grace)
    { s with
      nd := s.nd.setPosition i { p with iso := some iso, notice := true, due := false }
      out := s.out ++ [.smbus i "ISOLATE_NOTICE" grace] }

def isoCode : IsoCause → Nat
  | .hazard => 1
  | .command => 2

/-- The isolation with a grace of 0: its steps run at once, without ISOLATE_READY. -/
def State.isolateNow (s : State) (i : Fin 8) (cause : IsoCause) : State :=
  let s1 := s.startIso i cause 0
  match (s1.nd.position i).iso with
  | some (cause, _) => s.isolated s1 i (isoCode cause) false
  | none => s1

/-- ISOLATE every chip. -/
def State.isolateAll (s : State) (grace : Nat) : State := (List.finRange 8).foldl (fun s i => s.startIso i .hazard grace) s

/-! ## Hazards (15 R379 to R382) -/

/-- The role of a channel is one of `l`. -/
def roleIn (n : Ndevas) (k : Nat) (l : List Nat) : Bool := l.contains (n.loopCfg k).role

/-- Both of the last two readings of a channel meet `p`. -/
def Loop.both (l : Loop) (p : Reading → Bool) : Bool := l.seen.length == 2 && l.seen.all p

/-- The condition of a hazard on a channel. -/
def hazardCond (n : Ndevas) (code k : Nat) : Bool :=
  let c := n.loopCfg k
  let l := n.loop k
  let low := l.both c.below
  let high := l.both c.above
  let lk := n.leak k
  let drip := (n.leakCfg k).dripTray
  match code with
  | 1 => roleIn n k [1, 6] && low
  | 2 => roleIn n k [3] && high
  | 3 => roleIn n k [5] && high
  | 4 => roleIn n k [2, 4, 6] && high
  | 5 => roleIn n k [2] && low
  | 6 => roleIn n k [1, 2, 3] && (l.state == .fault || l.state == .disconnected) &&
      !((List.range 16).any fun j => j != k && (n.loopCfg j).role == c.role && (n.loop j).state == .normal)
  | 7 => drip && (lk.state == .leak || lk.latch || lk.state == .chatter)
  | 8 => !drip && (lk.state == .leak || lk.latch)
  | 9 => !drip && (lk.state == .channelFault || lk.state == .chatter)
  | _ => false

/-- The channel of a hazard is in Guard. -/
def hazardGuard (n : Ndevas) (code k : Nat) : Bool := if code ≤ 6 then !(n.loopCfg k).watch else !(n.leakCfg k).watch

/-- The hazards that a reading of current-loop channel `k`, and a state change of leak channel `k`, evaluate. -/
def loopHazards (k : Nat) : List (Nat × Nat) := [(1, k), (2, k), (3, k), (4, k), (5, k)] ++ (List.range 16).map fun j => (6, j)
def leakHazards (k : Nat) : List (Nat × Nat) := [(7, k), (8, k), (9, k)]

def Ndevas.hazard? (n : Ndevas) (code k : Nat) : Option Hazard := n.hazards.find? fun h => h.code == code && h.ch == k

def Ndevas.setHazard (n : Ndevas) (code k : Nat) (f : Hazard → Hazard) : Ndevas :=
  { n with hazards := n.hazards.map fun h => if h.code = code ∧ h.ch = k then f h else h }

/-- Evaluating the hazards of `l` takes an action: one is raised now, on a Guard channel. -/
def Ndevas.willAct (n : Ndevas) (l : List (Nat × Nat)) : Bool :=
  l.any fun e => hazardCond n e.1 e.2 && hazardGuard n e.1 e.2 && (n.hazard? e.1 e.2).isNone

/-- Evaluate one hazard on one channel: raised, kept, or its 5 s towards clearing begin. -/
def evalHazard (s0 : State) (s : State) (e : Nat × Nat) : State :=
  let n := s.nd
  let cond := hazardCond n e.1 e.2
  let guard := hazardGuard n e.1 e.2
  match n.hazard? e.1 e.2 with
  | some h =>
    let s' : State := { s with nd := n.setHazard e.1 e.2 fun h => { h with holds := cond, guard := guard } }
    if cond && guard && !h.guard && e.1 == 7 then s'.isolateAll 10 else s'
  | none =>
    if !cond then s
    else
      let s1 : State := { s with nd := { n with hazards := n.hazards ++ [⟨e.1, e.2, guard, true, 0⟩] } }
      let s2 := s0.log s1 .none 0x1101 e.1 guard (!guard) e.2
      let s3 : State := { s2 with out := s2.out ++ [.platformEvent e.1 true] }
      if guard && e.1 == 7 then s3.isolateAll 10 else s3

/-- Evaluate hazards and let the outputs follow the actions. -/
def evalHazards (s0 s : State) (l : List (Nat × Nat)) : State :=
  let s' := l.foldl (evalHazard s0) s
  onNd (Ndevas.refresh s.nd) s'

end Sys2Proof.Machine
end

