-- ==== Sys2Proof/Machine/FieldIo.lean ====
section
/-! DEFINITION. The field side of the Ndevas: field supply, current-loop inputs, leak inputs, outputs, e-fuses
(14 R352 to R378, 17 R417, R418). A run of n samples at 1 kHz lasts n ms, as 14 R365 says of 20 of them. -/
namespace Sys2Proof.Machine

/-- Do `f` while the Ndevas senses and acts on the field side (14 R352, R373). -/
def fieldNext (f : State → State) (s : State) : Res := .next (if s.nd.acts then f s else s)

/-- Do `f` wherever there is standby power: what hardware does, also while the Ndevas restarts (14 R357, R374). -/
def hardNext (f : State → State) (s : State) : Res := .next (if s.nd.standby then f s else s)

/-! ## Field supply (14 R353) -/

/-- A measurement in mV; ten in a row on the other side of the range are 100 ms. -/
def measureSupply (mv : Nat) (s : State) : State :=
  let n := s.nd
  let bad := decide (mv < 20400 ∨ 28800 < mv)
  let run := if bad = n.fieldBad then 0 else n.fieldRun + 1
  let s1 : State := { s with nd := { n with fieldMv := mv, fieldRun := if run = 10 then 0 else run, fieldBad := if run = 10 then bad else n.fieldBad } }
  if run = 10 then s.log s1 .none 0x1010 0xFF false false (mv + 2 ^ 32 * b2n bad) else s1

def execFieldSupplyMeasure (mv : Nat) (s : State) : Res := fieldNext (measureSupply mv) s

/-! ## Readings (14 R356, R358, R360) -/

/-- The three regions of a slice: below 3.6 mA, 3.6 to 21.0 mA, above. -/
def sliceRegion (r : Nat) : Nat := min r 2

/-- A reading is INVALID. -/
def badSlice (l : Loop) (samples : List Nat) : Bool :=
  let srt := sortBy (fun a b => decide (a ≤ b)) samples
  let mid2 := srt.getD 7 0 + srt.getD 8 0
  samples.any (fun x => decide (2 * x + 2000 < mid2 ∨ mid2 + 2000 < 2 * x)) ||
    (match l.slice with | [] => false | r :: rest => rest.any fun q => sliceRegion q != sliceRegion r) ||
    decide (l.clean < 5)

/-- The quality code of a current in sixteenths of a µA. -/
def qualityOf (i16 : Nat) : Nat :=
  if i16 < 8000 then 4
  else if i16 < 57600 then 3
  else if i16 < 60800 then 1
  else if i16 ≤ 328000 then 0
  else if i16 ≤ 336000 then 2
  else 5

/-- V_FS - V_D - VT_MIN in mV, and the resistance of the loop in Ω. -/
def headroom (n : Ndevas) (c : LoopCfg) : Int × Nat := ((n.fieldMv : Int) - 900 - c.vtMin, 114 + c.rWire)

/-- The reading of a slice. -/
def readingOf (n : Ndevas) (k : Nat) (samples : List Nat) : Reading :=
  let l := n.loop k
  let h := headroom n (n.loopCfg k)
  let i16 := samples.sum
  let capped := decide (16000 * h.1 ≤ ((i16 + 1600) * h.2 : Nat))
  match l.state with
  | .unused | .starting => .notScanned
  | .disconnected => ⟨6, i16, capped⟩
  | _ => ⟨if badSlice l samples then 7 else qualityOf i16, i16, capped⟩

/-- The compliance monitor, at each reading of a channel that is scanned: LOW_HEADROOM set, or cleared after 16 good readings. -/
def headroomCheck (s0 : State) (k : Nat) (r : Reading) (s : State) : State :=
  let n := s.nd
  let c := n.loopCfg k
  let h := headroom n c
  let l := n.loop k
  let bad := r.capped || decide (h.1 * 1000 < (21000 * h.2 : Nat))
  let icap := (h.1 * 1000).toNat / h.2
  if r.quality = 8 then s
  else if bad then
    let s1 : State := { s with nd := n.setLoop k { l with lowHead := true, okHead := 0 } }
    if l.lowHead then s1 else s0.log s1 (.loop k) 0x1003 k false c.watch (icap + 2 ^ 32)
  else if l.lowHead then
    if l.okHead = 15 then s0.log { s with nd := n.setLoop k { l with lowHead := false, okHead := 0 } } (.loop k) 0x1003 k false c.watch icap
    else { s with nd := n.setLoop k { l with okHead := l.okHead + 1 } }
  else s

/-- A channel enters FAULT, with the quality code that caused it (14 R362). -/
def loopFault (s0 : State) (k code : Nat) (acted : Bool) (s : State) : State :=
  let n := s.nd
  s0.log { s with nd := n.setLoop k { n.loop k with state := .fault } } (.loop k) 0x1001 k acted (n.loopCfg k).watch code

/-- A current-loop channel as its role changes (14 R362). -/
def roleChange (old new : Nat) (l : Loop) : Loop :=
  if new = 0 then Loop.initial else if old = 0 then { Loop.initial with state := .starting, fetOpen := false } else l

/-- At the start of its slice channel `k` takes its parameters from the active set (14 R359). -/
def Ndevas.takeLoopCfg (n : Ndevas) (k : Nat) : Ndevas :=
  let c := n.setLoopCfg k
  n.setLoop k { roleChange (n.loopCfg k).role c.role (n.loop k) with cfg := c }

/-- Keep a reading: the latest of any code, and the last two that carry a value. -/
def Loop.keep (l : Loop) (r : Reading) : Loop :=
  { l with last := r, seen := if r.valued then (r :: l.seen).take 2 else l.seen }

/-- A slice of channel `k`: the parameters of the active set come into force at its start; at its end the reading is classified, and
the channel's state and the hazards follow. -/
def sliceComplete (k : Nat) (samples : List Nat) (s0 : State) : State :=
  let s := onNd (·.takeLoopCfg k) s0
  let n := s.nd
  let l := n.loop k
  let r := readingOf n k samples
  let n1 := n.setLoop k (l.keep r)
  let s1 := headroomCheck s k r { s with nd := n1 }
  let s2 :=
    if l.state = .normal ∧ 3 ≤ r.quality ∧ r.quality ≤ 5 then
      loopFault s k r.quality ((s1.nd.setLoop k { s1.nd.loop k with state := .fault }).willAct (loopHazards k)) s1
    else if l.state = .fault ∧ 105 ≤ l.good ∧ r.quality ≤ 2 then
      let m := s1.nd
      s.log { s1 with nd := m.setLoop k { m.loop k with state := .normal } } (.loop k) 0x1002 k false (m.loopCfg k).watch 0
    else s1
  evalHazards s s2 (loopHazards k)

def execAdcSliceComplete (k : Fin 16) (samples : List Nat) (s : State) : Res := fieldNext (sliceComplete k samples) s

/-! ## The comparator, disconnect and retry (14 R357, R361, R362) -/

/-- The comparator region of a current in µA. -/
def cmpRegion (ua : Nat) : Nat := if ua < 3600 then 0 else if ua ≤ 21000 then 1 else if ua ≤ 23000 then 2 else 3

/-- A comparator sample: two in a row beyond a threshold cross it. While the Ndevas restarts only the disconnect acts. -/
def comparatorStep (k : Nat) (ua : Nat) (s : State) : State :=
  let n := s.nd
  let l := n.loop k
  let r := cmpRegion ua
  let both := fun (p : Nat → Bool) => p r && l.cmp.any p
  let l1 := { l with
    cmp := [r], good := if r = 1 then l.good + 1 else 0, slice := (l.slice ++ [r]).drop (l.slice.length - 4), clean := min 5 (l.clean + 1) }
  let w := (n.loopCfg k).watch
  if l.state = .unused ∨ l.fetOpen = true then s
  else if both fun q => q == 3 then
    let open' := { l1 with fetOpen := true, testing := false, cmp := [], good := 0, clean := 0 }
    if l.state = .disconnected then
      s.log { s with nd := n.setLoop k { open' with retries := l.retries + 1 } } (.loop k) 0x1005 k true w (l.retries + 1)
    else s.log { s with nd := n.setLoop k { open' with state := .disconnected } } (.loop k) 0x1004 k true w 0
  else if !n.acts then { s with nd := n.setLoop k { l with cmp := [r] } }
  else if l.state = .normal ∧ (both (fun q => q == 0) || both fun q => decide (2 ≤ q)) = true then
    loopFault s k (if r = 0 then 3 else 5) false { s with nd := n.setLoop k { l1 with clean := 0 } }
  else { s with nd := n.setLoop k l1 }

def execComparatorSample (k : Fin 16) (ua : Nat) (s : State) : Res := hardNext (comparatorStep k ua) s

/-- A DISCONNECTED channel closes its FET for a test. -/
def retryTest (k : Nat) (s : State) : State :=
  let l := s.nd.loop k
  if l.state = .disconnected then onNd (·.setLoop k { l with testing := true, fetOpen := false, cmp := [], good := 0 }) s else s

def execLoopRetryTest (k : Fin 16) (s : State) : Res := fieldNext (retryTest k) s

/-- The test ends without a crossing: the channel goes to FAULT. A crossing within it has opened the FET already. -/
def retryEnd (k : Nat) (s : State) : State :=
  let l := s.nd.loop k
  if l.state = .disconnected ∧ l.testing = true then
    loopFault s k 6 false (onNd (·.setLoop k { l with testing := false, clean := 0 }) s)
  else s

def execLoopRetryTestEnd (k : Fin 16) (s : State) : Res := fieldNext (retryEnd k) s

/-- A scan starts 80 ms or more after loop power came on. -/
def startingDone (k : Nat) (s : State) : State :=
  let l := s.nd.loop k
  if l.state = .starting then onNd (·.setLoop k { l with state := .normal }) s else s

def execLoopStartingComplete (k : Fin 16) (s : State) : Res := fieldNext (startingDone k) s

/-! ## Leak inputs (14 R363 to R369) -/

/-- The region of a terminal voltage in mV, through Rs (R364). Beyond the converter's range the input is tied to the field
supply: it reads as clear or wire fault (R377). -/
def leakRegion (type mv : Nat) : Region :=
  match type with
  | 0 => if rsBelow mv 1000 then .active else if rsAbove mv 4000 then .clear else .band
  | 1 => if 8190 ≤ mv then .clear else if rsAbove mv 4000 then .active else if rsBelow mv 1000 then .clear else .band
  | _ =>
    if rsBelow mv 30000 then .active else if rsAbove mv 300000 then .wireFault else if rsAbove mv 50000 then .clear else .band

/-- A change of leak channel `k` to `l`, its event where it has one, and the hazards. -/
def leakChange (s0 : State) (k : Nat) (l : Leak) (ev : Option (Nat × Nat)) (s : State) : State :=
  let n1 := s.nd.setLeak k l
  let s1 : State := { s with nd := n1 }
  let s2 := match ev with
    | some (kind, detail) => s0.log s1 (.leak k) kind k (n1.willAct (leakHazards k)) (n1.leakCfg k).watch detail
    | none => s1
  evalHazards s0 s2 (leakHazards k)

/-- The channel becomes LEAK and its latch sets; LEAK_ACTIVE with its cause: 1 region, 2 timeout, 3 chatter. -/
def toLeak (s0 : State) (k : Nat) (l : Leak) (cause : Nat) (s : State) : State :=
  leakChange s0 k { l with state := .leak, latch := true } (if l.latch then none else some (0x1006, cause)) s

/-- The channel has taken a region (the state machine of R369). -/
def regionTaken (s0 : State) (k : Nat) (l : Leak) (r : Region) (s : State) : State :=
  match l.state, r with
  | .chatter, _ | _, .band | .leak, .active | .leak, .clear | .clear, .clear => onNd (·.setLeak k l) s
  | .channelFault, .wireFault => onNd (·.setLeak k l) s
  | _, .active => toLeak s0 k l 1 s
  | .channelFault, .clear => if l.latch then onNd (·.setLeak k l) s else leakChange s0 k { l with state := .clear } none s
  | .indeterminate, .clear => leakChange s0 k { l with state := .clear } none s
  | _, .wireFault => leakChange s0 k { l with state := .channelFault } (some (0x1008, 1)) s

/-- More than 10 crossings in 1 s: the channel chatters; a DRIP_TRAY channel sets its latch (R367, R369). -/
def toChatter (s0 : State) (k : Nat) (l : Leak) (s : State) : State :=
  let s1 := leakChange s0 k { l with state := .chatter } (some (0x1009, l.crossings.length)) s
  if (s.nd.leakCfg k).dripTray ∧ l.latch = false then
    leakChange s0 k { s1.nd.leak k with latch := true } (some (0x1006, 3)) s1
  else s1

/-- At a sample leak channel `k` takes its parameters from the active set; hazards are evaluated again where they changed (15
R389). -/
def takeLeakCfg (k : Nat) (s : State) : State :=
  let c := s.nd.setLeakCfg k
  if s.nd.leakCfg k = c then s else evalHazards s (onNd (fun n => n.setLeak k { n.leak k with cfg := c }) s) (leakHazards k)

/-- A sample of leak channel `k`: 20 in a row take a region. -/
def leakStep (k code : Nat) (s0 : State) : State :=
  let s := takeLeakCfg k s0
  let l := s.nd.leak k
  let r := leakRegion l.cfg.type (leakMv code)
  let run := if r = l.region then l.run + 1 else 1
  let side := r != .band
  let cross := side && (match l.lastSide with | some q => (q == .active) != (r == .active) | none => false)
  let recent := l.crossings.filter fun i => decide (l.n < i + 1000)
  let crossings := if cross then recent ++ [l.n] else recent
  let takes := decide (20 ≤ run) && side && l.taken != some r
  let l1 := { l with
    region := r, run := run, n := l.n + 1, code := some code, crossings := crossings
    lastSide := if side then some r else l.lastSide, taken := if takes then some r else l.taken }
  let s1 := onNd (·.setLeak k l1) s
  if decide (10 < crossings.length) && l.state != .chatter then toChatter s k l1 s1
  else if takes then regionTaken s k l1 r s1
  else s1

def execLeakSample (k : Fin 8) (code : BitVec 12) (s : State) : Res := fieldNext (leakStep k code.toNat) s

/-- 10 s without a crossing: the channel takes the region that it has taken; a latch keeps it LEAK. -/
def chatterDone (k : Nat) (s : State) : State :=
  let l := { s.nd.leak k with crossings := [] }
  if l.state ≠ .chatter then s
  else match l.taken with
    | some .active => toLeak s k l 1 s
    | some .wireFault => leakChange s k { l with state := .channelFault } (some (0x1008, 1)) s
    | some _ => leakChange s k { l with state := if l.latch then .leak else .clear } none s
    | none => leakChange s k { l with state := if l.latch then .leak else .indeterminate } none s

def execChatterEnd (k : Fin 8) (s : State) : Res := fieldNext (chatterDone k) s

/-- Still INDETERMINATE 2 s after sampling started (R366). -/
def leakTimeout (k : Nat) (s : State) : State :=
  let l := s.nd.leak k
  if l.state ≠ .indeterminate then s
  else if (s.nd.leakCfg k).dripTray then toLeak s k l 2 s
  else leakChange s k { l with state := .channelFault } (some (0x1008, 2)) s

def execLeakIndeterminateTimeout (k : Fin 8) (s : State) : Res := fieldNext (leakTimeout k) s

/-- 60 s in the band without a break (R365): the channel keeps its state. -/
def leakDrift (k : Nat) (s : State) : State :=
  let l := s.nd.leak k
  if l.region = .band then s.log s (.leak k) 0x100A k false (s.nd.leakCfg k).watch (rsOhms l.code) else s

def execLeakDrift (k : Fin 8) (s : State) : Res := fieldNext (leakDrift k) s

/-! ## Outputs (14 R371 to R373) -/

/-- The diagnosis of output `k` from its sample, cross-feed apart. -/
def diagnose (s0 : State) (k : Nat) (v : OutSample) (s : State) : State :=
  let n := s.nd
  let o := { n.output k with sample := v }
  match o.state with
  | .on =>
    let lim := if v.inLimit then o.inLimit + 1 else 0
    let low := if v.ma < 10 then o.low + 1 else 0
    let o1 := { o with inLimit := lim, low := low, sinceOn := o.sinceOn + 1 }
    if lim = 5 then s0.log { s with nd := n.setOut k { o1 with state := .overload, inLimit := 0, low := 0 } } (.output k) 0x100D k false false 0
    else if low = 100 ∧ o.openLoad = false then
      s0.log { s with nd := n.setOut k { o1 with openLoad := true } } (.output k) 0x100E k false false 1
    else if 10 ≤ v.ma ∧ o.openLoad = true then
      s0.log { s with nd := n.setOut k { o1 with openLoad := false } } (.output k) 0x100E k false false 0
    else { s with nd := n.setOut k o1 }
  | .off =>
    let high := if 12000 < v.mv then o.high + 1 else 0
    if high = 5 then
      s0.log { s with nd := n.setOut k { o with state := .backfed, high := 0, below := 0 } } (.output k) 0x100B k false false v.mv
    else { s with nd := n.setOut k { o with high := high } }
  | .backfed =>
    let below := if v.mv < 2000 then o.below + 1 else 0
    if below = 1000 then
      let n1 := n.setOut k { o with state := .off, below := 0 }
      { s with nd := n1.switch k (n1.wanted k) }
    else { s with nd := n.setOut k { o with below := below } }
  | _ => { s with nd := n.setOut k o }

/-- Outputs `j` and `k` are tied together: both held off (R371, R372). -/
def crossfed (s0 : State) (j k : Nat) (s : State) : State :=
  let n := s.nd
  let hold := fun (n : Ndevas) (i : Nat) => n.setOut i { n.output i with state := .crossfed, inLimit := 0, low := 0, high := 0 }
  s0.log { s with nd := hold (hold n j) k } (.output k) 0x100C k false false (j + 256 * k)

/-- The off outputs `j` that rise above 12 V within 10 ms of an output `k` turning on, from below 2 V. -/
def crossPairs (n : Ndevas) (vs : List OutSample) : List (Nat × Nat) :=
  ((List.range 4).flatMap fun k => (List.range 4).map fun j => (j, k)).filter fun p =>
    let j := n.output p.1
    let k := n.output p.2
    k.state == .on && decide (k.sinceOn < 10) && j.state == .off && j.wasLow && decide (12000 < (vs.getD p.1 ⟨0, 0, false⟩).mv)

/-- One sample of each output; none is diagnosed while the firmware restarts. -/
def outputStep (vs : List OutSample) (s : State) : State :=
  let s1 := (crossPairs s.nd vs).foldl (fun t p => crossfed s p.1 p.2 t) s
  (List.range 4).foldl (fun t k => diagnose s k (vs.getD k ⟨0, 0, false⟩) t) s1

def execOutputSample (samples : List OutSample) (s : State) : Res := fieldNext (outputStep samples) s

/-- The test at 30 ms, before any output has taken a state: each pair found is CROSSFED. -/
def crossfeedTest (found : List (Fin 4 × Fin 4)) (s : State) : State :=
  if s.nd.outsUp then s else found.foldl (fun t p => if p.1 = p.2 then t else crossfed s p.2 p.1 t) s

def execCrossfeedTest (found : List (Fin 4 × Fin 4)) (s : State) : Res := fieldNext (crossfeedTest found) s

/-- At 60 ms each output takes its power-up state; not again after a restart. -/
def powerUpState (s : State) : State :=
  if s.nd.outsUp then s
  else onNd (fun n => (List.range 4).foldl (fun n k =>
    let n := n.setOut k { n.output k with cmd := n.active.outUp.getD k false }
    n.switch k (n.wanted k)) { n with outsUp := true }) s

def execOutputPowerUpState (s : State) : Res := fieldNext powerUpState s

/-! ## E-fuses (14 R374, R375; 15 R384; 17 R417, R418) -/

/-- The kind of trip at a current of `ma` mA (17 R418): above 80 A, above 1.25 × I_LIM, or above I_LIM in 20 samples in a row, which
are 20 ms. -/
def tripKind (limit ma : Nat) (samples : List FuseSample) : Option Nat :=
  if 80000 < ma then some 2
  else if 1250 * limit < ma then some 1
  else if 1000 * limit < ma ∧ 20 ≤ samples.length ∧ samples.all (fun v => decide (1000 * limit < v.ma)) = true then some 3
  else none

/-- The last 20 samples of an e-fuse, with the new ones. -/
def keepSamples (old new : List FuseSample) : List FuseSample := let l := old ++ new; l.drop (l.length - 20)

/-- E-fuse `c` carries `ma` mA after the samples given. A trip opens it alone; EFUSE_TRIP and the isolation are logged. -/
def fuseTrip (c : Fin 8) (ma : Nat) (samples : List FuseSample) (s : State) : State :=
  let p := s.nd.position c
  let kept := keepSamples p.samples samples
  let s0 := onNd (·.setPosition c { p with samples := kept }) s
  if p.fuse = false then s0
  else match tripKind (s.nd.fuseLimit c) ma kept with
    | none => s0
    | some kind =>
      let s1 := s0.openFuse c
      let s2 := s0.log s1 (.fuse c) 0x100F c true false (kind + 2 ^ 32 * match kept.getLast? with | some v => v.ma | none => 0)
      let s3 := onNd (fun n => n.setPosition c { n.position c with cause := 4 }) s2
      s0.log s3 .none 0x1104 c true false 4

def execEfuseTrip (c : Fin 8) (ma : Nat) (samples : List FuseSample) (s : State) : Res := hardNext (fuseTrip c ma samples) s

/-- Every e-fuse opens; EFUSE_TRIP for each chip that had rails up. The e-fuses stay open until a PowerOn. -/
def busbarTrip (above : Bool) (s : State) : State :=
  (List.finRange 8).foldl (fun t i =>
    let up := (s.chips.get i).boot.rails == .up
    let t1 := t.openFuse i
    if up then s.log t1 .none 0x100F i true false (if above then 5 else 4) else t1) s

def execBusbarFault (above : Bool) (s : State) : Res := hardNext (busbarTrip above) s

/-- The chip's thermal-trip line opens its e-fuse (12 R316, 14 R374). -/
def tripLine (c : Fin 8) (s : State) : State :=
  if (s.chips.get c).boot.tripLine then s.isolated s c 3 false else s

def execThermalTripLine (c : Fin 8) (s : State) : Res := hardNext (tripLine c) s

end Sys2Proof.Machine
end

