-- ==== Sys2Proof/Machine/Boot.lean ====
section
/-! DEFINITION. Power-up, reset and power states: the Ndevas start, rails, boot, the reset kinds, Idle and Dormant
(02 R44 to R61, R430; 16 R401, R408 to R411). -/
namespace Sys2Proof.Machine

/-! ## The Ndevas starts (02 R44, R45, R49, R56) -/

/-- A channel at power-up: STARTING where it has a role. -/
def Ndevas.startLoops (n : Ndevas) : Ndevas :=
  (List.range 16).foldl (fun n k =>
    let c := n.setLoopCfg k
    n.setLoop k { (if c.role = 0 then Loop.initial else { Loop.initial with state := .starting, fetOpen := false }) with cfg := c }) n

/-- A channel over a restart: it stays disconnected where its FET is open, else its state is rebuilt from a fresh scan. -/
def Ndevas.rebuildLoops (n : Ndevas) : Ndevas :=
  (List.range 16).foldl (fun n k =>
    let l := n.loop k
    let c := n.setLoopCfg k
    n.setLoop k
      (if c.role = 0 then { Loop.initial with cfg := c }
      else if l.fetOpen ∧ l.state = .disconnected then { Loop.initial with cfg := c, state := .disconnected, retries := l.retries, clean := 0 }
      else { Loop.initial with cfg := c, state := .starting, fetOpen := false })) n

/-- A leak channel at a start: INDETERMINATE, but a latched leak stays (14 R366, R368). -/
def Ndevas.startLeaks (n : Ndevas) : Ndevas :=
  (List.range 8).foldl (fun n k =>
    let start := { Leak.initial with cfg := n.setLeakCfg k }
    n.setLeak k (if (n.leak k).latch then { start with state := .leak, latch := true } else start)) n

/-- Standby rail good: t = 0 of the timeline. -/
def standbyUp (s : State) : State :=
  if s.nd.standby then s
  else onNd (fun n => ({ n with standby := true, running := false, startedAt := s.now, startCause := 1 }.startLoops).startLeaks) s

def execStandbyRailGood (s : State) : Res := .next (standbyUp s)

/-- Standby power is lost: every chip is Off; the Ndevas keeps what its flash holds. -/
def standbyDown (s : State) : State :=
  { s with
    chips := s.chips.map Chip.offWith
    out := s.out ++ (List.finRange 8).flatMap fun i => (s.chips.get i).railsDown i
    nd :=
      { Ndevas.initial with
        active := s.nd.active, shadow := s.nd.shadow, activeGen := s.nd.activeGen, shadowGen := s.nd.shadowGen
        leaks := (List.range 8).foldl (fun t k => tset .initial t k { Leak.initial with latch := (s.nd.leak k).latch }) []
        flash := s.nd.flash.map fun r => { r with due := false }
        toSend := s.nd.toSend, seq := s.nd.seq, image := s.nd.image
        pos := (List.range 8).foldl (fun t i => tset .initial t i { Position.initial with image := (s.nd.position i).image }) [] } }

def execStandbyPowerLoss (s : State) : Res := .next (standbyDown s)

/-- An identity memory reads within three attempts, and its checksums pass. -/
def idReads (attempts : List IdAttempt) : Bool :=
  match (attempts.take 3).find? fun a => a != .noAnswer with
  | some .ok => true
  | _ => false

def idPasses (r : IdRead) : Bool := idReads r.attempts

/-- Log an identity failure: memory, and the row of R49. -/
def idFail (s0 : State) (bad : Bool) (memory row : Nat) (s : State) : State :=
  if bad then s0.log s .none 0x1107 memory false false row else s

/-- A memory that was not read. -/
def noRead : IdRead := ⟨[], false, [], 0, []⟩

/-- The board memory has been read: no I_LIM of the active set is above its per-chip limit (14 R374). -/
def Ndevas.readBoard (n : Ndevas) (r : IdRead) : Ndevas :=
  { n with
    boardOk := true, limits := r.limits, fru := tset [] n.fru 0 r.fru
    active := { n.active with fuses := n.active.fuses.mapIdx fun i a => match r.limits[i]? with | some l => min l a | none => a } }

/-- The pages of a module that the Ndevas supports (11 R300). -/
def modulePages : List Byte := [0x00, 0x01, 0x02, 0x10, 0x11]

/-- A module whose identity was read and that asks for no more than 10 W goes to Ready and its data path is initialised; any
other is kept in low-power mode (02 R49, 11 R300, 17 R422). -/
def ModuleRead.manage (r : ModuleRead) : Module :=
  let ok := idReads r.attempts && decide (r.power ≤ 100)
  { healthy := ok, state := if ok then .ready else .lowPwr, dataPath := ok, lower := r.lower.take 128
    pages := modulePages.foldl (fun t p => match r.pages.find? fun e => e.1 == p with
      | some e => tset [] t p.toNat (e.2.take 128)
      | none => t) [] }

/-- The FRU records of what passes. -/
def fruOf (ids : IdReads) (t : Tab Bytes) : Tab Bytes :=
  let put := fun (base : Nat) (l : List IdRead) (t : Tab Bytes) => (List.range 8).foldl (fun t i =>
    let r := l.getD i noRead
    if idPasses r then tset [] t (base + i) r.fru else t) t
  put 0x20 ids.cables (put 0x10 ids.chips t)

/-- The Ndevas reads the identity memories. -/
def readIds (ids : IdReads) (s : State) : State :=
  let chip := fun i => (ids.chips.getD i noRead)
  let cable := fun i => (ids.cables.getD i noRead)
  let s1 := onNd (fun n =>
    let n := if idPasses ids.board then n.readBoard ids.board else { n with boardOk := false }
    { n with
      variantU := ids.variantU, modules := if ids.variantU then ids.modules.map ModuleRead.manage else [], fru := fruOf ids n.fru
      pos := (List.range 8).foldl (fun t i => tupd .initial t i fun p =>
        { p with
          idRow := if !idPasses (chip i) then 2 else if (chip i).compatible then 0 else 3, cableOk := idPasses (cable i)
          stepping := if idPasses (chip i) then some (chip i).stepping else none
          due := if n.startCause = 1 then idPasses (chip i) && (chip i).compatible else p.due }) n.pos }) s
  let s2 := idFail s (!idPasses ids.board) 0 1 s1
  let s3 := (List.range 8).foldl (fun t i =>
    idFail s (idPasses (chip i) && !(chip i).compatible) (0x10 + i) 3 (idFail s (!idPasses (chip i)) (0x10 + i) 2 t)) s2
  let s4 := (List.range 8).foldl (fun t i => idFail s (!idPasses (cable i)) (0x20 + i) 4 t) s3
  (List.range (if ids.variantU then ids.modules.length else 0)).foldl (fun t m =>
    idFail s (!((ids.modules.map fun r => idReads r.attempts).getD m true)) (0x30 + m) 5 t) s4

/-- The leak latches that flash holds are evaluated; after a restart ISOLATE is repeated, with a grace of 0, for every chip that
still has rails up where a hazard calls for it or its isolation had begun. CLOSE and PUMP end where no LEAK_TRAY is raised. -/
def resumeActions (s : State) : State :=
  let s1 := (List.range 8).foldl (fun t k => evalHazards t t (leakHazards k)) s
  let tray := s1.nd.hazards.any fun h => h.code == 7 && h.guard
  let s2 := if s.nd.startCause = 1 then s1
    else (List.finRange 8).foldl (fun (t : State) (i : Fin 8) =>
      if t.railsUp i then match (t.nd.position i).iso with
        | some (cause, _) => t.isolateNow i cause
        | none => if tray then t.isolateNow i .hazard else t
      else t) s1
  onNd (fun n => n.refresh { n with closePump := n.closePump && n.hazards.any fun h => h.code == 7 }) s2

/-- Ndevas firmware runs: NDEVAS_START is logged, the identity memories are read, and the actions that latches call for resume. -/
def firmwareRuns (ids : IdReads) (s : State) : State :=
  if !s.nd.standby || s.nd.running then s
  else
    let s1 := onNd (fun n => { n with running := true }) s
    resumeActions (readIds ids (s.log s1 .none 0x110A 0xFF false false s.nd.startCause))

def execNdevasFirmwareRunning (ids : IdReads) (s : State) : Res := .next (firmwareRuns ids s)

/-- The Ndevas restarts: rails, e-fuses and outputs are held in latches; what waits in RAM for programming is lost, and hazards and
channel states are built anew. -/
def ndevasRestart (cause : RestartCause) (s : State) : State :=
  if !s.nd.running then s
  else onNd (fun n =>
    { n.rebuildLoops.startLeaks with
      hazards := [], scansOk := 0
      running := false, idsRead := false, startCause := (match cause with | .watchdog => 2 | .firmwareUpdate => 3)
      clock := n.clock.map (· + s.ndMs), startedAt := s.now, queue := [], coalesced := none
      flash := n.flash.map fun r => { r with due := false }, image := none }) s

def execNdevasRestart (cause : RestartCause) (s : State) : Res := .next (ndevasRestart cause s)

/-- The board memory is read again every 10 s after a failure. -/
def boardRetry (r : IdRead) (s : State) : State :=
  if !s.nd.running || s.nd.boardOk then s
  else if idPasses r then onNd (·.readBoard r) s
  else idFail s true 0 1 s

def execTrayIdentityRetry (board : IdRead) (s : State) : Res := .next (boardRetry board s)

/-! ## The coolant check and the rail sequence (02 R45, R46; 12 R319) -/

/-- A channel in use of a supply role reads outside its thresholds. -/
def supplyFails (n : Ndevas) (k : Nat) : Bool :=
  let c := n.loopCfg k
  let r := (n.loop k).last
  roleIn n k [1, 2, 3] && (!r.valued || c.below r || c.above r)

/-- A leak or float input reads active. -/
def leakActive (n : Ndevas) : Bool :=
  (List.range 8).any fun k =>
    let l := n.leak k
    l.state == .leak || l.taken == some .active || (l.state == .chatter && (n.leakCfg k).dripTray)

/-- The coolant check passes on the latest readings; a Watch channel passes. -/
def coolantOk (n : Ndevas) : Bool :=
  !((List.range 16).any fun k => supplyFails n k && !(n.loopCfg k).watch) && !leakActive n

/-- A scan of the coolant check; the failures that it passes on Watch channels are logged. -/
def coolantScan (s : State) : State :=
  if !s.nd.running then s
  else
    let n := s.nd
    let passed := (List.range 16).filter fun k => supplyFails n k && (n.loopCfg k).watch
    let s1 : State := { s with nd := { n with idsRead := true, scansOk := if coolantOk n then n.scansOk + 1 else 0 } }
    passed.foldl (fun t k => s.logOpen t (.loop k) k true) s1

def execCoolantCheckScan (s : State) : Res := .next (coolantScan s)

/-- The first allotment of a chip: min(1,400 W, ⌊B ÷ N⌋) with N chips to be powered (12 R319). -/
def firstAllotment (n : Ndevas) (chips : Nat) : Nat := min 1400 ((n.active.trayCap - 120) / chips)

/-- Close the e-fuse of chip `c` and start its rail sequence: the always-on rail is enabled first (02 R46). -/
def startRails (c : Fin 8) (byCommand : Bool) (chips : Nat) (s : State) : State :=
  let a := firstAllotment s.nd chips
  let old := s.chips.get c
  { s with
    chips := s.chips.set c
      { old.offWith with
        boot := { old.offWith.boot with rails := .sequencing, railsOn := 1 }, power := { Power.initial with a := a, p := a } }
    out := s.out ++ [.rail c 0 true]
    nd := s.nd.setPosition c
      { s.nd.position c with fuse := true, due := false, byCommand := byCommand, cause := 0, iso := none, a := a, g := 0, p := a } }

/-- The rail sequence of the power-up timeline: the conditions of R45 hold, on two scans. -/
def railSequence (c : Fin 8) (s : State) : State :=
  let n := s.nd
  if n.running && n.boardOk && (n.position c).idRow == 0 && (n.position c).due && decide (2 ≤ n.scansOk) && !leakActive n &&
      (s.chips.get c).boot.rails == .down then
    startRails c false ((List.range 8).countP fun i => (n.position i).due || s.railsUp i) s
  else s

def execRailSequenceStart (c : Fin 8) (s : State) : Res := .next (railSequence c s)

/-- The next rail group of a chip in its rail sequence is enabled: each follows when the one before is in regulation (02 R46). -/
def Ctx.railStep (x : Ctx) : Ctx :=
  let n := x.chip.boot.railsOn
  if x.chip.boot.rails = .sequencing ∧ n < 4 then (x.onBoot fun b => { b with railsOn := n + 1 }).emit (.rail x.c n true) else x

/-- Power good: every rail is in regulation, PWRGD is asserted and the boot ROM starts; a power-on reset is in progress (02 R46,
R52, R59). PERST# that is deasserted already is honoured 100 ms later (02 R47). -/
def powerGood (c : Fin 8) (s : State) : State :=
  let old := s.chips.get c
  let p := s.nd.position c
  if old.boot.rails ≠ .sequencing then s
  else
    let s1 : State := { s with
      chips := s.chips.set c
        { old with boot :=
            { Boot.initial with
              rails := .up, railsOn := 4, pstate := .booting, perst := old.boot.perst, perstEarly := !old.boot.perst, pgTime := s.now } }
      out := s.out ++ ((List.range 4).drop old.boot.railsOn).map fun r => .rail c r true
      nd := s.nd.setPosition c { p with pwrgd := true, byCommand := false, image := none } }
    if p.byCommand then s.log s1 .none 0x1105 c false false 0 else s1

def execPowerGood (c : Fin 8) (s : State) : Res := .next (powerGood c s)

/-- A rail misses its limit: the rails go down in reverse order, the chip is Off and the rail is logged. In a rail sequence the
rails up to the failing one have been enabled. -/
def railFault (c : Fin 8) (rail : Nat) (s : State) : State :=
  let old := s.chips.get c
  if old.boot.rails = .down then s
  else
    let n := max old.boot.railsOn (rail + 1)
    let s0 : State :=
      { s with
        chips := s.chips.set c { old with boot := { old.boot with railsOn := n } }
        out := s.out ++ ((List.range n).drop old.boot.railsOn).map fun r => .rail c r true }
    let s1 := s0.chipOff c
    let s2 := s.log s1 .none 0x1106 c false false rail
    if (s.nd.position c).byCommand then s.log s2 .none 0x1105 c false false 2 else s2

def execRailFault (c : Fin 8) (rail : Fin 4) (s : State) : Res := .next (railFault c rail s)

/-! ## Resets (02 R52 to R55, R430; 10 R261) -/

def ResetKind.fundamental (k : ResetKind) : Bool := k == .perst || k == .ndevas

/-- A port at the start of a fundamental reset: DOWN, a DISABLED one apart. -/
def Port.fundamental (v : Port) : Port :=
  let d := v.goto .down 6
  { Port.initial with state := if v.state = .disabled then .disabled else .down, reason := d.reason }

/-- A port at the start of an FLR or a watchdog reset: the link is kept trained, no DATA is kept, and the fabric time goes on. -/
def Port.keptReset (v : Port) : Port :=
  let w := if v.state = .up ∨ v.state = .drizzle then v.goto .notReady 6 else v
  { w with
    fences := 0, driz := .initial, replay := w.replay.filter fun f => f.vc == 4, toReplay := 0, partnerCut := none
    cutMissing := false, ownCut := none, cutState := 0
    vcs := w.vcs.map fun e => (e.1, { e.2 with tx := [], rx := e.2.rx.map fun _ => [] }) }

/-- The links and the time base: fundamental resets retrain, the others keep (R54). -/
def Fabric.reset (f : Fabric) (fund : Bool) : Fabric :=
  { Fabric.initial with
    ports := (List.range 18).foldl (fun t p =>
      tset .initial t p (let v := tget Port.initial f.ports p; if fund then v.fundamental else v.keptReset)) []
    time := f.time, synced := if fund then false else f.synced, syncLost := if fund then false else f.syncLost }

/-- Power control: the meters, and the protection that the temperatures and the Ndevas drive, go on; the policy's own state starts
anew. -/
def Power.reset (p : Power) (now : Nat) : Power :=
  { Power.initial with
    a := p.a, p := p.p, clamp := p.clamp, hold := p.hold, ndevasLost := p.ndevasLost, sent := p.sent, samples := p.samples
    sum1ms := p.sum1ms, met := p.met, stat := p.stat, splitMet := p.met, splitStat := p.stat, repSum := p.repSum
    repCount := p.repCount, fastLimit := p.fastLimit, lockout := p.lockout, throttled := p.throttled, stopped := p.stopped
    temps := p.temps, thermalNext := p.thermalNext, hbmSince := p.hbmSince, hbmRate := p.hbmRate, shareAt := now, ppmAt := now
    refAt := List.replicate 6 now, refFrom := List.replicate 6 now }

/-- BAR0 after a reset: `function` clears the configuration space and the MSI-X table, `fund` clears STEWARD_FAULT. -/
def Bar.reset (b : Bar) (function fund : Bool) : Bar :=
  let r := { Bar.initial with stewardFault := if fund then 0 else b.stewardFault, aspmL1 := !fund && b.aspmL1 }
  if function then r
  else { r with msix := b.msix, pba := b.pba, msixEnable := b.msixEnable, functionMask := b.functionMask, cfg := b.cfg }

/-- What every reset kind clears, beside boot state and links (R54). -/
def Chip.cleared (h : Chip) (now : Nat) (function fund : Bool) : Chip where
  boot := h.boot
  bar := h.bar.reset function fund
  stew := .initial
  config := .initial
  serve := .initial
  eng := .initial
  mem := .zeroed
  fab := h.fab.reset fund
  power := h.power.reset now
  obs := { Observe.initial with rasLog := h.obs.rasLog, logLost := h.obs.logLost, watchdogs := h.obs.watchdogs }
  ledger := .initial

/-- The boot state as a reset other than power-on starts (R52). -/
def Boot.reset (b : Boot) (kind : ResetKind) : Boot :=
  let r := { Boot.initial with
    rails := .up, railsOn := 4, pstate := .resetting, cause := kind, perst := b.perst, resetLine := b.resetLine, pgTime := b.pgTime
    tripLine := b.tripLine }
  if kind.fundamental then r
  else { r with
    linkL0 := b.linkL0, pcieUp := b.pcieUp, hbmTrained := b.hbmTrained, linkFatal := b.linkFatal, fwRunning := kind == .flr && b.fwRunning
    fwVersion := b.fwVersion, fwBuild := b.fwBuild, ifMinor := b.ifMinor }

/-- A reset starts: READY is cleared, all work ends without a completion (R53). -/
def Ctx.reset (x : Ctx) (kind : ResetKind) : Ctx :=
  let x := x.endGust
  { x with chip := { x.chip.cleared x.now (kind != .watchdog) kind.fundamental with boot := x.chip.boot.reset kind } }

/-- A boot that has failed: only power-on or a fundamental reset leaves it (R59). -/
def Boot.stuck (b : Boot) : Bool := b.fwFailed || b.hbmFailed

/-- A fundamental reset is asked for. A running power-on or fundamental reset clears all that it would: no effect (R55). -/
def Ctx.fundamental (x : Ctx) (kind : ResetKind) : Ctx :=
  let b := x.chip.boot
  if b.rails ≠ .up then x
  else if !b.stuck && (b.pstate == .booting || (b.pstate == .resetting && b.cause.fundamental)) then x
  else x.reset kind

/-- The PCIe link goes down with PERST# or the chip reset line. -/
def Ctx.linkDown (x : Ctx) : Ctx :=
  x.onBoot fun b => { b with linkL0 := false, linkL1 := false, pcieUp := false, perstEarly := false }

/-- The PCIe controller leaves reset once neither line is asserted; no earlier than 100 ms after power good in a power-on (R47). -/
def Ctx.linkStart (x : Ctx) : Ctx :=
  let b := x.chip.boot
  if b.rails ≠ .up || b.perst || b.resetLine || b.pcieUp then x
  else if b.pstate = .booting ∧ x.now < b.pgTime + 100000000 then x.onBoot fun b => { b with perstEarly := true }
  else x.onBoot fun b => { b with pcieUp := true }

def execPerstAssert (c : Fin 8) (s : State) : Res :=
  chipNext c (fun x => ((x.onBoot fun b => { b with perst := true }).linkDown).fundamental .perst) s

def execPerstDeassert (c : Fin 8) (s : State) : Res :=
  chipNext c (fun x => (x.onBoot fun b => { b with perst := false }).linkStart) s

/-- 100 ms after power good an early deassertion is honoured. -/
def execPerstHonoured (c : Fin 8) (s : State) : Res :=
  chipNext c (fun x => onlyIf x.chip.boot.perstEarly (·.onBoot fun b => { b with perstEarly := false, pcieUp := true }) x) s

def execNdevasChipReset (c : Fin 8) (s : State) : Res :=
  chipNext c (fun x => onlyIf (s.nd.running && x.chip.boot.rails == .up)
    (fun x => ((x.onBoot fun b => { b with resetLine := true }).linkDown).fundamental .ndevas) x) s

def execNdevasChipResetDeassert (c : Fin 8) (s : State) : Res :=
  chipNext c (fun x => onlyIf x.chip.boot.resetLine (fun x => (x.onBoot fun b => { b with resetLine := false }).linkStart) x) s

/-! ## The way to READY (02 R48, R52; 16 R409, R412) -/

/-- READY is set: the chip is Idle, NOT_READY ports come UP, and after a watchdog reset vector 0 is raised once. -/
def Ctx.setReady (x : Ctx) : Ctx :=
  let b := x.chip.boot
  let x := (x.onBoot fun b => { b with ready := true, pstate := .idle, bootStage := 5 }).onMem fun _ => .zeroed
  let x :=
    if b.cause = .watchdog ∨ b.combined = true then x.ras 0x09 9 0 (x.chip.bar.stewardFault.toNat % 65536) none 0 0 else x
  let x := (List.range 18).foldl (fun x p => if (x.port p).state = .notReady then x.portUp p else x) x
  if b.cause = .watchdog ∧ b.combined = false then x.raise 0 else x

/-- The conditions of R48, with no reset line held. -/
def Boot.complete (b : Boot) : Bool :=
  b.fwRunning && b.hbmTrained && b.zeroed && b.linkL0 && !b.perst && !b.resetLine && !b.linkFatal

/-- READY follows in a power-on or a fundamental reset once the conditions of R48 hold. -/
def Ctx.tryReady (x : Ctx) : Ctx :=
  let b := x.chip.boot
  if b.complete && (b.pstate == .booting || (b.pstate == .resetting && b.cause.fundamental)) then x.setReady else x

/-- A chip that boots: a power-on, or a reset with no line held. -/
def Boot.boots (b : Boot) : Bool := b.pstate == .booting || (b.pstate == .resetting && !b.perst && !b.resetLine)

def Ctx.linkL0 (x : Ctx) : Ctx :=
  if x.chip.boot.pcieUp && !x.chip.boot.linkFatal then (x.onBoot fun b => { b with linkL0 := true }).tryReady else x

def execPcieLinkL0 (c : Fin 8) (s : State) : Res := chipNext c Ctx.linkL0 s

/-- Firmware is loaded and runs; HBM training follows, or zeroing where a reset keeps HBM trained. -/
def Ctx.firmwareLoaded (x : Ctx) (version build : Word32) (minor : Byte) : Ctx :=
  let b := x.chip.boot
  if b.boots && !b.fwRunning && !b.stuck then
    (x.onBoot fun b =>
      { b with fwRunning := true, fwVersion := version, fwBuild := build, ifMinor := minor, bootStage := if b.hbmTrained then 3 else 2 }).tryReady
  else x

def execFirmwareLoadComplete (c : Fin 8) (version build : Word32) (ifMinor : Byte) (s : State) : Res :=
  chipNext c (·.firmwareLoaded version build ifMinor) s

/-- The image fails to load: FW_FAILED; the Ndevas is told. -/
def Ctx.firmwareFailed (x : Ctx) : Ctx :=
  let b := x.chip.boot
  if b.boots && !b.fwRunning && !b.stuck then
    ((x.onBoot fun b => { b with fwFailed := true, bootStage := 1 }).ras 0x0C 9 0 0 none 0 0).emit (.smbus x.c "FW_FAILED" 1)
  else x

/-- The Ndevas logs the failure as it is told. -/
def firmwareLoadFail (c : Fin 8) (s : State) : State :=
  let s1 := onChip c Ctx.firmwareFailed s
  if (s1.chips.get c).boot.fwFailed && !(s.chips.get c).boot.fwFailed then s.logOpen s1 .none c false else s1

def execFirmwareLoadFail (c : Fin 8) (s : State) : Res := .next (firmwareLoadFail c s)

/-- Every stack has trained: zeroing starts. -/
def Ctx.hbmTrained (x : Ctx) : Ctx :=
  let b := x.chip.boot
  if b.boots && b.fwRunning && !b.hbmTrained && !b.stuck then
    (x.onBoot fun b => { b with hbmTrained := true, bootStage := 3 }).tryReady
  else x

def execHbmTrainingComplete (c : Fin 8) (s : State) : Res := chipNext c Ctx.hbmTrained s

/-- HBM training fails: BOOT_STAGE stays at 0x02. -/
def Ctx.hbmFailed (x : Ctx) : Ctx :=
  let b := x.chip.boot
  if b.boots && b.fwRunning && !b.hbmTrained && !b.stuck then
    (x.onBoot fun b => { b with hbmFailed := true, bootStage := 2 }).ras 0x0C 6 0 0 none 0 0
  else x

def execHbmTrainingFail (c : Fin 8) (s : State) : Res := chipNext c Ctx.hbmFailed s

/-- The Comb store and all HBM have been zeroed. -/
def Ctx.zeroingDone (x : Ctx) : Ctx :=
  let b := x.chip.boot
  if b.boots && b.hbmTrained && b.fwRunning && !b.zeroed then
    ((x.onMem fun _ => .zeroed).onBoot fun b => { b with zeroed := true, bootStage := 4 }).tryReady
  else x

def execZeroingComplete (c : Fin 8) (s : State) : Res := chipNext c Ctx.zeroingDone s

/-- The reset in progress completes: an FLR or a watchdog reset with its firmware running, a fundamental one under R48. -/
def Ctx.resetDone (x : Ctx) : Ctx :=
  let b := x.chip.boot
  if b.pstate == .resetting && !b.stuck && b.fwRunning && !b.perst && !b.resetLine && (!b.cause.fundamental || b.complete) then x.setReady
  else x

def execResetComplete (c : Fin 8) (s : State) : Res := chipNext c Ctx.resetDone s

/-! ## FLR and watchdog (02 R53, R55; 16 R408 to R410) -/

/-- A chip that works: Active, Idle or Dormant. -/
def Boot.works (b : Boot) : Bool := b.pstate == .active || b.pstate == .idle || b.pstate == .dormant

/-- FLR; over a watchdog reset it makes the combined reset. -/
def Ctx.flr (x : Ctx) : Ctx :=
  let b := x.chip.boot
  if !b.linkL0 then x
  else if b.works then x.reset .flr
  else if b.pstate == .resetting && b.cause == .watchdog && !b.stuck then
    (x.onBar fun r => r.reset true false).onBoot fun b => { b with cause := .flr, combined := true, zeroed := false, bootStage := 0 }
  else x

def execFlr (c : Fin 8) (s : State) : Res := chipNext c Ctx.flr s

/-- The fault code is recorded, the fault reported through AER, and the reset counted. -/
def Ctx.faultCode (x : Ctx) (code : Nat) : Ctx :=
  ((x.onBar fun b => { b with stewardFault := BitVec.ofNat 32 (code % 65536) }).onObs fun o =>
    { o with watchdogs := (o.watchdogs + 1) % 2 ^ 32 }).emit (.aer x.c 1 "Uncorrectable Internal Error")

/-- A watchdog reset; over an FLR it makes the combined reset, and RESET_CAUSE stays 0x3. -/
def Ctx.watchdog (x : Ctx) (code : Nat) : Ctx :=
  let b := x.chip.boot
  if b.works then (x.faultCode code).reset .watchdog
  else if b.pstate == .resetting && b.cause == .flr && !b.stuck && !b.combined then
    (x.faultCode code).onBoot fun b => { b with fwRunning := false, combined := true, zeroed := false, bootStage := 0 }
  else x

/-- The code that the firmware wrote, or 0x0001 where it could not. -/
def execStewardWatchdogExpiry (c : Fin 8) (code : Option Word16) (s : State) : Res :=
  chipNext c (·.watchdog (match code with | some v => v.toNat | none => 1)) s

/-- A Steward fault: codes 0x0001 to 0x0003 leave chip state uncertain; a step stall ends its step, a Forager fault its copy. -/
def Ctx.stewardFault (x : Ctx) (code id : Nat) : Ctx :=
  if 1 ≤ code ∧ code ≤ 3 then x.watchdog code
  else if code = 0x0100 then x.stepStall id false
  else if code = 0x0101 then
    if x.frozen then x
    else match x.dispatchedStep id with
      | some (k, t) => let e := t.error.getD (0x0404, 0x0101, 0); x.errorEnd k t e.1 e.2.1 e.2.2
      | none => if x.chip.eng.copies.any fun j => j.cmd == id then x.endCopy 0x0404 0x0101 id else x
  else x

def execStewardFault (c : Fin 8) (code : Word16) (id : Nat) (s : State) : Res := chipNext c (·.stewardFault code.toNat id) s

/-- The AER name of a fatal error (16 R410). -/
def linkFatalName : LinkFatal → String
  | .dlProtocol => "Data Link Protocol Error"
  | .surpriseDown => "Surprise Link Down"
  | .flowControl => "Flow Control Protocol Error"

/-- A fatal host-link error: dispatch stops, nothing more is posted, pending completions are lost. -/
def Ctx.hostLinkFatal (x : Ctx) (kind : LinkFatal) : Ctx :=
  if !x.chip.boot.linkL0 then x
  else
    (((x.emit (.aer x.c 2 (linkFatalName kind))).ras 0x0A 8 0 0 none 0 0).onStew fun w => { w with held := [] }).onBoot fun b =>
      { b with linkFatal := true, linkL0 := false, linkL1 := false }

def execHostLinkFatal (c : Fin 8) (kind : LinkFatal) (s : State) : Res := chipNext c (·.hostLinkFatal kind) s

/-! ## Idle and Dormant (02 R57 to R61, 10 R263, 12 R304) -/

/-- Every die work queue, Forager queue and SFU and selection request queue is empty. -/
def Ctx.queuesEmpty (x : Ctx) : Bool :=
  ((List.range 4).all fun d => (x.die d).work.isEmpty && (x.die d).sfuQ.isEmpty && (x.die d).selQ.isEmpty) &&
    (List.range 16).all fun f => (x.forager f).queue.isEmpty

/-- 50 µs without work: Idle; a held request for Dormant acts. -/
def Ctx.idleTimeout (x : Ctx) : Ctx :=
  if x.chip.boot.pstate = .active ∧ x.queuesEmpty = true then x.enterIdle else x

def execIdleTimeout (c : Fin 8) (s : State) : Res := chipNext c Ctx.idleTimeout s

/-- An Idle chip that is neither entering Dormant nor waking. -/
def Boot.quiet (b : Boot) : Bool := b.pstate == .idle && !b.dormantEntry && !b.waking

/-- The Dormant delay of the active policy elapses. -/
def Ctx.dormantDelay (x : Ctx) : Ctx := if x.chip.boot.quiet && ppDelay x.act.power != 0 then x.enterDormant else x

def execDormantDelayExpiry (c : Fin 8) (s : State) : Res := chipNext c Ctx.dormantDelay s

/-- Dormant entry completes: the link rests in L1 where the host allows it, and a command that 02 R58 does not list and that was
fetched before wakes the chip at once. -/
def Ctx.dormantEntered (x : Ctx) : Ctx :=
  if x.chip.boot.pstate = .idle ∧ x.chip.boot.dormantEntry = true then
    let y := ((x.onBoot fun b => { b with pstate := .dormant, dormantEntry := false }).restLink).count 0x0A 0 12 1
    if x.chip.stew.cmds.any fun k => k.phase == .fetched && !dormantOpcode k.opcode then y.wakeEvent else y
  else x

def execDormantEntryComplete (c : Fin 8) (s : State) : Res := chipNext c Ctx.dormantEntered s

def Ctx.woken (x : Ctx) : Ctx :=
  if x.chip.boot.waking && (x.chip.boot.pstate == .dormant || x.chip.boot.pstate == .idle) then
    (x.onBoot fun b => { b with pstate := .active, waking := false, dormantEntry := false }).restLink
  else x

def execWakeComplete (c : Fin 8) (s : State) : Res := chipNext c Ctx.woken s

def execNdevasWakeMessage (c : Fin 8) (s : State) : Res := chipNext c Ctx.wakeEvent s

/-- POWER_POLICY with DORMANT_NOW: already Dormant posts 0x0002; Active holds the request; Idle starts the entry. -/
def Ctx.dormantNow (x : Ctx) (k : Cmd) : Ctx :=
  match x.chip.boot.pstate with
  | .dormant => x.done k 2 0 0
  | .active => (x.onBoot fun b => { b with dormantHeld := true }).done k 0 0 0
  | _ => (if x.chip.boot.quiet then x.enterDormant else x).done k 0 0 0

def execDormantNow (c : Fin 8) (id : Nat) (s : State) : Res :=
  chipNext c (fun x => x.run id 0x60 (fun k => k.arg 28 1 % 4 == 1) fun k x => x.dormantNow k) s

end Sys2Proof.Machine
end

