-- ==== Sys2Proof/Machine/Manage.lean ====
section
/-! DEFINITION. The Ndevas's actions, log and management interfaces: hazards over time, isolation, power commands, configuration,
Redfish, PLDM and the programming of the log (15 R379 to R400). -/
namespace Sys2Proof.Machine

/-- Do `f` while Ndevas firmware runs. -/
def ndNext (f : State → State) (s : State) : Res := .next (if s.nd.running then f s else s)

/-! ## Hazards over time (15 R381, R382) -/

/-- A hazard whose condition has been false for 5 s clears; the actions that nothing calls for any longer end. -/
def clearHazard (code ch : Nat) (s : State) : State :=
  let n := s.nd
  match n.hazard? code ch with
  | none => s
  | some h =>
    if h.holds then s
    else
      let hs := n.hazards.filter fun h => !(h.code == code && h.ch == ch)
      let n1 := { n with hazards := hs, closePump := n.closePump && hs.any fun h => h.code == 7 }
      let s1 := s.log { s with nd := Ndevas.refresh n n1 } .none 0x1102 code false (!h.guard) ch
      { s1 with out := s1.out ++ [.platformEvent code false] }

def execHazardClear (hazard : Fin 9) (ch : Nat) (s : State) : Res := ndNext (clearHazard (hazard + 1) ch) s

/-- The chips with rails up, as a mask. -/
def State.upMask (s : State) : Nat := (List.range 8).foldl (fun a i => a + b2n (s.railsUp i) * 2 ^ i) 0

/-- What an escalation of a hazard takes: REDUCE or ISOLATE; none where the table gives none. -/
def escalation (code level : Nat) : Option Bool :=
  match code, level with
  | 1, 0 | 2, 0 | 5, 0 | 3, 1 => some true
  | 3, 0 | 6, 0 => some false
  | _, _ => none

/-- An escalation time of a raised Guard hazard is reached. The table gives no grace for an escalation: it is free. -/
def escalate (code ch : Nat) (s : State) : State :=
  match s.nd.hazard? code ch with
  | none => s
  | some h =>
    match h.guard, escalation code h.level with
    | true, some iso =>
      let s1 := onNd (·.setHazard code ch fun h => { h with level := h.level + 1 }) s
      let s2 := s.log s1 .none 0x1103 code true false ((if iso then 4 else 2) + 256 * s.upMask)
      if iso then { s2 with free := s2.free + 1 }.isolateAll (Config.freeNat s2.free) else s2
    | _, _ => s

def execHazardEscalation (hazard : Fin 9) (ch : Nat) (s : State) : Res := ndNext (escalate (hazard + 1) ch) s

/-- 100 ms after the last chip is Off under LEAK_TRAY: CLOSE and PUMP. -/
def closePumpDelay (s : State) : State :=
  if (s.nd.hazards.any fun h => h.code == 7 && h.guard) && s.upMask == 0 then
    onNd (fun n => n.refresh { n with closePump := true }) s
  else s

def execLeakClosePumpDelay (s : State) : Res := ndNext closePumpDelay s

/-! ## Isolation (15 R384, R385) -/

/-- What the Steward does on the notice: READY 0, dispatched steps and running copies end with 0x0700. -/
def Ctx.noticed (x : Ctx) : Ctx := (x.onBoot fun b => { b with ready := false, isolating := true }).endWork 0x0700

/-- The completions that the notice made due have been accepted by the PCIe port. -/
def Chip.isolationPosted (h : Chip) : Bool :=
  h.boot.isolating && h.stew.held.isEmpty && !h.boot.linkFatal && h.obs.lull != .frozen

/-- The chip receives ISOLATE_NOTICE; it answers ISOLATE_READY once its completions are posted. -/
def isolateNotice (c : Fin 8) (s : State) : State :=
  let p := s.nd.position c
  if p.notice && (s.chips.get c).boot.fwRunning then
    let s1 := onChip c Ctx.noticed s
    let h := s1.chips.get c
    let s2 := onNd (·.setPosition c { p with notice := false }) s1
    if h.isolationPosted then
      { onNd (·.setPosition c { p with notice := false, isoReady := true }) s2 with out := s2.out ++ [.smbus c "ISOLATE_READY" 0] }
    else s2
  else s

def execIsolateNotice (c : Fin 8) (s : State) : Res := .next (isolateNotice c s)

/-- The Ndevas has ISOLATE_READY; a chip that could not post all at the notice sends it once it has. -/
def isolateReady (c : Fin 8) (s : State) : State :=
  let p := s.nd.position c
  match p.iso with
  | some (cause, _) =>
    if p.isoReady then s.isolated s c (isoCode cause) true
    else if (s.chips.get c).isolationPosted then
      s.isolated { s with out := s.out ++ [.smbus c "ISOLATE_READY" 0] } c (isoCode cause) true
    else s
  | none => s

def execIsolateReady (c : Fin 8) (s : State) : Res := ndNext (isolateReady c) s

/-- The grace ends without ISOLATE_READY. -/
def graceExpiry (c : Fin 8) (s : State) : State :=
  match (s.nd.position c).iso with
  | some (cause, _) => s.isolated s c (isoCode cause) false
  | none => s

def execIsolateGraceExpiry (c : Fin 8) (s : State) : Res := ndNext (graceExpiry c) s

/-- A chip has sent no report for 50 ms (15 R399). -/
def chipSilent (c : Fin 8) (s : State) : State :=
  if (s.nd.position c).pwrgd then s.log s .none 0x110B c false false 50 else s

def execChipSilent (c : Fin 8) (s : State) : Res := ndNext (chipSilent c) s

/-! ## Redfish (02 R50, 15 R395, R396) -/

def redfishAnswer (http : Nat) (body : List Nat) (s : State) : State := { s with out := s.out ++ [.redfish http none body] }

/-- A role holds the privileges that another needs. -/
def roleMay : Role → Role → Bool
  | .administrator, _ => true
  | .operator, need => need != .administrator
  | .readOnly, need => need == .readOnly

/-- The resources beside the service root are served: 100 ms after the start, or once a scan has completed. -/
def State.served (s : State) : Bool := s.nd.idsRead || decide (s.nd.startedAt + 100000000 ≤ s.now)

/-- A request on the management port: refused before the listener opens, then 503, then 403 for a role without the privilege. -/
def onRedfish (need role : Role) (f : State → State) (s : State) : State :=
  if !s.nd.standby then s
  else if !s.nd.running then { s with out := s.out ++ [.refusedConnection] }
  else if !s.served then { s with out := s.out ++ [.redfish 503 (some 1) []] }
  else if !roleMay role need then redfishAnswer 403 [] s
  else f s

def redfishNext (need role : Role) (f : State → State) (s : State) : Res := .next (onRedfish need role f s)

/-! ### Power commands (15 R386) -/

/-- PowerOn is refused: a hazard that calls for ISOLATE, a latch of a DRIP_TRAY channel in Guard, the conditions of R45, the
busbar. -/
def powerOnRefused (n : Ndevas) (c : Fin 8) (busbarOk : Bool) : Bool :=
  (n.hazards.any fun h => h.guard && [1, 2, 3, 5, 7].contains h.code) ||
    ((List.range 8).any fun k => (n.leak k).latch && (n.leakCfg k).dripTray && !(n.leakCfg k).watch) ||
    !(n.boardOk && (n.position c).idRow == 0 && coolantOk n) || !busbarOk

/-- PowerOn: true where it is carried out or has nothing to do. -/
def powerOn (c : Fin 8) (busbarOk : Bool) (s : State) : State × Bool :=
  if (s.chips.get c).boot.rails ≠ .down then (s, true)
  else if powerOnRefused s.nd c busbarOk then (s.log s .none 0x1105 c false false 1, false)
  else (startRails c true ((List.range 8).countP s.railsUp + 1) s, true)

def execChassisResetOn (c : Fin 8) (role : Role) (busbarOk : Bool) (s : State) : Res :=
  redfishNext .operator role (fun s =>
    let r := powerOn c busbarOk s
    if r.2 then redfishAnswer 200 [] r.1 else redfishAnswer 409 [386] r.1) s

/-- ForceOff: isolation with a grace of 0. -/
def forceOff (c : Fin 8) (s : State) : State := if (s.chips.get c).boot.rails = .down then s else s.isolateNow c .command

def execChassisResetForceOff (c : Fin 8) (role : Role) (s : State) : Res :=
  redfishNext .operator role (fun s => redfishAnswer 200 [] (forceOff c s)) s

def execChassisResetGracefulShutdown (c : Fin 8) (role : Role) (s : State) : Res :=
  redfishNext .operator role (fun s => redfishAnswer 200 [] (s.startIso c .command 100)) s

def execChassisResetPowerCycle (c : Fin 8) (role : Role) (s : State) : Res :=
  redfishNext .operator role (fun s =>
    redfishAnswer 200 [] (onNd (fun n => n.setPosition c { n.position c with cycle := true }) (forceOff c s))) s

/-- The PowerOn of a PowerCycle, 1 s after its ForceOff. -/
def cycleOn (c : Fin 8) (busbarOk : Bool) (s : State) : State :=
  if (s.nd.position c).cycle then
    (powerOn c busbarOk (onNd (fun n => n.setPosition c { n.position c with cycle := false }) s)).1
  else s

def execPowerCycleOnDelay (c : Fin 8) (busbarOk : Bool) (s : State) : Res := ndNext (cycleOn c busbarOk) s

/-! ### Clear commands and outputs (14 R368, R372; 15 R396) -/

/-- ClearLeak: refused unless the channel has taken the clear region and holds it. -/
def clearLeak (k : Nat) (s : State) : State :=
  let n := s.nd
  let l := n.leak k
  if l.taken = some .clear ∧ l.region = .clear then
    if l.latch then
      let l1 := { l with latch := false, state := if l.state = .chatter then .chatter else .clear }
      let w := (n.leakCfg k).watch
      let s1 := s.log { s with nd := n.setLeak k l1 } (.leak k) 0x1007 k false w 0
      redfishAnswer 200 [] (evalHazards s (s.log s1 .none 0x1109 k false w 1) (leakHazards k))
    else redfishAnswer 200 [] s
  else redfishAnswer 409 [368] s

def execClearLeak (k : Fin 8) (role : Role) (s : State) : Res := redfishNext .operator role (clearLeak k) s

/-- ClearCrossfed: CROSSFED outputs go to OFF; an action in force then drives its own. -/
def clearCrossfed (outs : List (Fin 4)) (s : State) : State :=
  redfishAnswer 200 [] (outs.foldl (fun (t : State) (k : Fin 4) =>
    let o := t.nd.output k
    if o.state = .crossfed then
      let n1 := t.nd.setOut k { o with state := .off }
      let n2 := match n1.drive k with | some b => n1.switch k b | none => n1
      s.log { t with nd := n2 } (.output k) 0x1109 k false false 2
    else t) s)

def execClearCrossfed (outs : List (Fin 4)) (role : Role) (s : State) : Res := redfishNext .operator role (clearCrossfed outs) s

/-- SetOutput: refused while an action drives the output the other way, or while BACKFED or CROSSFED holds it off. -/
def setOutput (k : Nat) (on : Bool) (s : State) : State :=
  let n := s.nd
  let o := n.output k
  if n.drive k = some (!on) then redfishAnswer 409 [396] s
  else if on && (o.state == .backfed || o.state == .crossfed) then redfishAnswer 409 [371] s
  else redfishAnswer 200 [] { s with nd := (n.setOut k { o with cmd := on }).switch k on }

def execSetOutput (k : Fin 4) (on : Bool) (role : Role) (s : State) : Res := redfishNext .operator role (setOutput k on) s

/-! ### Configuration (15 R388, R389; 14 R359, R363, R373, R374) -/

/-- A write keeps the range of its parameter. The tray cap is checked at the commit. -/
def patchOk : Patch → Bool
  | .aiRole _ r => decide (r.toNat ≤ 7)
  | .aiSpan _ lo hi => !eq32 lo hi
  | .aiVtMin _ mv => decide (6000 ≤ mv ∧ mv ≤ 24000)
  | .aiRWire _ r => decide (r ≤ 500)
  | .aiLimits _ _ _ => true
  | .aiMode _ _ => true
  | .lkType _ t => decide (t.toNat ≤ 2)
  | .lkRole _ r => decide (r.toNat ≤ 1)
  | .lkMode _ _ => true
  | .outRole _ r => decide (r.toNat ≤ 4)
  | .outPowerUp _ _ => true
  | .fuseLimit _ a => decide (20 ≤ a ∧ a ≤ 42)
  | .trayCap _ => true

/-- Change entry `k` of a list. -/
def setAt {α : Type} (l : List α) (k : Nat) (f : α → α) : List α := l.mapIdx fun i a => if i = k then f a else a

def applyPatch (g : NdCfg) : Patch → NdCfg
  | .aiRole k r => { g with loops := setAt g.loops k fun c => { c with role := r.toNat } }
  | .aiSpan k lo hi => { g with loops := setAt g.loops k fun c => { c with spanLo := lo, spanHi := hi } }
  | .aiVtMin k mv => { g with loops := setAt g.loops k fun c => { c with vtMin := mv } }
  | .aiRWire k r => { g with loops := setAt g.loops k fun c => { c with rWire := r } }
  | .aiLimits k lo hi => { g with loops := setAt g.loops k fun c => { c with limitLo := lo, limitHi := hi } }
  | .aiMode k w => { g with loops := setAt g.loops k fun c => { c with watch := w } }
  | .lkType k t => { g with leaks := setAt g.leaks k fun c => { c with type := t.toNat } }
  | .lkRole k r => { g with leaks := setAt g.leaks k fun c => { c with dripTray := r.toNat == 1 } }
  | .lkMode k w => { g with leaks := setAt g.leaks k fun c => { c with watch := w } }
  | .outRole k r => { g with outRoles := setAt g.outRoles k fun _ => r.toNat }
  | .outPowerUp k on => { g with outUp := setAt g.outUp k fun _ => on }
  | .fuseLimit n a => { g with fuses := setAt g.fuses n fun _ => a }
  | .trayCap w => { g with trayCap := w }

/-- A PATCH of the shadow set: refused whole where its If-Match does not name the set's ETag, which is SHADOW_GEN, or a write
breaks a range (R388, R395). -/
def shadowPatch (p : PatchReq) (s : State) : State :=
  if p.ifMatch.any fun g => g != s.nd.shadowGen then redfishAnswer 412 [] s
  else if p.writes.all patchOk then
    let n := s.nd
    redfishAnswer 200 [(n.shadowGen + 1).toNat]
      { s with nd := { n with shadow := p.writes.foldl applyPatch n.shadow, shadowGen := n.shadowGen + 1 } }
  else redfishAnswer 400 [388] s

def execNdevasShadowPatch (patch : PatchReq) (role : Role) (s : State) : Res :=
  redfishNext .administrator role (shadowPatch patch) s

/-- The first commit check that fails, and its item (15 R388). -/
def commitFail (g : NdCfg) (limits : List Nat) : Option (Nat × Nat) :=
  let first := fun (check n : Nat) (bad : Nat → Bool) => ((List.range n).find? bad).map fun i => (check, i)
  let role := fun k => (g.loops.getD k (LoopCfg.initial 0)).role
  [first 1 16 fun k =>
      let c := g.loops.getD k (LoopCfg.initial 0)
      c.role != 0 && (eq32 c.spanLo c.spanHi || !lt32 c.limitLo c.limitHi),
   first 2 8 fun n => decide (limits.getD n 0 < g.fuses.getD n 42),
   first 3 4 fun k => (g.outRoles.getD k 0 == 3) != g.outUp.getD k false,
   ([1, 3].find? fun r => !((List.range 16).any fun k => role k == r)).map fun r => (4, r),
   if g.trayCap < 5720 ∨ 13320 < g.trayCap then some (5, 0) else none].findSome? id

/-- The commit of the Ndevas set. Channels take their parameters at their next slice or sample; output roles act at once (R389). -/
def ndCommit (expected : Word32) (s : State) : State :=
  let n := s.nd
  if expected ≠ n.shadowGen then redfishAnswer 412 [] s
  else match commitFail n.shadow n.limits with
    | some (check, item) => redfishAnswer 409 [check, item] s
    | none =>
      let n1 := { n with active := n.shadow, shadow := n.active, activeGen := n.activeGen + 1, shadowGen := n.shadowGen + 1 }
      redfishAnswer 200 [] (s.log { s with nd := Ndevas.refresh n n1 } .none 0x1108 0xFF false false n1.activeGen.toNat)

def execNdevasCommit (expected : Word32) (role : Role) (s : State) : Res := redfishNext .administrator role (ndCommit expected) s

/-! ### Images (15 R396) -/

/-- An image waits for the next restart, or for the next power-on of each chip. -/
def storeImage (kind : ImageKind) (image : Nat) (s : State) : State :=
  onNd (fun n =>
    match kind with
    | .ndevas => { n with image := some image }
    | .steward => (List.range 8).foldl (fun n i => n.setPosition i { n.position i with image := some image }) n) s

def pushImage (kind : ImageKind) (image : Nat) (s : State) : State := redfishAnswer 200 [] (storeImage kind image s)

def execUpdatePush (kind : ImageKind) (image : Nat) (role : Role) (s : State) : Res :=
  redfishNext .administrator role (pushImage kind image) s

/-! ## Records and their programming (15 R390 to R393, R397) -/

/-- CRC-8, polynomial 0x07, initial value 0x00. -/
def crc8 (bs : Bytes) : Byte :=
  bs.foldl (fun c b => (List.range 8).foldl (fun c _ => if c.getLsbD 7 then (c <<< 1) ^^^ 0x07 else c <<< 1) (c ^^^ b)) 0

/-- The body of a record, bytes 0 to 41. -/
def LogRec.body (r : LogRec) : Bytes :=
  toLE 4 r.seq ++ toLE 6 r.time ++ toLE 2 r.kind ++ toLE 1 r.source ++ toLE 1 r.flags ++ toLE 2 (min r.count 0xFFFF) ++
    toLE 8 r.detail ++ fit 18 r.before

/-- The 64 B of a record in flash; an absent after part reads 0xFF. -/
def LogRec.bytes (r : LogRec) : Bytes :=
  match r.after with
  | some a => r.body ++ fit 18 a ++ [crc8 r.body, crc8 (fit 18 a), 0x5A, 0x5A]
  | none => r.body ++ List.replicate 18 0xFF ++ [crc8 r.body, 0xFF, 0x5A, 0xFF]

/-- What the snapshots of a programmed record look at. -/
def srcOf (kind source : Nat) : LogSrc :=
  if 0x1001 ≤ kind ∧ kind ≤ 0x1005 then .loop source
  else if 0x1006 ≤ kind ∧ kind ≤ 0x100A then .leak source
  else if 0x100B ≤ kind ∧ kind ≤ 0x100E then .output source
  else if kind = 0x100F then .fuse source
  else .none

/-- A record enters the flash ring of 128 sectors of 1,024; the sector ahead is erased as one fills. -/
def pushRecord (r : LogRec) (l : List LogRec) : List LogRec :=
  let l := l ++ [r]
  if l.length < 131072 then l else l.drop 1024

/-- The record at the head of the RAM queue is programmed; the coalesced record when it comes to the head. -/
def programRecord (s : State) : State :=
  let n := s.nd
  match n.queue with
  | r :: l => { s with nd := { n with queue := l, flash := pushRecord r n.flash, toSend := n.toSend ++ [r.seq] } }
  | [] =>
    match n.coalesced with
    | none => s
    | some (t0, t1, c, codes) =>
      let b := fit 36 ((codes.take 18).flatMap (toLE 2))
      let r : LogRec := ⟨n.seq.toNat, t0, 0x1F01, 0xFF, b2n n.clock.isNone + 8 * b2n (decide (18 < codes.length)), c, t1 % 2 ^ 48,
        b.take 18, some (b.drop 18), false⟩
      { s with nd := { n with coalesced := none, seq := n.seq + 1, flash := pushRecord r n.flash, toSend := n.toSend ++ [r.seq] } }

def execLogRecordProgram (s : State) : Res := ndNext programRecord s

/-- The after part of record `seq` is programmed at its moment. -/
def programAfter (seq : Nat) (s : State) : State :=
  { s with
    free := s.free + 1
    nd := { s.nd with flash := s.nd.flash.map fun r =>
      if r.seq = seq ∧ r.due = true then { r with after := some (snapshot s (srcOf r.kind r.source)), due := false } else r } }

def execLogAfterPartProgram (seq : Word32) (s : State) : Res := ndNext (programAfter seq.toNat) s

/-- One Redfish event for the oldest record not sent, to each subscriber; 16 refusals in a row suspend one. -/
def sendEvent (accepted : List Nat) (s : State) : State :=
  match s.nd.toSend with
  | [] => s
  | seq :: l =>
    { s with
      nd := { s.nd with toSend := l, subs := s.nd.subs.map fun u =>
        if u.2 < 16 then (u.1, if accepted.contains u.1 then 0 else u.2 + 1) else u }
      out := s.out ++ (s.nd.subs.filter fun u => decide (u.2 < 16)).map fun u => .redfishEvent u.1 seq }

def execRedfishEventSend (accepted : List Nat) (s : State) : Res := ndNext (sendEvent accepted) s

/-! ## Resources (15 R395) -/

def loopCode : LoopState → Nat
  | .unused => 0
  | .starting => 1
  | .normal => 2
  | .fault => 3
  | .disconnected => 4

def outCode : OutState → Nat
  | .off => 0
  | .on => 1
  | .overload => 2
  | .backfed => 3
  | .crossfed => 4

/-- Status.State of a chip: 0 Disabled, 1 Starting, 2 Enabled (02 R49, R50; 15 R384). -/
def chipState (s : State) (i : Fin 8) : Nat :=
  let b := (s.chips.get i).boot
  if (s.nd.position i).idRow ≠ 0 then 0 else if b.ready then 2 else if b.rails = .down ∧ (s.nd.position i).cause ≠ 0 then 0 else 1

/-- Status.Health of a chip: 0 OK, 1 Warning, 2 Critical (02 R49, 16 R401). -/
def chipHealth (s : State) (i : Fin 8) : Nat :=
  if (s.chips.get i).boot.stuck then 2 else match (s.nd.position i).idRow with | 2 => 2 | 3 => 1 | _ => 0

/-- The actions in force: HOLD, REDUCE, an isolation, CLOSE and PUMP, ALARM. -/
def actionMask (n : Ndevas) : Nat :=
  b2n n.holding + 2 * b2n n.reducing + 4 * b2n ((List.range 8).any fun i => (n.position i).iso.isSome) + 8 * b2n n.closePump +
    16 * b2n n.closePump + 32 * b2n n.alarm

def cfgBody (g : NdCfg) (gen : Word32) : List Nat :=
  gen.toNat :: g.trayCap :: g.fuses ++ g.outRoles ++ g.outUp.map b2n ++
    (g.leaks.flatMap fun c => [c.type, b2n c.dripTray, b2n c.watch]) ++
    g.loops.flatMap fun c =>
      [c.role, c.spanLo.toNat, c.spanHi.toNat, c.vtMin, c.rWire, c.limitLo.toNat, c.limitHi.toNat, b2n c.watch]

/-- What a resource holds, as numbers; none where it does not exist. A measurement that no command carries is a free value. -/
def resourceBody (s : State) : Resource → Option (List Nat)
  | .serviceRoot => some [1, Config.enterpriseNumber]
  | .tray => some ([b2n s.nd.variantU, if s.nd.boardOk then 0 else 2, actionMask s.nd] ++
      s.nd.hazards.flatMap fun h => [h.code, h.ch, b2n h.guard])
  | .sensorAi k =>
    let l := s.nd.loop k
    some [l.last.quality, b2n l.last.capped, ((s.nd.loopCfg k).value32 l.last).toNat, loopCode l.state, l.retries, b2n l.lowHead]
  | .sensorLk k => let l := s.nd.leak k; some [leakCode l.state, b2n l.latch, (rs32 l.code).toNat]
  | .sensorDo k => let o := s.nd.output k; some [outCode o.state, b2n o.cmd, o.sample.mv, o.sample.ma, b2n o.openLoad]
  | .sensorEf n =>
    let p := s.nd.position n
    some (b2n p.fuse :: match p.samples.getLast? with | some v => [v.ma, v.mv] | none => [])
  | .sensorFs => some [s.nd.fieldMv, b2n s.nd.fieldBad]
  | .powerSubsystem => some (Config.freeNat s.free :: (List.range 8).flatMap fun i =>
      let p := s.nd.position i
      [p.a, p.p, match p.report with | some r => r.input | none => 0])
  | .chip n => some <| [b2n ((s.chips.get n).boot.rails != .down), chipState s n, chipHealth s n, (s.nd.position n).cause] ++
      match (s.nd.position n).stepping with | some v => [v.toNat] | none => []
  | .cable n => some [if (s.nd.position n).cableOk then 0 else 1]
  | .assembly => some (s.nd.fru.flatMap fun e => e.1 :: e.2.map BitVec.toNat)
  | .manager => some [Config.freeNat s.free, s.logTime, b2n s.nd.clock.isSome]
  | .eventLog => some (s.nd.flash.flatMap fun r => r.seq :: r.bytes.map BitVec.toNat)
  | .updateService => some []
  | .configActive => some (cfgBody s.nd.active s.nd.activeGen)
  | .configShadow => some (cfgBody s.nd.shadow s.nd.shadowGen)
  | .module n => s.nd.modules[n]?.map fun m =>
    [if m.healthy then 0 else 1, if m.state = .ready then 1 else 0, b2n m.dataPath] ++ m.lower.map BitVec.toNat ++
      m.pages.flatMap fun e => e.1 :: e.2.map BitVec.toNat

/-- Serve a request that has no row of its own. -/
def serve (req : RedfishReq) (s : State) : State :=
  match req with
  | .get r => match resourceBody s r with
    | some b => redfishAnswer 200 b { s with free := s.free + 2 }
    | none => redfishAnswer 404 [] s
  | .subscribe id => redfishAnswer 200 [] (onNd (fun n => { n with subs := (n.subs.filter fun u => u.1 != id) ++ [(id, 0)] }) s)
  | .unsubscribe id => redfishAnswer 200 [] (onNd (fun n => { n with subs := n.subs.filter fun u => u.1 != id }) s)
  | .setClock ms _ => redfishAnswer 200 [] (onNd (fun n => { n with clock := some (ms - s.ndMs) }) s)
  | .unsupported => redfishAnswer 501 [] s

/-- The service root is served from the moment the listener is open. -/
def redfishRequest (req : RedfishReq) (s : State) : State :=
  match req with
  | .get .serviceRoot =>
    if !s.nd.standby then s
    else if !s.nd.running then { s with out := s.out ++ [.refusedConnection] }
    else serve req s
  | .setClock _ role => onRedfish .administrator role (serve req) s
  | _ => onRedfish .readOnly .readOnly (serve req) s

def execRedfishRequest (req : RedfishReq) (s : State) : Res := .next (redfishRequest req s)

/-! ## PLDM (15 R398) -/

/-- The sensors of the Redfish sensor table, in its order: AI0 to AI15, LK0 to LK7, DO0 to DO3, EF0 to EF7, the field supply. -/
def sensorOf (n : Nat) : Option Resource :=
  if h : n < 16 then some (.sensorAi ⟨n, h⟩)
  else if h : n - 16 < 8 then some (.sensorLk ⟨n - 16, h⟩)
  else if h : n - 24 < 4 then some (.sensorDo ⟨n - 24, h⟩)
  else if h : n - 28 < 8 then some (.sensorEf ⟨n - 28, h⟩)
  else if n = 36 then some .sensorFs
  else none

/-- Chip `c` is isolated: the Ndevas answers for it from its own records. -/
def State.isolatedChip (s : State) (c : Fin 8) : Bool := (s.chips.get c).boot.rails == .down && (s.nd.position c).cause != 0

/-- A request on the segment of chip `c`: not ready before the chip's firmware runs. A reading begins with the operational state,
disabled (1) for the sensor of an isolated chip. -/
def pldm (c : Fin 8) (req : PldmReq) (s : State) : State :=
  let give := fun (t : State) (code : Nat) (body : List Nat) => ({ t with free := t.free + 2, out := t.out ++ [.pldm c code body] } : State)
  let answer := give s
  let off := s.isolatedChip c
  if !(s.chips.get c).boot.fwRunning && !off then answer 4 []
  else match req with
    | .sensorReading n => match (sensorOf n).bind (resourceBody s) with
      | some b => answer 0 (b2n (off && n == 28 + c.val) :: b)
      | none => answer 0x80 []
    | .getPdr => answer 0 [37]
    | .fruData => answer 0 ((resourceBody s .assembly).getD [])
    | .firmwareUpdate kind image => give (storeImage kind image s) 0 []
    | .unsupported => answer 5 []

def execPldmRequest (c : Fin 8) (req : PldmReq) (s : State) : Res := ndNext (pldm c req) s

end Sys2Proof.Machine
end

