-- ==== Sys2Proof/Machine/Tick.lean ====
section
/-! DEFINITION. What time alone does while no command waits: one nanosecond of the clocks, the counters of time, and the work that
the chip does at moments of its own (10 R266, 12 R310 to R316, R329, 13 R335, R340, 04 R127, 08 R211, R212). -/
namespace Sys2Proof.Machine

/-- The counters of nanoseconds (12 R329, 13 R335). -/
def Ctx.nsCounts (x : Ctx) : Ctx :=
  let p := x.chip.power
  let below := fun d => x.active && !x.lockstep && decide (x.mhz d < x.target) && !x.dieHeld d
  x.counts ([(0x0A, 0, 11, b2n x.asleep), (0x0A, 0, 5, b2n p.gust.isSome)] ++
    ((List.range 4).flatMap fun d => [(0x0B, d, 1, b2n (below d)), (0x0B, d, 3, b2n (x.die d).stretched)]) ++
    (List.range 14).map fun g => (0x0D, g, 0, b2n (p.throttled.contains g)))

/-- The array cycles of a nanosecond: none while the array clocks are gated or the chip is frozen; a droop stretch and the fast
limit each double the period (01 R41, 12 R309, R313, R314). -/
def Ctx.arrayClocks (x : Ctx) : Ctx :=
  if !x.active || x.frozen then x
  else
    let rate := fun d => 4 * x.mhz d / (if (x.die d).stretched then 2 else 1) / (if x.chip.power.fastLimit then 2 else 1)
    x.onLedger fun l => { l with clocks := (List.range 4).foldl (fun t d => tupd 0 t d (· + rate d)) l.clocks }

/-- Add an error address that is not there yet. -/
def addOnce (a : Nat) (l : List Nat) : List Nat := if l.contains a then l else a :: l

/-- A soft error enters a memory; nobody has found it yet. -/
def Ctx.takeUpset (x : Ctx) (u : Config.Upset) : Ctx :=
  match u with
  | .sramOne d w => x.setStore (.sram d) { x.store (.sram d) with ce := addOnce (w % (sramSize / 8) * 8) (x.store (.sram d)).ce }
  | .sramTwo d w => x.setStore (.sram d) { x.store (.sram d) with ue := addOnce (w % (sramSize / 8) * 8) (x.store (.sram d)).ue }
  | .hbmOne g => x.setStore .hbm { x.store .hbm with ce := addOnce (g % (hbmSize / 64) * 64) (x.store .hbm).ce }
  | .hbmMore g => x.setStore .hbm { x.store .hbm with ue := addOnce (g % (hbmSize / 64) * 64) (x.store .hbm).ue }
  | .hbmOnDie g => x.setStore .hbm { x.store .hbm with onDie := addOnce (g % (hbmSize / 64) * 64) (x.store .hbm).onDie }
  | .systemOne k g => x.setStore .system { x.store .system with ce := addOnce (systemAddr k g) (x.store .system).ce }
  | .systemMore k g => x.setStore .system { x.store .system with ue := addOnce (systemAddr k g) (x.store .system).ue }
  | .weight k i u => x.setComb k ((x.comb k).weightError i u)
  | .accumulator k n u => x.setComb k ((x.comb k).accumulatorError n u)
  | .systemOnDie k g => x.setStore .system { x.store .system with onDie := addOnce (systemAddr k g) (x.store .system).onDie }

/-- The nanosecond's soft error, if any. -/
def Ctx.maybeUpset (x : Ctx) : Ctx :=
  match Config.upset x.free with
  | none => x.bump
  | some u => x.bump.takeUpset u

/-- The boot ROM hands over to the firmware load at a moment of its own; a reset that keeps the firmware and the HBM training
goes on to zeroing (02 R52, R54). -/
def Ctx.bootRom (x : Ctx) : Ctx :=
  let b := x.chip.boot
  if b.pstate = .resetting ∧ b.bootStage.toNat < 3 ∧ b.fwRunning = true ∧ b.hbmTrained = true ∧ b.zeroed = false then
    x.onBoot fun b => { b with bootStage := 3 }
  else if (b.pstate = .booting ∨ b.pstate = .resetting) ∧ b.bootStage = 0 ∧ b.fwRunning = false ∧ Config.freeNat x.free % 2 = 1 then
    x.bump.onBoot fun b => { b with bootStage := 1 }
  else x.bump

/-- In a rail sequence the next rail group may be enabled in this nanosecond (02 R46). -/
def Ctx.railTick (x : Ctx) : Ctx :=
  if x.chip.boot.rails = .sequencing then (if Config.freeNat x.free % 2 = 1 then x.bump.railStep else x.bump) else x

/-- One nanosecond of a chip whose rails are up, or coming up. -/
def Ctx.tick (x : Ctx) : Ctx :=
  if x.chip.boot.rails ≠ .up then x.railTick
  else
    let x := x.onFab fun f => { f with time := f.time + 1 }
    (x.nsCounts.arrayClocks.bootRom.maybeUpset.settleConflicts).traceCycle.drainRecords.settleLoads

/-- One nanosecond of the tray. -/
def tick (s : State) : State := (List.finRange 8).foldl (fun s c => onChip c Ctx.tick s) { s with now := s.now + 1 }

end Sys2Proof.Machine
end

