-- ==== Sys2Proof/Machine/Dispatch.lean ====
section
/-! DEFINITION. The meaning of each command: one arm per constructor, one direct call each. -/
namespace Sys2Proof.Machine

def exec (i : Instr) (s : State) : Host.Outcome State Fault Refusal :=
  match i with
  | .standbyRailGood => Sys2Proof.Machine.execStandbyRailGood s
  | .ndevasFirmwareRunning ids => Sys2Proof.Machine.execNdevasFirmwareRunning ids s
  | .coolantCheckScan => Sys2Proof.Machine.execCoolantCheckScan s
  | .railSequenceStart c => Sys2Proof.Machine.execRailSequenceStart c s
  | .powerGood c => Sys2Proof.Machine.execPowerGood c s
  | .railFault c rail => Sys2Proof.Machine.execRailFault c rail s
  | .perstDeassert c => Sys2Proof.Machine.execPerstDeassert c s
  | .perstAssert c => Sys2Proof.Machine.execPerstAssert c s
  | .pcieLinkL0 c => Sys2Proof.Machine.execPcieLinkL0 c s
  | .firmwareLoadComplete c version build ifMinor => Sys2Proof.Machine.execFirmwareLoadComplete c version build ifMinor s
  | .firmwareLoadFail c => Sys2Proof.Machine.execFirmwareLoadFail c s
  | .hbmTrainingComplete c => Sys2Proof.Machine.execHbmTrainingComplete c s
  | .zeroingComplete c => Sys2Proof.Machine.execZeroingComplete c s
  | .flr c => Sys2Proof.Machine.execFlr c s
  | .stewardWatchdogExpiry c code => Sys2Proof.Machine.execStewardWatchdogExpiry c code s
  | .ndevasChipReset c => Sys2Proof.Machine.execNdevasChipReset c s
  | .resetComplete c => Sys2Proof.Machine.execResetComplete c s
  | .ndevasRestart cause => Sys2Proof.Machine.execNdevasRestart cause s
  | .standbyPowerLoss => Sys2Proof.Machine.execStandbyPowerLoss s
  | .idleTimeout c => Sys2Proof.Machine.execIdleTimeout c s
  | .dormantDelayExpiry c => Sys2Proof.Machine.execDormantDelayExpiry c s
  | .dormantEntryComplete c => Sys2Proof.Machine.execDormantEntryComplete c s
  | .wakeComplete c => Sys2Proof.Machine.execWakeComplete c s
  | .sqTailDoorbellWrite c q v opcodes => Sys2Proof.Machine.execSqTailDoorbellWrite c q v opcodes s
  | .cqHeadDoorbellWrite c q v => Sys2Proof.Machine.execCqHeadDoorbellWrite c q v s
  | .qp0ControlWrite c v => Sys2Proof.Machine.execQp0ControlWrite c v s
  | .qp0EnablingComplete c => Sys2Proof.Machine.execQp0EnablingComplete c s
  | .qp0DisablingComplete c => Sys2Proof.Machine.execQp0DisablingComplete c s
  | .earlyDoorbellsRead c => Sys2Proof.Machine.execEarlyDoorbellsRead c s
  | .badDoorbellsRead c => Sys2Proof.Machine.execBadDoorbellsRead c s
  | .registerWrite c off v => Sys2Proof.Machine.execRegisterWrite c off v s
  | .bar0NonalignedAccess c write off len => Sys2Proof.Machine.execBar0NonalignedAccess c write off len s
  | .bar2Read c off len => Sys2Proof.Machine.execBar2Read c off len s
  | .bar2Write c off data => Sys2Proof.Machine.execBar2Write c off data s
  | .msixVectorUnmask c what => Sys2Proof.Machine.execMsixVectorUnmask c what s
  | .irqTimeExpiry c q => Sys2Proof.Machine.execIrqTimeExpiry c q s
  | .submissionFetch c q entry => Sys2Proof.Machine.execSubmissionFetch c q entry s
  | .submissionReadError c q => Sys2Proof.Machine.execSubmissionReadError c q s
  | .argumentReadError c id => Sys2Proof.Machine.execArgumentReadError c id s
  | .hostReadTimeout c what => Sys2Proof.Machine.execHostReadTimeout c what s
  | .identify c id => Sys2Proof.Machine.execIdentify c id s
  | .queueCreate c id => Sys2Proof.Machine.execQueueCreate c id s
  | .queueDelete c id => Sys2Proof.Machine.execQueueDelete c id s
  | .superConfig c id data => Sys2Proof.Machine.execSuperConfig c id data s
  | .configWriteShadow c id data => Sys2Proof.Machine.execConfigWriteShadow c id data s
  | .configCommit c id => Sys2Proof.Machine.execConfigCommit c id s
  | .configSectionExchange c sect => Sys2Proof.Machine.execConfigSectionExchange c sect s
  | .streamOpen c id => Sys2Proof.Machine.execStreamOpen c id s
  | .streamClose c id => Sys2Proof.Machine.execStreamClose c id s
  | .streamCloseFree c id => Sys2Proof.Machine.execStreamCloseFree c id s
  | .streamCancel c id => Sys2Proof.Machine.execStreamCancel c id s
  | .frameMapFresh c id => Sys2Proof.Machine.execFrameMapFresh c id s
  | .frameMapShare c id => Sys2Proof.Machine.execFrameMapShare c id s
  | .frameRelease c id => Sys2Proof.Machine.execFrameRelease c id s
  | .stepSubmit c id plan => Sys2Proof.Machine.execStepSubmit c id plan s
  | .stepVerify c id data => Sys2Proof.Machine.execStepVerify c id data s
  | .modelLoad c id manifest src => Sys2Proof.Machine.execModelLoad c id manifest src s
  | .modelUnload c id => Sys2Proof.Machine.execModelUnload c id s
  | .swapBegin c id => Sys2Proof.Machine.execSwapBegin c id s
  | .swapLayer c id data src => Sys2Proof.Machine.execSwapLayer c id data src s
  | .swapEnd c id => Sys2Proof.Machine.execSwapEnd c id s
  | .swapEndAbandon c id => Sys2Proof.Machine.execSwapEndAbandon c id s
  | .foragerCopy c id data => Sys2Proof.Machine.execForagerCopy c id data s
  | .powerPolicyWrite c id data => Sys2Proof.Machine.execPowerPolicyWrite c id data s
  | .dormantNow c id => Sys2Proof.Machine.execDormantNow c id s
  | .powerCalibrate c id => Sys2Proof.Machine.execPowerCalibrate c id s
  | .quietWindowStart c => Sys2Proof.Machine.execQuietWindowStart c s
  | .quietWindowEnd c way => Sys2Proof.Machine.execQuietWindowEnd c way s
  | .calibrateDrainTimeout c => Sys2Proof.Machine.execCalibrateDrainTimeout c s
  | .counterSelectWrite c id data => Sys2Proof.Machine.execCounterSelectWrite c id data s
  | .counterSelectRead c id => Sys2Proof.Machine.execCounterSelectRead c id s
  | .lullArm c id data => Sys2Proof.Machine.execLullArm c id data s
  | .traceConfig c id => Sys2Proof.Machine.execTraceConfig c id s
  | .fabricRouteSet c id data => Sys2Proof.Machine.execFabricRouteSet c id data s
  | .linkStateQuery c id => Sys2Proof.Machine.execLinkStateQuery c id s
  | .linkStateEnable c id => Sys2Proof.Machine.execLinkStateEnable c id s
  | .linkStateDisable c id => Sys2Proof.Machine.execLinkStateDisable c id s
  | .linkStateReadmit c id => Sys2Proof.Machine.execLinkStateReadmit c id s
  | .linkStateRetrain c id => Sys2Proof.Machine.execLinkStateRetrain c id s
  | .linkStateDrizzleAllow c id => Sys2Proof.Machine.execLinkStateDrizzleAllow c id s
  | .linkStateDrizzleRefuse c id => Sys2Proof.Machine.execLinkStateDrizzleRefuse c id s
  | .microprogramLoad c id data => Sys2Proof.Machine.execMicroprogramLoad c id data s
  | .microprogramClear c id => Sys2Proof.Machine.execMicroprogramClear c id s
  | .healthQueryRead c id => Sys2Proof.Machine.execHealthQueryRead c id s
  | .healthQueryReadAndClear c id => Sys2Proof.Machine.execHealthQueryReadAndClear c id s
  | .stepPlanReady c id tokens => Sys2Proof.Machine.execStepPlanReady c id tokens s
  | .stepDispatch c id => Sys2Proof.Machine.execStepDispatch c id s
  | .stepUnitEntry c id unit ops copies => Sys2Proof.Machine.execStepUnitEntry c id unit ops copies s
  | .stepCommit c id staged => Sys2Proof.Machine.execStepCommit c id staged s
  | .stepVerifyCommit c id => Sys2Proof.Machine.execStepVerifyCommit c id s
  | .stepErrorEnd c id err => Sys2Proof.Machine.execStepErrorEnd c id err s
  | .stepHoldLimitExpiry c id => Sys2Proof.Machine.execStepHoldLimitExpiry c id s
  | .stepStall c id remote => Sys2Proof.Machine.execStepStall c id remote s
  | .descriptorSequencerRelease c die k w => Sys2Proof.Machine.execDescriptorSequencerRelease c die k w s
  | .fill c k f => Sys2Proof.Machine.execFill c k f s
  | .stream c k f => Sys2Proof.Machine.execStream c k f s
  | .tileLoadStart c k => Sys2Proof.Machine.execTileLoadStart c k s
  | .tileLoadComplete c k => Sys2Proof.Machine.execTileLoadComplete c k s
  | .groupDrainComplete c k => Sys2Proof.Machine.execGroupDrainComplete c k s
  | .holdSlotRelease c k held => Sys2Proof.Machine.execHoldSlotRelease c k held s
  | .sfuMap c k => Sys2Proof.Machine.execSfuMap c k s
  | .softmax c k => Sys2Proof.Machine.execSoftmax c k s
  | .rmsnorm c k => Sys2Proof.Machine.execRmsnorm c k s
  | .layernorm c k => Sys2Proof.Machine.execLayernorm c k s
  | .selection c k => Sys2Proof.Machine.execSelection c k s
  | .sfuTileGrant c die => Sys2Proof.Machine.execSfuTileGrant c die s
  | .sfuTileComplete c die waited => Sys2Proof.Machine.execSfuTileComplete c die waited s
  | .selectionRowComplete c die => Sys2Proof.Machine.execSelectionRowComplete c die s
  | .sfuEnd c die lane strict w => Sys2Proof.Machine.execSfuEnd c die lane strict w s
  | .rrExp c die lane strict w => Sys2Proof.Machine.execRrExp c die lane strict w s
  | .rrLog c die lane strict w => Sys2Proof.Machine.execRrLog c die lane strict w s
  | .rrTrig c die lane strict w => Sys2Proof.Machine.execRrTrig c die lane strict w s
  | .lookup c die lane strict w => Sys2Proof.Machine.execLookup c die lane strict w s
  | .qinterp c die lane strict w => Sys2Proof.Machine.execQinterp c die lane strict w s
  | .fma c die lane strict w => Sys2Proof.Machine.execFma c die lane strict w s
  | .rcpSeed c die lane strict w => Sys2Proof.Machine.execRcpSeed c die lane strict w s
  | .rsqSeed c die lane strict w => Sys2Proof.Machine.execRsqSeed c die lane strict w s
  | .nrRcp c die lane strict w => Sys2Proof.Machine.execNrRcp c die lane strict w s
  | .nrRsq c die lane strict w => Sys2Proof.Machine.execNrRsq c die lane strict w s
  | .scale2 c die lane strict w => Sys2Proof.Machine.execScale2 c die lane strict w s
  | .cmpSel c die lane strict w => Sys2Proof.Machine.execCmpSel c die lane strict w s
  | .expdiff c die lane strict w => Sys2Proof.Machine.execExpdiff c die lane strict w s
  | .copyDescriptor c f host bad => Sys2Proof.Machine.execCopyDescriptor c f host bad s
  | .copyDescriptorComplete c f => Sys2Proof.Machine.execCopyDescriptorComplete c f s
  | .scrubRead c w => Sys2Proof.Machine.execScrubRead c w s
  | .eccWriteBack c w => Sys2Proof.Machine.execEccWriteBack c w s
  | .loadSegmentReceive c p => Sys2Proof.Machine.execLoadSegmentReceive c p s
  | .loadTimeout c id => Sys2Proof.Machine.execLoadTimeout c id s
  | .childTimeout c id child => Sys2Proof.Machine.execChildTimeout c id child s
  | .swapBeginTakeEffect c id => Sys2Proof.Machine.execSwapBeginTakeEffect c id s
  | .swapWriteStart c m => Sys2Proof.Machine.execSwapWriteStart c m s
  | .swapWriteComplete c m => Sys2Proof.Machine.execSwapWriteComplete c m s
  | .swapWriteFail c m err seg off => Sys2Proof.Machine.execSwapWriteFail c m err seg off s
  | .flitReceive c p flit uncorrectable corrected stamp => Sys2Proof.Machine.execFlitReceive c p flit uncorrectable corrected stamp s
  | .replayTimeout c p => Sys2Proof.Machine.execReplayTimeout c p s
  | .ackTimer c p => Sys2Proof.Machine.execAckTimer c p s
  | .creditReturn c p vc => Sys2Proof.Machine.execCreditReturn c p vc s
  | .writeReceive c p vc => Sys2Proof.Machine.execWriteReceive c p vc s
  | .writeRespReceive c p => Sys2Proof.Machine.execWriteRespReceive c p s
  | .writeRespTimeout c tag => Sys2Proof.Machine.execWriteRespTimeout c tag s
  | .collectiveReceive c p vc => Sys2Proof.Machine.execCollectiveReceive c p vc s
  | .helloReceive c p => Sys2Proof.Machine.execHelloReceive c p s
  | .helloTimer c p => Sys2Proof.Machine.execHelloTimer c p s
  | .partnerSignalDetect c p => Sys2Proof.Machine.execPartnerSignalDetect c p s
  | .trainingComplete c p => Sys2Proof.Machine.execTrainingComplete c p s
  | .trainingFail c p => Sys2Proof.Machine.execTrainingFail c p s
  | .trainingRetryWaitExpiry c p => Sys2Proof.Machine.execTrainingRetryWaitExpiry c p s
  | .lossOfSignal c p => Sys2Proof.Machine.execLossOfSignal c p s
  | .syncTimer c p t1 => Sys2Proof.Machine.execSyncTimer c p t1 s
  | .syncRequestReceive c p t3 => Sys2Proof.Machine.execSyncRequestReceive c p t3 s
  | .syncResponseReceive c p => Sys2Proof.Machine.execSyncResponseReceive c p s
  | .syncLost c => Sys2Proof.Machine.execSyncLost c s
  | .drizzleReq c p => Sys2Proof.Machine.execDrizzleReq c p s
  | .drizzleAccept c p => Sys2Proof.Machine.execDrizzleAccept c p s
  | .drizzleRefuse c p => Sys2Proof.Machine.execDrizzleRefuse c p s
  | .drizzleAnswerTimeout c p => Sys2Proof.Machine.execDrizzleAnswerTimeout c p s
  | .wake c p => Sys2Proof.Machine.execWake c p s
  | .fullRate c p => Sys2Proof.Machine.execFullRate c p s
  | .drizzleWakeFail c p => Sys2Proof.Machine.execDrizzleWakeFail c p s
  | .routed c p => Sys2Proof.Machine.execRouted c p s
  | .lullFlitReceive c p => Sys2Proof.Machine.execLullFlitReceive c p s
  | .escapeTimeout c p vc => Sys2Proof.Machine.execEscapeTimeout c p vc s
  | .noPortTimeout c => Sys2Proof.Machine.execNoPortTimeout c s
  | .routeEpochTakeEffect c => Sys2Proof.Machine.execRouteEpochTakeEffect c s
  | .powerSample c m => Sys2Proof.Machine.execPowerSample c m s
  | .fastLimitRelease c => Sys2Proof.Machine.execFastLimitRelease c s
  | .limiterTick c way => Sys2Proof.Machine.execLimiterTick c way s
  | .gustWindowEnd c why => Sys2Proof.Machine.execGustWindowEnd c why s
  | .shareGatingTick c way => Sys2Proof.Machine.execShareGatingTick c way s
  | .droopDetect c die => Sys2Proof.Machine.execDroopDetect c die s
  | .droopRecovery c die => Sys2Proof.Machine.execDroopRecovery c die s
  | .droopStormEnd c die => Sys2Proof.Machine.execDroopStormEnd c die s
  | .thermalSensorRead c temps => Sys2Proof.Machine.execThermalSensorRead c temps s
  | .thermalTripLine c => Sys2Proof.Machine.execThermalTripLine c s
  | .lockstepOrder c => Sys2Proof.Machine.execLockstepOrder c s
  | .lockstepOrderWithdraw c => Sys2Proof.Machine.execLockstepOrderWithdraw c s
  | .policyConflict c kind die way => Sys2Proof.Machine.execPolicyConflict c kind die way s
  | .energySplitTick c way => Sys2Proof.Machine.execEnergySplitTick c way s
  | .estimatorReference c rail way => Sys2Proof.Machine.execEstimatorReference c rail way s
  | .estimateStale c rail => Sys2Proof.Machine.execEstimateStale c rail s
  | .allotmentInterval => Sys2Proof.Machine.execAllotmentInterval s
  | .chipReport c wait input => Sys2Proof.Machine.execChipReport c wait input s
  | .allotmentReceive c => Sys2Proof.Machine.execAllotmentReceive c s
  | .allotmentTimeout c => Sys2Proof.Machine.execAllotmentTimeout c s
  | .chipSilent c => Sys2Proof.Machine.execChipSilent c s
  | .traceHostCopy c => Sys2Proof.Machine.execTraceHostCopy c s
  | .consumerRead c v => Sys2Proof.Machine.execConsumerRead c v s
  | .lullFreeze c => Sys2Proof.Machine.execLullFreeze c s
  | .cutPartnerTimeout c p => Sys2Proof.Machine.execCutPartnerTimeout c p s
  | .lullCut c => Sys2Proof.Machine.execLullCut c s
  | .lullRelease c => Sys2Proof.Machine.execLullRelease c s
  | .fieldSupplyMeasure mv => Sys2Proof.Machine.execFieldSupplyMeasure mv s
  | .adcSliceComplete k samples => Sys2Proof.Machine.execAdcSliceComplete k samples s
  | .comparatorSample k ua => Sys2Proof.Machine.execComparatorSample k ua s
  | .loopRetryTest k => Sys2Proof.Machine.execLoopRetryTest k s
  | .loopRetryTestEnd k => Sys2Proof.Machine.execLoopRetryTestEnd k s
  | .loopStartingComplete k => Sys2Proof.Machine.execLoopStartingComplete k s
  | .leakSample k code => Sys2Proof.Machine.execLeakSample k code s
  | .chatterEnd k => Sys2Proof.Machine.execChatterEnd k s
  | .leakIndeterminateTimeout k => Sys2Proof.Machine.execLeakIndeterminateTimeout k s
  | .leakDrift k => Sys2Proof.Machine.execLeakDrift k s
  | .outputSample samples => Sys2Proof.Machine.execOutputSample samples s
  | .crossfeedTest found => Sys2Proof.Machine.execCrossfeedTest found s
  | .outputPowerUpState => Sys2Proof.Machine.execOutputPowerUpState s
  | .efuseTrip c ma samples => Sys2Proof.Machine.execEfuseTrip c ma samples s
  | .busbarFault above => Sys2Proof.Machine.execBusbarFault above s
  | .hazardClear hazard ch => Sys2Proof.Machine.execHazardClear hazard ch s
  | .hazardEscalation hazard ch => Sys2Proof.Machine.execHazardEscalation hazard ch s
  | .leakClosePumpDelay => Sys2Proof.Machine.execLeakClosePumpDelay s
  | .isolateNotice c => Sys2Proof.Machine.execIsolateNotice c s
  | .isolateReady c => Sys2Proof.Machine.execIsolateReady c s
  | .isolateGraceExpiry c => Sys2Proof.Machine.execIsolateGraceExpiry c s
  | .chassisResetOn c role busbarOk => Sys2Proof.Machine.execChassisResetOn c role busbarOk s
  | .chassisResetForceOff c role => Sys2Proof.Machine.execChassisResetForceOff c role s
  | .chassisResetGracefulShutdown c role => Sys2Proof.Machine.execChassisResetGracefulShutdown c role s
  | .chassisResetPowerCycle c role => Sys2Proof.Machine.execChassisResetPowerCycle c role s
  | .powerCycleOnDelay c busbarOk => Sys2Proof.Machine.execPowerCycleOnDelay c busbarOk s
  | .clearLeak k role => Sys2Proof.Machine.execClearLeak k role s
  | .clearCrossfed outs role => Sys2Proof.Machine.execClearCrossfed outs role s
  | .setOutput k on role => Sys2Proof.Machine.execSetOutput k on role s
  | .ndevasShadowPatch patch role => Sys2Proof.Machine.execNdevasShadowPatch patch role s
  | .ndevasCommit expected role => Sys2Proof.Machine.execNdevasCommit expected role s
  | .updatePush kind image role => Sys2Proof.Machine.execUpdatePush kind image role s
  | .redfishRequest req => Sys2Proof.Machine.execRedfishRequest req s
  | .redfishEventSend accepted => Sys2Proof.Machine.execRedfishEventSend accepted s
  | .pldmRequest c req => Sys2Proof.Machine.execPldmRequest c req s
  | .logRecordProgram => Sys2Proof.Machine.execLogRecordProgram s
  | .logAfterPartProgram seq => Sys2Proof.Machine.execLogAfterPartProgram seq s
  | .hostLinkFatal c kind => Sys2Proof.Machine.execHostLinkFatal c kind s
  | .stewardFault c code id => Sys2Proof.Machine.execStewardFault c code id s
  | .trayIdentityRetry board => Sys2Proof.Machine.execTrayIdentityRetry board s
  | .hbmTrainingFail c => Sys2Proof.Machine.execHbmTrainingFail c s
  | .ndevasChipResetDeassert c => Sys2Proof.Machine.execNdevasChipResetDeassert c s
  | .perstHonoured c => Sys2Proof.Machine.execPerstHonoured c s
  | .configurationRequest c req => Sys2Proof.Machine.execConfigurationRequest c req s
  | .heartbeatTick c => Sys2Proof.Machine.execHeartbeatTick c s
  | .ndevasWakeMessage c => Sys2Proof.Machine.execNdevasWakeMessage c s
  | .flitTransmit c p => Sys2Proof.Machine.execFlitTransmit c p s

end Sys2Proof.Machine
end

