-- ==== Sys2Proof/WellFormed.lean ====
section
/-! DEFINITION. Which commands have the shape that the spec gives their data. -/
namespace Sys2Proof

/-- An identity memory is read once, and repeated at most twice (02 R49). -/
def IdRead.wf (r : IdRead) : Bool := decide (0 < r.attempts.length ∧ r.attempts.length ≤ 3)

/-- The tray board memory gives eight e-fuse limits (14 R374). -/
def IdRead.wfBoard (r : IdRead) : Bool := r.wf && decide (r.limits.length = 8)

/-- A module's page 0x00 is read once, and repeated at most twice; a page has 128 bytes (02 R49, 11 R300). -/
def ModuleRead.wf (r : ModuleRead) : Bool :=
  decide (0 < r.attempts.length ∧ r.attempts.length ≤ 3 ∧ r.lower.length ≤ 128) && r.pages.all fun e => decide (e.2.length ≤ 128)

/-- The identity memories of a tray: one board, eight chips, eight host cables, and modules only on a T8-U (02 R49). -/
def IdReads.wf (ids : IdReads) : Bool :=
  ids.board.wfBoard && decide (ids.chips.length = 8 ∧ ids.cables.length = 8 ∧ (ids.variantU = false → ids.modules = [])) &&
    (ids.chips ++ ids.cables).all IdRead.wf && ids.modules.all ModuleRead.wf

/-- Lists have the lengths, and numbers the ranges, that the spec gives the data of a command. -/
def Instr.wf (i : Instr) : Bool :=
  match i with
  | .ndevasFirmwareRunning ids => ids.wf
  | .registerWrite _ off _ => decide (off.toNat % 4 = 0)
  | .bar0NonalignedAccess _ _ off len => decide (0 < len ∧ len ≤ 4096 ∧ ¬ (len = 4 ∧ off.toNat % 4 = 0))
  | .bar2Read _ _ len => decide (0 < len ∧ len ≤ 4096)
  | .bar2Write _ _ data => decide (0 < data.length ∧ data.length ≤ 4096)
  | .submissionFetch _ _ entry => decide (entry.length = 64)
  | .stepUnitEntry _ _ _ ops copies => ops.all (fun o => decide (o.2.length = 64)) && copies.all fun b => decide (b.desc.length = 64)
  | .stepCommit _ _ staged => staged.all fun e => e.cands.all fun l => decide (l.length ≤ 64)
  | .descriptorSequencerRelease _ _ _ w => decide (w.die ≤ w.head ∧ w.barrier ≤ w.head)
  | .sfuTileComplete _ _ waited => decide (waited.length = 8)
  | .flitReceive _ _ flit uncorrectable _ _ => decide (flit.length = 256) && uncorrectable.all fun n => decide (n ≤ 2)
  | .powerSample _ m => decide (m.dies.length = 4)
  | .thermalSensorRead _ temps => decide (temps.length = 14)
  | .adcSliceComplete _ samples => decide (samples.length = 16)
  | .outputSample samples => decide (samples.length = 4)
  | .crossfeedTest found => found.all fun p => decide (p.1 ≠ p.2)
  | .trayIdentityRetry board => board.wfBoard
  | .standbyRailGood | .coolantCheckScan | .railSequenceStart .. | .powerGood .. | .railFault .. | .perstDeassert ..
  | .perstAssert .. | .pcieLinkL0 .. | .firmwareLoadComplete .. | .firmwareLoadFail .. | .hbmTrainingComplete ..
  | .zeroingComplete .. | .flr .. | .stewardWatchdogExpiry .. | .ndevasChipReset .. | .resetComplete .. | .ndevasRestart ..
  | .standbyPowerLoss | .idleTimeout .. | .dormantDelayExpiry .. | .dormantEntryComplete .. | .wakeComplete ..
  | .sqTailDoorbellWrite .. | .cqHeadDoorbellWrite .. | .qp0ControlWrite .. | .qp0EnablingComplete ..
  | .qp0DisablingComplete .. | .earlyDoorbellsRead .. | .badDoorbellsRead .. | .msixVectorUnmask .. | .irqTimeExpiry ..
  | .submissionReadError .. | .argumentReadError .. | .hostReadTimeout .. | .identify .. | .queueCreate .. | .queueDelete ..
  | .superConfig .. | .configWriteShadow .. | .configCommit .. | .configSectionExchange .. | .streamOpen ..
  | .streamClose .. | .streamCloseFree .. | .streamCancel .. | .frameMapFresh .. | .frameMapShare .. | .frameRelease ..
  | .stepSubmit .. | .stepVerify .. | .modelLoad .. | .modelUnload .. | .swapBegin .. | .swapLayer .. | .swapEnd ..
  | .swapEndAbandon .. | .foragerCopy .. | .powerPolicyWrite .. | .dormantNow .. | .powerCalibrate .. | .quietWindowStart ..
  | .quietWindowEnd .. | .limiterTick .. | .shareGatingTick .. | .energySplitTick .. | .calibrateDrainTimeout ..
  | .counterSelectWrite .. | .counterSelectRead .. | .lullArm .. | .traceConfig ..
  | .fabricRouteSet .. | .linkStateQuery .. | .linkStateEnable .. | .linkStateDisable .. | .linkStateReadmit ..
  | .linkStateRetrain .. | .linkStateDrizzleAllow .. | .linkStateDrizzleRefuse .. | .microprogramLoad ..
  | .microprogramClear .. | .healthQueryRead .. | .healthQueryReadAndClear .. | .stepPlanReady .. | .stepDispatch ..
  | .stepVerifyCommit .. | .stepErrorEnd .. | .stepHoldLimitExpiry .. | .stepStall .. | .fill .. | .stream ..
  | .tileLoadStart .. | .tileLoadComplete .. | .groupDrainComplete .. | .holdSlotRelease .. | .sfuMap .. | .softmax ..
  | .rmsnorm .. | .layernorm .. | .selection .. | .sfuTileGrant .. | .selectionRowComplete .. | .sfuEnd .. | .rrExp ..
  | .rrLog .. | .rrTrig .. | .lookup .. | .qinterp .. | .fma .. | .rcpSeed .. | .rsqSeed .. | .nrRcp .. | .nrRsq ..
  | .scale2 .. | .cmpSel .. | .expdiff .. | .copyDescriptor .. | .copyDescriptorComplete .. | .scrubRead ..
  | .eccWriteBack .. | .loadSegmentReceive .. | .loadTimeout .. | .childTimeout .. | .swapBeginTakeEffect ..
  | .swapWriteStart .. | .swapWriteComplete .. | .swapWriteFail .. | .replayTimeout .. | .ackTimer .. | .creditReturn ..
  | .writeReceive .. | .writeRespReceive .. | .writeRespTimeout .. | .collectiveReceive .. | .helloReceive ..
  | .helloTimer .. | .partnerSignalDetect .. | .trainingComplete .. | .trainingFail .. | .trainingRetryWaitExpiry ..
  | .lossOfSignal .. | .syncTimer .. | .syncRequestReceive .. | .syncResponseReceive .. | .syncLost .. | .drizzleReq ..
  | .drizzleAccept .. | .drizzleRefuse .. | .drizzleAnswerTimeout .. | .wake .. | .fullRate .. | .drizzleWakeFail ..
  | .routed .. | .lullFlitReceive .. | .escapeTimeout .. | .noPortTimeout .. | .routeEpochTakeEffect ..
  | .fastLimitRelease .. | .gustWindowEnd .. | .droopDetect .. | .droopRecovery .. | .droopStormEnd .. | .thermalTripLine ..
  | .lockstepOrder .. | .lockstepOrderWithdraw .. | .policyConflict .. | .estimatorReference .. | .estimateStale ..
  | .allotmentInterval | .chipReport .. | .allotmentReceive .. | .allotmentTimeout .. | .chipSilent .. | .traceHostCopy ..
  | .consumerRead .. | .lullFreeze .. | .cutPartnerTimeout .. | .lullCut .. | .lullRelease .. | .fieldSupplyMeasure ..
  | .comparatorSample .. | .loopRetryTest .. | .loopRetryTestEnd .. | .loopStartingComplete .. | .leakSample ..
  | .chatterEnd .. | .leakIndeterminateTimeout .. | .leakDrift .. | .outputPowerUpState | .efuseTrip .. | .busbarFault ..
  | .hazardClear .. | .hazardEscalation .. | .leakClosePumpDelay | .isolateNotice .. | .isolateReady ..
  | .isolateGraceExpiry .. | .chassisResetOn .. | .chassisResetForceOff .. | .chassisResetGracefulShutdown ..
  | .chassisResetPowerCycle .. | .powerCycleOnDelay .. | .clearLeak .. | .clearCrossfed .. | .setOutput ..
  | .ndevasShadowPatch .. | .ndevasCommit .. | .updatePush .. | .redfishRequest .. | .redfishEventSend .. | .pldmRequest ..
  | .logRecordProgram | .logAfterPartProgram .. | .hostLinkFatal .. | .stewardFault .. | .hbmTrainingFail ..
  | .ndevasChipResetDeassert .. | .perstHonoured .. | .configurationRequest .. | .heartbeatTick .. | .ndevasWakeMessage ..
  | .flitTransmit .. => true

end Sys2Proof
end

