-- ==== Sys2Proof/Safety.lean ====
section
/-! DEFINITION. The terms that claims use: the chip of a position, how a command of a chip and a command of the tray complete, and
the invariants of a run. -/
namespace Sys2Proof

open Machine

/-- The chip at tray position `c`. -/
def chipAt (s : State) (c : Fin 8) : Chip := s.chips.get c

/-- Command `i` answers a next state `t` with `P t`. -/
def Answers (i : Instr) (s : State) (P : State → Prop) : Prop := ∃ t, exec i s = .next t ∧ P t

/-- Command `i` answers, from `s`, a next state that differs from `s'` in nothing but chip `c`, what the tray has sent, and the
wires of the tray ring, which carry what chip `c` has sent on its ring ports; `P` says of the chip after it, and of what it has
sent, what they are. -/
def RunsFrom (c : Fin 8) (i : Instr) (s s' : State) (P : Chip → List Out → Prop) : Prop :=
  Answers i s fun t =>
    (∀ d, d ≠ c → chipAt t d = chipAt s' d) ∧ t.nd = s'.nd ∧ t.now = s'.now ∧ t.pending = s'.pending ∧
      ∃ o, t.out = s'.out ++ o ∧ t.ring = o.foldl ringSend s'.ring ∧ P (chipAt t c) o

/-- Command `i` acts on chip `c` alone. -/
def Runs (c : Fin 8) (i : Instr) (s : State) (P : Chip → List Out → Prop) : Prop := RunsFrom c i s s P

/-- The state from which the chip that a command names acts: a flit that arrives on a ring port has left its wire (01 R24). -/
def arrived (i : Instr) (s : State) : State :=
  match i with
  | .flitReceive c p flit unc _ _ => (s.ringTake c p (fit 256 flit) (damaged (fit 256 flit) unc)).getD s
  | _ => s

/-- A chip whose port `p` is `w`, with nothing else changed. -/
def withPort (h : Chip) (p : Fin 18) (w : Port) : Chip := { h with fab := { h.fab with ports := tset .initial h.fab.ports p w } }

/-- A port that has taken the oldest management flit it received, with `r` left: the flit's entry awaits its credit's return. -/
def tookMgmt (v : Port) (r : List (Nat × Bytes)) : Port := { v with mgmtRx := r }.setVc 4 { v.vc 4 with rx := (v.vc 4).rx ++ [[]] }

/-- A chip as a command that names it finds it. -/
def ctxOf (s : State) (c : Fin 8) : Ctx := ⟨c, s.now, s.free, chipAt s c, [], .none⟩

/-- Fetched command `k` of chip `c` may start, and its queue pair can take a completion (03 R80, R87). -/
abbrev CanRun (c : Fin 8) (k : Cmd) (s : State) : Prop :=
  (ctxOf s c).cmd? k.id = some k ∧ k.phase = .fetched ∧ (ctxOf s c).mayStart k ((ctxOf s c).cmdStreams k) = true ∧
    (ctxOf s c).canPost k.qp false = true ∧ ∀ h ∈ (chipAt s c).stew.held, h.qp ≠ k.qp

/-- Chip `c`, as `h` before the command, posts the completion of `k` in the next entry of its completion queue (03 R72, R79). -/
abbrev Completes (c : Fin 8) (h : Chip) (k : Cmd) (status r0 r1 : Nat) (o : List Out) : Prop :=
  let p := tget .none h.stew.qps k.qp
  Out.hostWrite c (p.cqBase + 32 * (p.posted % p.cqDepth))
    (cplBytes p ⟨k.qp, status, k.tag, r0, r1, false, k.quiet, h.fab.time.toNat, k.id, k.opcode⟩) false false ∈ o

/-- Command `id` is no longer among the fetched commands of a chip. -/
abbrev Ended (id : Nat) (h : Chip) : Prop := ∀ k ∈ h.stew.cmds, k.id ≠ id

/-- The chip that a command acts on alone; none for a command of the tray or the Ndevas. -/
def chipOf (i : Instr) : Option (Fin 8) :=
  match i with
  | .perstDeassert c | .perstAssert c | .pcieLinkL0 c | .firmwareLoadComplete c _ _ _
  | .hbmTrainingComplete c | .zeroingComplete c | .flr c | .stewardWatchdogExpiry c _ | .ndevasChipReset c
  | .resetComplete c | .idleTimeout c | .dormantDelayExpiry c | .dormantEntryComplete c | .wakeComplete c
  | .sqTailDoorbellWrite c _ _ _ | .cqHeadDoorbellWrite c _ _ | .qp0ControlWrite c _ | .qp0EnablingComplete c
  | .qp0DisablingComplete c | .earlyDoorbellsRead c | .badDoorbellsRead c | .registerWrite c _ _
  | .bar0NonalignedAccess c _ _ _ | .bar2Read c _ _ | .bar2Write c _ _ | .msixVectorUnmask c _ | .irqTimeExpiry c _
  | .submissionFetch c _ _ | .submissionReadError c _ | .argumentReadError c _ | .hostReadTimeout c _ | .identify c _
  | .queueCreate c _ | .queueDelete c _ | .superConfig c _ _ | .configWriteShadow c _ _ | .configCommit c _
  | .configSectionExchange c _ | .streamOpen c _ | .streamClose c _ | .streamCloseFree c _ | .streamCancel c _
  | .frameMapFresh c _ | .frameMapShare c _ | .frameRelease c _ | .stepSubmit c _ _ | .stepVerify c _ _
  | .modelLoad c _ _ _ | .modelUnload c _ | .swapBegin c _ | .swapLayer c _ _ _ | .swapEnd c _ | .swapEndAbandon c _
  | .foragerCopy c _ _ | .powerPolicyWrite c _ _ | .dormantNow c _ | .powerCalibrate c _ | .quietWindowStart c
  | .quietWindowEnd c _ | .calibrateDrainTimeout c | .counterSelectWrite c _ _ | .counterSelectRead c _
  | .lullArm c _ _ | .traceConfig c _ | .fabricRouteSet c _ _ | .linkStateQuery c _ | .linkStateEnable c _
  | .linkStateDisable c _ | .linkStateReadmit c _ | .linkStateRetrain c _ | .linkStateDrizzleAllow c _
  | .linkStateDrizzleRefuse c _ | .microprogramLoad c _ _ | .microprogramClear c _ | .healthQueryRead c _
  | .healthQueryReadAndClear c _ | .stepPlanReady c _ _ | .stepDispatch c _ | .stepUnitEntry c _ _ _ _
  | .stepCommit c _ _ | .stepVerifyCommit c _ | .stepErrorEnd c _ _ | .stepHoldLimitExpiry c _ | .stepStall c _ _
  | .descriptorSequencerRelease c _ _ _ | .fill c _ _ | .stream c _ _ | .tileLoadStart c _ | .tileLoadComplete c _
  | .groupDrainComplete c _ | .holdSlotRelease c _ _ | .sfuMap c _ | .softmax c _ | .rmsnorm c _ | .layernorm c _
  | .selection c _ | .sfuTileGrant c _ | .sfuTileComplete c _ _ | .selectionRowComplete c _ | .sfuEnd c _ _ _ _
  | .rrExp c _ _ _ _ | .rrLog c _ _ _ _ | .rrTrig c _ _ _ _ | .lookup c _ _ _ _ | .qinterp c _ _ _ _ | .fma c _ _ _ _
  | .rcpSeed c _ _ _ _ | .rsqSeed c _ _ _ _ | .nrRcp c _ _ _ _ | .nrRsq c _ _ _ _ | .scale2 c _ _ _ _
  | .cmpSel c _ _ _ _ | .expdiff c _ _ _ _ | .copyDescriptor c _ _ _ | .copyDescriptorComplete c _ | .scrubRead c _
  | .eccWriteBack c _ | .loadSegmentReceive c _ | .loadTimeout c _ | .childTimeout c _ _ | .swapBeginTakeEffect c _
  | .swapWriteStart c _ | .swapWriteComplete c _ | .swapWriteFail c _ _ _ _ | .flitReceive c _ _ _ _ _
  | .replayTimeout c _ | .ackTimer c _ | .creditReturn c _ _ | .writeReceive c _ _ | .writeRespReceive c _
  | .writeRespTimeout c _ | .collectiveReceive c _ _ | .helloReceive c _ | .helloTimer c _ | .partnerSignalDetect c _
  | .trainingComplete c _ | .trainingFail c _ | .trainingRetryWaitExpiry c _ | .lossOfSignal c _ | .syncTimer c _ _
  | .syncRequestReceive c _ _ | .syncResponseReceive c _ | .syncLost c | .drizzleReq c _ | .drizzleAccept c _
  | .drizzleRefuse c _ | .drizzleAnswerTimeout c _ | .wake c _ | .fullRate c _ | .drizzleWakeFail c _ | .routed c _
  | .lullFlitReceive c _ | .escapeTimeout c _ _ | .noPortTimeout c | .routeEpochTakeEffect c | .powerSample c _
  | .fastLimitRelease c | .limiterTick c _ | .gustWindowEnd c _ | .shareGatingTick c _ | .droopDetect c _
  | .droopRecovery c _ | .droopStormEnd c _ | .thermalSensorRead c _ | .lockstepOrder c | .lockstepOrderWithdraw c
  | .policyConflict c _ _ _ | .energySplitTick c _ | .estimatorReference c _ _ | .estimateStale c _
  | .allotmentReceive c | .allotmentTimeout c | .traceHostCopy c | .consumerRead c _ | .lullFreeze c
  | .cutPartnerTimeout c _ | .lullCut c | .lullRelease c | .hostLinkFatal c _ | .stewardFault c _ _
  | .hbmTrainingFail c | .ndevasChipResetDeassert c | .perstHonoured c | .configurationRequest c _ | .heartbeatTick c
  | .ndevasWakeMessage c | .flitTransmit c _ => some c
  | .standbyRailGood | .ndevasFirmwareRunning _ | .coolantCheckScan | .railSequenceStart _ | .powerGood _
  | .railFault _ _ | .ndevasRestart _ | .standbyPowerLoss | .thermalTripLine _ | .allotmentInterval
  | .firmwareLoadFail _ | .chipReport _ _ _ | .chipSilent _ | .fieldSupplyMeasure _ | .adcSliceComplete _ _ | .comparatorSample _ _
  | .loopRetryTest _ | .loopRetryTestEnd _ | .loopStartingComplete _ | .leakSample _ _ | .chatterEnd _
  | .leakIndeterminateTimeout _ | .leakDrift _ | .outputSample _ | .crossfeedTest _ | .outputPowerUpState
  | .efuseTrip _ _ _ | .busbarFault _ | .hazardClear _ _ | .hazardEscalation _ _ | .leakClosePumpDelay
  | .isolateNotice _ | .isolateReady _ | .isolateGraceExpiry _ | .chassisResetOn _ _ _ | .chassisResetForceOff _ _
  | .chassisResetGracefulShutdown _ _ | .chassisResetPowerCycle _ _ | .powerCycleOnDelay _ _ | .clearLeak _ _
  | .clearCrossfed _ _ | .setOutput _ _ _ | .ndevasShadowPatch _ _ | .ndevasCommit _ _ | .updatePush _ _ _
  | .redfishRequest _ | .redfishEventSend _ | .pldmRequest _ _ | .logRecordProgram | .logAfterPartProgram _
  | .trayIdentityRetry _ => none

/-- Every memory of every chip has its canonical form. -/
abbrev MemoryCanonical (s : State) : Prop := ∀ c, (chipAt s c).mem.wf = true

/-- The event log keeps its bounds: 511 records wait beside the coalesced one, 131,072 records stand in flash (15 R390, R393). -/
abbrev LogBounded (s : State) : Prop := s.nd.queue.length ≤ 511 ∧ s.nd.flash.length ≤ 131072

/-- The tray cap in force is in its range (12 R302). -/
abbrev CapInRange (s : State) : Prop := 5720 ≤ s.nd.active.trayCap ∧ s.nd.active.trayCap ≤ 13320

/-- The event log takes the next records one by one: standby power is present and the RAM queue has room for 32 (15 R393). -/
abbrev LogRoom (s : State) : Prop := s.nd.standby = true ∧ s.nd.coalesced = none ∧ s.nd.queue.length ≤ 479

/-- A record of this kind, source and detail is in the RAM queue of `t` beyond those of `s` (15 R391). -/
abbrev Logged (s t : State) (kind source detail : Nat) : Prop :=
  ∃ r ∈ t.nd.queue.drop s.nd.queue.length, r.kind = kind ∧ r.source = source ∧ r.detail = detail

/-- In `t` the e-fuse of chip `d` is open and the chip is Off, all contents lost (02 R53, 14 R374). -/
abbrev FuseOpen (s t : State) (d : Fin 8) : Prop :=
  (t.nd.position d).fuse = false ∧ (t.nd.position d).pwrgd = false ∧
    chipAt t d = { Chip.off with boot := { Boot.initial with perst := (chipAt s d).boot.perst } }

/-- No chip but `c`, and nothing of its position, differs between `s` and `t`. -/
abbrev OthersStay (s t : State) (c : Fin 8) : Prop := ∀ d, d ≠ c → chipAt t d = chipAt s d ∧ t.nd.position d = s.nd.position d

/-- The management port serves a request of an account with this role (02 R50, 15 R395, R396). -/
abbrev Serves (s : State) (role : Role) : Prop :=
  s.nd.standby = true ∧ s.nd.running = true ∧ s.served = true ∧ role ≠ .readOnly

/-- What a list of natural numbers, indexed by chip position, sums to. -/
def overChips (f : Fin 8 → Nat) : Nat := ((List.finRange 8).map f).sum

end Sys2Proof
end

