-- ==== Sys2Proof/Certificates/Slice0/Obligations.lean ====
section
/-! DEFINITION. The statements for the provers, each named for what it states. -/

open Sys2Proof Sys2Proof.Machine

/-- With command i at the front of the queue, a step answers what i answers on the state whose queue is the rest. (the queue of
commands is the model's form of the sender's writes and events) -/
def Obligations.StepRunsTheFrontCommand : Prop :=
  ∀ (i : Instr) (rest : List Instr) (s : State), step { s with pending := i :: rest } = exec i { s with pending := rest }

/-- Every command answers a next state in every state, and leaves the queue of waiting commands as it was; no fault and no
refusal is ever answered. (notes/assumptions/1.md) -/
def Obligations.EveryCommandAnswersANextState : Prop :=
  ∀ (i : Instr) (s : State), ∃ t, exec i s = .next t ∧ t.pending = s.pending

/-- On an empty queue a step answers a next state one nanosecond later with the same Ndevas and an empty queue; a chip whose
rails are down is unchanged, a chip in its rail sequence keeps its fabric time, and the fabric time of a chip whose rails are up
has advanced by one. That time passes on an empty queue is the model's choice (notes/assumptions/2.md). -/
def Obligations.IdleStepIsOneNanosecond : Prop :=
  ∀ s : State, s.pending = [] → ∃ t, step s = .next t ∧ t.now = s.now + 1 ∧ t.nd = s.nd ∧ t.pending = [] ∧
    ∀ c, ((chipAt s c).boot.rails = .down → chipAt t c = chipAt s c) ∧
      ((chipAt s c).boot.rails = .sequencing → (chipAt t c).fab = (chipAt s c).fab) ∧
      ((chipAt s c).boot.rails = .up → (chipAt t c).fab.time = (chipAt s c).fab.time + 1)

/-- A command that acts on chip c answers a next state in which every other chip, the Ndevas, the time and the queue are as
before, what the tray has sent is extended, and the wires of the tray ring carry in addition what chip c has sent on its ring
ports; a flit that arrived on a ring port has left its wire. -/
def Obligations.ChipCommandsStayOnTheirChip : Prop :=
  ∀ (i : Instr) (c : Fin 8) (s : State), chipOf i = some c → RunsFrom c i s (arrived i s) fun _ _ => True

/-- From every state whose Comb stores and HBM data spaces are canonical (addresses strictly rising, no listed byte zero or
inside an undefined range), a step answers a state whose memories are canonical. -/
def Obligations.MemoriesStayCanonical : Prop :=
  ∀ s t : State, MemoryCanonical s → step s = .next t → MemoryCanonical t

/-- From every state with at most 511 records waiting in the Ndevas RAM queue beside the coalesced one, at most 131,072 records
in flash, and a tray cap in force of 5,720 to 13,320 W, a step answers a state with the same bounds. -/
def Obligations.NdevasStaysInBounds : Prop :=
  ∀ s t : State, LogBounded s → CapInRange s → step s = .next t → LogBounded t ∧ CapInRange t

/-- The tray before standby power meets the three invariants. -/
def Obligations.ResetStartsTheInvariants : Prop :=
  MemoryCanonical State.reset ∧ LogBounded State.reset ∧ CapInRange State.reset

/-- On a working chip, PERST_ASSERT and (with the Ndevas running) NDEVAS_CHIP_RESET clear READY, set PSTATE to Resetting, record
the cause, take the link down and the boot stage to 0, end all commands, streams and engine work, return the configuration to
its defaults, zero the memories, clear STEWARD_FAULT and every counter, keep the RAS log and the fabric time, and send nothing.
-/
def Obligations.FundamentalResetsClearTheChip : Prop :=
  (∀ (s : State) (c : Fin 8), (chipAt s c).boot.rails = .up → (chipAt s c).boot.works = true →
    Runs c (.perstAssert c) s fun k o => o = [] ∧ k.boot.perst = true ∧ k.boot.cause = .perst ∧ k.boot.pstate = .resetting ∧
      k.boot.ready = false ∧ k.boot.bootStage = 0 ∧ k.boot.linkL0 = false ∧ k.boot.fwRunning = false ∧ k.boot.rails = .up ∧
      k.boot.resetLine = (chipAt s c).boot.resetLine ∧
      k.bar = .initial ∧ k.stew = .initial ∧ k.config = .initial ∧ k.serve = .initial ∧ k.eng = .initial ∧ k.mem = .zeroed ∧
      k.obs.counters = [] ∧ k.obs.rasLog = (chipAt s c).obs.rasLog ∧ k.fab.time = (chipAt s c).fab.time ∧ k.fab.synced = false) ∧
  (∀ (s : State) (c : Fin 8), s.nd.running = true → (chipAt s c).boot.rails = .up → (chipAt s c).boot.works = true →
    Runs c (.ndevasChipReset c) s fun k o => o = [] ∧ k.boot.resetLine = true ∧ k.boot.cause = .ndevas ∧
      k.boot.pstate = .resetting ∧ k.boot.ready = false ∧ k.boot.bootStage = 0 ∧ k.boot.linkL0 = false ∧ k.boot.fwRunning = false ∧
      k.boot.rails = .up ∧ k.boot.perst = (chipAt s c).boot.perst ∧
      k.bar = .initial ∧ k.stew = .initial ∧ k.config = .initial ∧ k.serve = .initial ∧ k.eng = .initial ∧ k.mem = .zeroed ∧
      k.obs.counters = [] ∧ k.obs.rasLog = (chipAt s c).obs.rasLog ∧ k.fab.time = (chipAt s c).fab.time ∧ k.fab.synced = false)

/-- On a working chip FLR (with the link in L0) and STEWARD_WATCHDOG_EXPIRY clear READY, set PSTATE to Resetting, record the
cause, end all work, return the configuration to its defaults and zero the memories; both keep the link, the RAS log, the fabric
time and its synchronisation. FLR keeps the firmware and STEWARD_FAULT and clears the MSI-X table; the watchdog stops the
firmware, records its fault code (0x0001 where firmware wrote none), reports an Uncorrectable Internal Error, counts, and keeps
the MSI-X table. A Steward fault of code 0x0001 to 0x0003 starts the same reset. -/
def Obligations.FunctionAndWatchdogResets : Prop :=
  (∀ (s : State) (c : Fin 8), (chipAt s c).boot.linkL0 = true → (chipAt s c).boot.works = true →
    Runs c (.flr c) s fun k o => o = [] ∧ k.boot.cause = .flr ∧ k.boot.pstate = .resetting ∧ k.boot.ready = false ∧
      k.boot.linkL0 = true ∧ k.boot.fwRunning = (chipAt s c).boot.fwRunning ∧ k.bar.stewardFault = (chipAt s c).bar.stewardFault ∧
      k.bar.msix = [] ∧ k.bar.msixEnable = false ∧ k.stew = .initial ∧ k.config = .initial ∧ k.serve = .initial ∧ k.eng = .initial ∧
      k.mem = .zeroed ∧ k.obs.counters = [] ∧ k.obs.rasLog = (chipAt s c).obs.rasLog ∧ k.fab.time = (chipAt s c).fab.time ∧
      k.fab.synced = (chipAt s c).fab.synced) ∧
  (∀ (s : State) (c : Fin 8) (code : Option Word16), (chipAt s c).boot.works = true →
    Runs c (.stewardWatchdogExpiry c code) s fun k o => o = [.aer c 1 "Uncorrectable Internal Error"] ∧ k.boot.cause = .watchdog ∧
      k.boot.pstate = .resetting ∧ k.boot.ready = false ∧ k.boot.linkL0 = (chipAt s c).boot.linkL0 ∧ k.boot.fwRunning = false ∧
      k.bar.stewardFault.toNat = (match code with | some v => v.toNat | none => 1) ∧ k.bar.msix = (chipAt s c).bar.msix ∧
      k.bar.msixEnable = (chipAt s c).bar.msixEnable ∧ k.stew = .initial ∧ k.config = .initial ∧ k.serve = .initial ∧
      k.eng = .initial ∧ k.mem = .zeroed ∧ k.obs.counters = [] ∧ k.obs.rasLog = (chipAt s c).obs.rasLog ∧
      k.obs.watchdogs = ((chipAt s c).obs.watchdogs + 1) % 2 ^ 32 ∧ k.fab.time = (chipAt s c).fab.time ∧
      k.fab.synced = (chipAt s c).fab.synced) ∧
  (∀ (s : State) (c : Fin 8) (code : Word16) (id : Nat), 1 ≤ code.toNat → code.toNat ≤ 3 → (chipAt s c).boot.works = true →
    Runs c (.stewardFault c code id) s fun k o => o = [.aer c 1 "Uncorrectable Internal Error"] ∧ k.boot.cause = .watchdog ∧
      k.boot.pstate = .resetting ∧ k.boot.ready = false ∧ k.bar.stewardFault.toNat = code.toNat ∧ k.stew = .initial ∧
      k.serve = .initial ∧ k.mem = .zeroed)

/-- With rails up, no other line held and the PCIe controller in reset, PERST_DEASSERT brings the controller out of reset, or,
in a power-on less than 100 ms after power good, holds it in reset as an early deassertion; NDEVAS_CHIP_RESET_DEASSERT does the
same for the chip reset line; PERST_HONOURED brings the controller of an early deassertion out of reset. Nothing else changes.
-/
def Obligations.LinkComesUpAfterPerst : Prop :=
  (∀ (s : State) (c : Fin 8), let b := (chipAt s c).boot
    b.rails = .up → b.resetLine = false → b.pcieUp = false → ¬(b.pstate = .booting ∧ s.now < b.pgTime + 100000000) →
    Runs c (.perstDeassert c) s fun k o => o = [] ∧ k = { chipAt s c with boot := { b with perst := false, pcieUp := true } }) ∧
  (∀ (s : State) (c : Fin 8), let b := (chipAt s c).boot
    b.rails = .up → b.resetLine = false → b.pcieUp = false → b.pstate = .booting → s.now < b.pgTime + 100000000 →
    Runs c (.perstDeassert c) s fun k o => o = [] ∧ k = { chipAt s c with boot := { b with perst := false, perstEarly := true } }) ∧
  (∀ (s : State) (c : Fin 8), let b := (chipAt s c).boot
    b.rails = .up → b.resetLine = true → b.perst = false → b.pcieUp = false →
    ¬(b.pstate = .booting ∧ s.now < b.pgTime + 100000000) →
    Runs c (.ndevasChipResetDeassert c) s fun k o => o = [] ∧
      k = { chipAt s c with boot := { b with resetLine := false, pcieUp := true } }) ∧
  (∀ (s : State) (c : Fin 8), let b := (chipAt s c).boot
    b.perstEarly = true →
    Runs c (.perstHonoured c) s fun k o => o = [] ∧
      k = { chipAt s c with boot := { b with perstEarly := false, pcieUp := true } })

/-- In a power-on that has not failed: FIRMWARE_LOAD_COMPLETE sets the firmware running with its versions, HBM_TRAINING_COMPLETE
records the training, ZEROING_COMPLETE zeroes the memories, PCIE_LINK_L0 records L0; each sets READY, PSTATE Idle and BOOT_STAGE
0x05 where it is the last of the conditions of R48, and leaves READY as it was where one is missing. -/
def Obligations.TheWayToReady : Prop :=
  (∀ (s : State) (c : Fin 8) (v w : Word32) (m : Byte), let b := (chipAt s c).boot
    b.pstate = .booting → b.fwRunning = false → b.stuck = false →
    Runs c (.firmwareLoadComplete c v w m) s fun k _ => k.boot.fwRunning = true ∧ k.boot.fwVersion = v ∧ k.boot.fwBuild = w ∧
      k.boot.ifMinor = m ∧
      (if (b.hbmTrained && b.zeroed && b.linkL0 && !b.perst && !b.resetLine && !b.linkFatal) = true then
        k.boot.ready = true ∧ k.boot.pstate = .idle ∧ k.boot.bootStage = 5
      else k.boot.ready = b.ready ∧ k.boot.pstate = .booting ∧ k.boot.bootStage = if b.hbmTrained then 3 else 2)) ∧
  (∀ (s : State) (c : Fin 8), let b := (chipAt s c).boot
    b.pstate = .booting → b.fwRunning = true → b.hbmTrained = false → b.zeroed = false → b.stuck = false →
    Runs c (.hbmTrainingComplete c) s fun k o => o = [] ∧
      k = { chipAt s c with boot := { b with hbmTrained := true, bootStage := 3 } }) ∧
  (∀ (s : State) (c : Fin 8), let b := (chipAt s c).boot
    b.pstate = .booting → b.fwRunning = true → b.hbmTrained = true → b.zeroed = false →
    Runs c (.zeroingComplete c) s fun k _ => k.mem = .zeroed ∧ k.boot.zeroed = true ∧
      (if (b.linkL0 && !b.perst && !b.resetLine && !b.linkFatal) = true then
        k.boot.ready = true ∧ k.boot.pstate = .idle ∧ k.boot.bootStage = 5
      else k.boot.ready = b.ready ∧ k.boot.pstate = .booting ∧ k.boot.bootStage = 4)) ∧
  (∀ (s : State) (c : Fin 8), let b := (chipAt s c).boot
    b.pstate = .booting → b.pcieUp = true → b.linkFatal = false →
    Runs c (.pcieLinkL0 c) s fun k _ => k.boot.linkL0 = true ∧
      (if (b.fwRunning && b.hbmTrained && b.zeroed && !b.perst && !b.resetLine) = true then
        k.boot.ready = true ∧ k.boot.pstate = .idle ∧ k.boot.bootStage = 5 ∧ k.mem = .zeroed
      else k = { chipAt s c with boot := { b with linkL0 := true } }))

/-- FIRMWARE_LOAD_FAIL in a boot sets FW_FAILED at BOOT_STAGE 0x01 and tells the Ndevas, which has a record about the chip in
its queue; HBM_TRAINING_FAIL leaves BOOT_STAGE at 0x02; both log class 0x0C on the chip. RESET_COMPLETE of an FLR or watchdog
reset whose firmware runs sets READY, PSTATE Idle and BOOT_STAGE 0x05. HOST_LINK_FATAL reports the error, logs class 0x0A, loses
held completions and stops posting. None of the failures sets READY. -/
def Obligations.FailedBootsAndFatalLinks : Prop :=
  (∀ (s : State) (c : Fin 8), let b := (chipAt s c).boot
    b.boots = true → b.fwRunning = false → b.stuck = false →
    b.fwFailed = false → LogRoom s →
    Answers (.firmwareLoadFail c) s fun t => t.out = s.out ++ [.smbus c "FW_FAILED" 1] ∧ OthersStay s t c ∧
      (let k := chipAt t c
      k.boot = { b with fwFailed := true, bootStage := 1 } ∧ k.bar = (chipAt s c).bar ∧ k.mem = (chipAt s c).mem ∧
      (k.obs.rasLog.getLast?.map fun e => field e 8 1) = some 0x0C) ∧
      ∃ r, t.nd.queue = s.nd.queue ++ [r] ∧ r.source = c.val) ∧
  (∀ (s : State) (c : Fin 8), let b := (chipAt s c).boot
    b.boots = true → b.fwRunning = true → b.hbmTrained = false → b.stuck = false →
    Runs c (.hbmTrainingFail c) s fun k o => o = [] ∧ k.boot = { b with hbmFailed := true, bootStage := 2 } ∧
      k.bar = (chipAt s c).bar ∧ k.mem = (chipAt s c).mem ∧ (k.obs.rasLog.getLast?.map fun e => field e 8 1) = some 0x0C) ∧
  (∀ (s : State) (c : Fin 8), let b := (chipAt s c).boot
    b.pstate = .resetting → b.cause.fundamental = false → b.stuck = false → b.fwRunning = true → b.perst = false →
    b.resetLine = false →
    Runs c (.resetComplete c) s fun k _ => k.boot = { b with ready := true, pstate := .idle, bootStage := 5 } ∧ k.mem = .zeroed) ∧
  (∀ (s : State) (c : Fin 8) (kind : LinkFatal), let b := (chipAt s c).boot
    b.linkL0 = true →
    Runs c (.hostLinkFatal c kind) s fun k o => o = [.aer c 2 (linkFatalName kind)] ∧
      k.boot = { b with linkFatal := true, linkL0 := false, linkL1 := false } ∧ k.stew = { (chipAt s c).stew with held := [] } ∧
      k.bar = (chipAt s c).bar ∧ k.mem = (chipAt s c).mem ∧ k.serve = (chipAt s c).serve ∧ k.eng = (chipAt s c).eng ∧
      (k.obs.rasLog.getLast?.map fun e => field e 8 1) = some 0x0A)

/-- IDLE_TIMEOUT takes an Active chip with empty queues and no held Dormant request to Idle; DORMANT_DELAY_EXPIRY of a quiet
Idle chip with a Dormant delay starts the entry; DORMANT_ENTRY_COMPLETE makes the chip Dormant, its link resting in L1 where the
host has enabled ASPM L1, and starts the exit at once where a command waits that a Dormant chip does not carry out;
NDEVAS_WAKE_MESSAGE starts the exit of a Dormant chip; WAKE_COMPLETE makes it Active; DORMANT_NOW posts 0x0002 on a chip already
Dormant and holds the request on an Active one. No register of the configuration, no stream and no memory changes. -/
def Obligations.IdleAndDormant : Prop :=
  (∀ (s : State) (c : Fin 8), (chipAt s c).boot.pstate = .active → (ctxOf s c).queuesEmpty = true →
    (chipAt s c).boot.dormantHeld = false →
    Runs c (.idleTimeout c) s fun k o => o = [] ∧ k = { chipAt s c with boot := { (chipAt s c).boot with pstate := .idle } }) ∧
  (∀ (s : State) (c : Fin 8), (chipAt s c).boot.quiet = true → ppDelay (chipAt s c).config.active.power ≠ 0 →
    Runs c (.dormantDelayExpiry c) s fun k _ => k.boot = { (chipAt s c).boot with dormantEntry := true, dormantHeld := false } ∧
      k.config = (chipAt s c).config ∧ k.serve = (chipAt s c).serve ∧ k.mem = (chipAt s c).mem) ∧
  (∀ (s : State) (c : Fin 8), let b := (chipAt s c).boot
    b.pstate = .idle → b.dormantEntry = true → b.waking = false →
    Runs c (.dormantEntryComplete c) s fun k o => o = [] ∧
      k.boot = { b with
        pstate := .dormant, dormantEntry := false, linkL1 := b.linkL0 && (chipAt s c).bar.aspmL1
        waking := decide (∃ k ∈ (chipAt s c).stew.cmds, k.phase = .fetched ∧ dormantOpcode k.opcode = false) } ∧
      k.config = (chipAt s c).config ∧ k.serve = (chipAt s c).serve ∧ k.mem = (chipAt s c).mem ∧ k.stew = (chipAt s c).stew) ∧
  (∀ (s : State) (c : Fin 8), (chipAt s c).boot.pstate = .dormant → (chipAt s c).boot.waking = false →
    Runs c (.ndevasWakeMessage c) s fun k o => o = [] ∧ k.boot = { (chipAt s c).boot with waking := true } ∧
      k.config = (chipAt s c).config ∧ k.serve = (chipAt s c).serve ∧ k.mem = (chipAt s c).mem ∧ k.stew = (chipAt s c).stew) ∧
  (∀ (s : State) (c : Fin 8), (chipAt s c).boot.pstate = .dormant → (chipAt s c).boot.waking = true →
    Runs c (.wakeComplete c) s fun k o => o = [] ∧
      k = { chipAt s c with boot :=
        { (chipAt s c).boot with pstate := .active, waking := false, dormantEntry := false, linkL1 := false } }) ∧
  (∀ (s : State) (c : Fin 8) (k : Cmd), CanRun c k s → k.opcode = 0x60 → k.arg 28 1 % 4 = 1 → (chipAt s c).boot.pstate = .dormant →
    Runs c (.dormantNow c k.id) s fun h o => Completes c (chipAt s c) k 2 0 0 o ∧ Ended k.id h ∧ h.boot = (chipAt s c).boot) ∧
  (∀ (s : State) (c : Fin 8) (k : Cmd), CanRun c k s → k.opcode = 0x60 → k.arg 28 1 % 4 = 1 → (chipAt s c).boot.pstate = .active →
    Runs c (.dormantNow c k.id) s fun h o => Completes c (chipAt s c) k 0 0 0 o ∧ Ended k.id h ∧
      h.boot = { (chipAt s c).boot with dormantHeld := true })

/-- With the link in L0 and READY 0, a write of either doorbell of any queue pair changes nothing but EARLY_DOORBELLS, which
adds 1 and saturates at 0xFFFFFFFF, and the value that the doorbell reads back (bits 15:0 of the write); nothing is sent, and no
queue pair's tail or head moves, so that no later READY acts upon it. -/
def Obligations.DoorbellsBeforeReady : Prop :=
  (∀ (s : State) (c : Fin 8) (q : Fin 64) (v : Word32) (ops : List Byte), let b := (chipAt s c).bar
    (chipAt s c).boot.linkL0 = true → (chipAt s c).boot.ready = false →
    Runs c (.sqTailDoorbellWrite c q v ops) s fun k o => o = [] ∧
      k = { chipAt s c with bar := { b with
        earlyDb := if b.earlyDb = 0xFFFFFFFF then 0xFFFFFFFF else b.earlyDb + 1
        doorbells := tset 0 b.doorbells (2 * q) (BitVec.ofNat 32 (v.toNat % 65536)) } }) ∧
  (∀ (s : State) (c : Fin 8) (q : Fin 64) (v : Word32), let b := (chipAt s c).bar
    (chipAt s c).boot.linkL0 = true → (chipAt s c).boot.ready = false →
    Runs c (.cqHeadDoorbellWrite c q v) s fun k o => o = [] ∧
      k = { chipAt s c with bar := { b with
        earlyDb := if b.earlyDb = 0xFFFFFFFF then 0xFFFFFFFF else b.earlyDb + 1
        doorbells := tset 0 b.doorbells (2 * q + 1) (BitVec.ofNat 32 (v.toNat % 65536)) } })

/-- With the link in L0 and READY set, a doorbell write changes nothing but the value that the doorbell reads back and
BAD_DOORBELLS, which adds 1 and saturates, where the queue pair does not exist, where the index in bits 15:0 is not less than
the queue's depth, or where a CQ_HEAD write would release an entry not yet posted; while READY is 0 the write falls under R51
and leaves BAD_DOORBELLS as it was. -/
def Obligations.RefusedDoorbells : Prop :=
  (∀ (s : State) (c : Fin 8) (q : Fin 64) (v : Word32) (ops : List Byte), let p := tget .none (chipAt s c).stew.qps q
    (chipAt s c).boot.linkL0 = true → (chipAt s c).boot.ready = true → (p.live = false ∨ p.sqDepth ≤ v.toNat % 65536) →
    Runs c (.sqTailDoorbellWrite c q v ops) s fun k o => o = [] ∧
      k = { chipAt s c with bar := { (chipAt s c).bar with
        badDb := if (chipAt s c).bar.badDb = 0xFFFFFFFF then 0xFFFFFFFF else (chipAt s c).bar.badDb + 1
        doorbells := tset 0 (chipAt s c).bar.doorbells (2 * q) (BitVec.ofNat 32 (v.toNat % 65536)) } }) ∧
  (∀ (s : State) (c : Fin 8) (q : Fin 64) (v : Word32), let p := tget .none (chipAt s c).stew.qps q
    (chipAt s c).boot.linkL0 = true → (chipAt s c).boot.ready = true →
    (p.live = false ∨ p.cqDepth ≤ v.toNat % 65536 ∨
      p.posted - p.released < (v.toNat % 65536 + p.cqDepth - p.released % p.cqDepth) % p.cqDepth) →
    Runs c (.cqHeadDoorbellWrite c q v) s fun k o => o = [] ∧
      k = { chipAt s c with bar := { (chipAt s c).bar with
        badDb := if (chipAt s c).bar.badDb = 0xFFFFFFFF then 0xFFFFFFFF else (chipAt s c).bar.badDb + 1
        doorbells := tset 0 (chipAt s c).bar.doorbells (2 * q + 1) (BitVec.ofNat 32 (v.toNat % 65536)) } }) ∧
  (∀ (s : State) (c : Fin 8) (q : Fin 64) (v : Word32) (ops : List Byte), (chipAt s c).boot.linkL0 = true →
    (chipAt s c).boot.ready = false →
    Runs c (.sqTailDoorbellWrite c q v ops) s (fun k _ => k.bar.badDb = (chipAt s c).bar.badDb ∧ k.stew = (chipAt s c).stew) ∧
      Runs c (.cqHeadDoorbellWrite c q v) s fun k _ => k.bar.badDb = (chipAt s c).bar.badDb ∧ k.stew = (chipAt s c).stew)

/-- With the link in L0, READY set and the queue pair live, SQ_TAIL with an index below the depth makes it the pair's tail and
keeps it to be read back, and wakes a Dormant chip where the tail moves over an entry of a command that a Dormant chip does not
carry out; CQ_HEAD with an index below the depth that releases no unposted entry adds the entries up to the head to those
released. No other queue pair, register block, stream or memory changes on an SQ_TAIL write. -/
def Obligations.AcceptedDoorbells : Prop :=
  (∀ (s : State) (c : Fin 8) (q : Fin 64) (v : Word32) (ops : List Byte), let p := tget .none (chipAt s c).stew.qps q
    (chipAt s c).boot.linkL0 = true → (chipAt s c).boot.ready = true → p.live = true → v.toNat % 65536 < p.sqDepth →
    Runs c (.sqTailDoorbellWrite c q v ops) s fun k o => o = [] ∧
      tget .none k.stew.qps q = { p with tail := v.toNat % 65536 } ∧
      (∀ r, r ≠ q.val → tget .none k.stew.qps r = tget .none (chipAt s c).stew.qps r) ∧
      (tget 0 k.bar.doorbells (2 * q.val)).toNat = v.toNat % 65536 ∧ k.stew.cmds = (chipAt s c).stew.cmds ∧
      k.config = (chipAt s c).config ∧ k.serve = (chipAt s c).serve ∧ k.eng = (chipAt s c).eng ∧ k.mem = (chipAt s c).mem ∧
      ((chipAt s c).boot.pstate = .dormant → (chipAt s c).boot.waking = false →
        k.boot.waking = decide (p.tail ≠ v.toNat % 65536 ∧ ∃ o ∈ ops, dormantOpcode o.toNat = false))) ∧
  (∀ (s : State) (c : Fin 8) (q : Fin 64) (v : Word32), let p := tget .none (chipAt s c).stew.qps q
    let n := (v.toNat % 65536 + p.cqDepth - p.released % p.cqDepth) % p.cqDepth
    (chipAt s c).boot.linkL0 = true → (chipAt s c).boot.ready = true → p.live = true → v.toNat % 65536 < p.cqDepth →
    n ≤ p.posted - p.released → (chipAt s c).stew.held = [] → (chipAt s c).stew.cmds = [] → q ≠ 0 → (chipAt s c).stew.events = [] →
    Runs c (.cqHeadDoorbellWrite c q v) s fun k o => o = [] ∧
      tget .none k.stew.qps q = { p with released := p.released + n } ∧
      (tget 0 k.bar.doorbells (2 * q.val + 1)).toNat = v.toNat % 65536 ∧ k.boot = (chipAt s c).boot ∧
      k.config = (chipAt s c).config ∧ k.serve = (chipAt s c).serve ∧ k.eng = (chipAt s c).eng ∧ k.mem = (chipAt s c).mem)

/-- On a READY chip with no change in progress and queue pair 0 not enabled, a QP0_CONTROL write with ENABLE set starts an
enabling with the register values of that moment, IRQ_ENABLE and VECTOR stored; QP0_ENABLING_COMPLETE of valid values makes the
pair with both queues empty and ENABLED 1, and of invalid values sets SETUP_ERROR and leaves ENABLED 0; QP0_DISABLING_COMPLETE
with no fetched or held command of the pair clears ENABLED and the pair is gone. -/
def Obligations.QueuePairZeroControl : Prop :=
  (∀ (s : State) (c : Fin 8) (v : Word32), let b := (chipAt s c).bar
    (chipAt s c).boot.linkL0 = true → (chipAt s c).boot.ready = true → b.change = none → b.enabled = false → b.needsToggle = false →
    v.toNat.testBit 0 = true →
    Runs c (.qp0ControlWrite c v) s fun k o => o = [] ∧ k.bar.change = some true ∧ k.bar.latched = (b.sqBase, b.cqBase, b.depth) ∧
      k.bar.enable = true ∧ k.bar.enabled = false ∧ k.bar.irqEnable = v.toNat.testBit 3 ∧ k.bar.vector.toNat = v.toNat / 65536 % 2048 ∧
      k.bar.setupError = (!v.toNat.testBit 2 && b.setupError) ∧ k.boot = (chipAt s c).boot ∧ k.stew = (chipAt s c).stew ∧
      k.config = (chipAt s c).config ∧ k.serve = (chipAt s c).serve ∧ k.mem = (chipAt s c).mem) ∧
  (∀ (s : State) (c : Fin 8), let b := (chipAt s c).bar
    b.change = some true → qp0Valid b.latched = true → b.enable = true → (chipAt s c).stew.events = [] →
    Runs c (.qp0EnablingComplete c) s fun k o => o = [] ∧ k.bar = { b with enabled := true, change := none } ∧
      tget .none k.stew.qps 0 = { QPair.none with
        live := true, irqEnable := b.irqEnable, vector := b.vector.toNat, sqDepth := b.latched.2.2.toNat % 65536
        cqDepth := b.latched.2.2.toNat / 65536, sqBase := b.latched.1.toNat, cqBase := b.latched.2.1.toNat }) ∧
  (∀ (s : State) (c : Fin 8), let b := (chipAt s c).bar
    b.change = some true → qp0Valid b.latched = false → b.enable = true → b.enabled = false →
    Runs c (.qp0EnablingComplete c) s fun k o => o = [] ∧
      k = { chipAt s c with bar := { b with setupError := true, change := none, needsToggle := true } }) ∧
  (∀ (s : State) (c : Fin 8), let b := (chipAt s c).bar
    b.change = some false → b.enable = false → (∀ k ∈ (chipAt s c).stew.cmds, k.qp ≠ 0) → (∀ k ∈ (chipAt s c).stew.held, k.qp ≠ 0) →
    Runs c (.qp0DisablingComplete c) s fun k o => o = [] ∧ k.bar = { b with enabled := false, change := none } ∧
      (tget .none k.stew.qps 0).live = false ∧ k.stew.cmds = (chipAt s c).stew.cmds)

/-- With the link in L0: a read of EARLY_DOORBELLS or BAD_DOORBELLS answers the count and clears it; an aligned register write
of QP0_DEPTHS stores the value while queue pair 0 is not enabled and is ignored while it is; a write of an address below 0x20000
that is no writable register is ignored; an access that is not an aligned 32-bit one changes nothing but the ledger of energy,
and answers zeros to a read. HEARTBEAT adds 1 modulo 2^32 while firmware runs. -/
def Obligations.Bar0Accesses : Prop :=
  (∀ (s : State) (c : Fin 8), (chipAt s c).boot.linkL0 = true →
    Runs c (.earlyDoorbellsRead c) s (fun k o => o = [.readAnswer c (some (toLE 4 (chipAt s c).bar.earlyDb.toNat)) false] ∧
      k = { chipAt s c with bar := { (chipAt s c).bar with earlyDb := 0 }, ledger := k.ledger }) ∧
    Runs c (.badDoorbellsRead c) s fun k o => o = [.readAnswer c (some (toLE 4 (chipAt s c).bar.badDb.toNat)) false] ∧
      k = { chipAt s c with bar := { (chipAt s c).bar with badDb := 0 }, ledger := k.ledger }) ∧
  (∀ (s : State) (c : Fin 8) (v : Word32), (chipAt s c).boot.linkL0 = true →
    Runs c (.registerWrite c 0x30 v) s fun k o => o = [] ∧
      k = { chipAt s c with bar := { (chipAt s c).bar with
        depth := if (chipAt s c).bar.enabled = true then (chipAt s c).bar.depth else v } }) ∧
  (∀ (s : State) (c : Fin 8) (v : Word32) (off : BitVec 18), (chipAt s c).boot.linkL0 = true → off.toNat < 0x20000 →
    ¬(0x20 ≤ off.toNat ∧ off.toNat ≤ 0x30) → Runs c (.registerWrite c off v) s fun k o => o = [] ∧ k = chipAt s c) ∧
  (∀ (s : State) (c : Fin 8) (w : Bool) (off : BitVec 18) (len : Nat), (chipAt s c).boot.linkL0 = true →
    ¬(off.toNat % 4 = 0 ∧ len = 4) →
    Runs c (.bar0NonalignedAccess c w off len) s fun k o => k = { chipAt s c with ledger := k.ledger } ∧
      o = if w then [] else [.readAnswer c (some (zeroBytes len)) false]) ∧
  (∀ (s : State) (c : Fin 8), (chipAt s c).boot.fwRunning = true →
    Runs c (.heartbeatTick c) s fun k o => o = [] ∧
      k = { chipAt s c with bar := { (chipAt s c).bar with heartbeat := (chipAt s c).bar.heartbeat + 1 } })

/-- Outside a Lull, unmasking the one pending vector with MSI-X enabled sends its message and clears it from the pending bits;
IRQ_TIME_EXPIRY of a pair with unsignalled completions sends the message of its unmasked vector and clears the count. A
configuration read is answered RRS until firmware runs, then with the register, by the boot ROM after FW_FAILED. -/
def Obligations.SignallingAndConfiguration : Prop :=
  (∀ (s : State) (c : Fin 8) (v : Fin 2048), let b := (chipAt s c).bar
    (chipAt s c).boot.linkL0 = true → (chipAt s c).boot.linkFatal = false → (chipAt s c).obs.lull ≠ .frozen → b.msixEnable = true →
    b.functionMask = false → b.pba = [v.val] →
    Runs c (.msixVectorUnmask c (.vector v)) s fun k o =>
      o = [.msix c v (tget .initial b.msix v).addr (tget .initial b.msix v).data] ∧ k.bar.pba = [] ∧
      tget .initial k.bar.msix v = { tget .initial b.msix v with masked := false } ∧ k.boot = (chipAt s c).boot ∧
      k.stew = (chipAt s c).stew ∧ k.mem = (chipAt s c).mem) ∧
  (∀ (s : State) (c : Fin 8) (q : Fin 64), let b := (chipAt s c).bar
    let p := tget .none (chipAt s c).stew.qps q
    (chipAt s c).boot.linkFatal = false → (chipAt s c).obs.lull ≠ .frozen → b.msixEnable = true → b.functionMask = false →
    p.live = true → p.unsignalled ≠ 0 →
    (tget .initial b.msix p.vector).masked = false →
    Runs c (.irqTimeExpiry c q) s fun k o =>
      o = [.msix c p.vector (tget .initial b.msix p.vector).addr (tget .initial b.msix p.vector).data] ∧
      tget .none k.stew.qps q = { p with unsignalled := 0 } ∧ k.bar = b ∧ k.boot = (chipAt s c).boot ∧ k.mem = (chipAt s c).mem) ∧
  (∀ (s : State) (c : Fin 8) (off : Nat), (chipAt s c).boot.linkL0 = true →
    Runs c (.configurationRequest c (.read off)) s fun k o => k = chipAt s c ∧
      o = [if (chipAt s c).boot.fwFailed = true then .cfgAnswer c false true (tget 0 (chipAt s c).bar.cfg off)
        else if (chipAt s c).boot.fwRunning = true then .cfgAnswer c false false (tget 0 (chipAt s c).bar.cfg off)
        else .cfgAnswer c true false 0]) ∧
  (∀ (s : State) (c : Fin 8) (off : Nat) (v : Word32), (chipAt s c).boot.linkL0 = true → (chipAt s c).boot.fwRunning = true →
    Runs c (.configurationRequest c (.write off v)) s fun k o => o = [] ∧ tget 0 k.bar.cfg off = v ∧
      k.boot = (chipAt s c).boot ∧ k.stew = (chipAt s c).stew ∧ k.mem = (chipAt s c).mem)

/-- ARGUMENT_READ_ERROR of a fetched command with an argument structure completes it with 0x0403 and changes no state of the
machine but the command's own end and the log; SUBMISSION_READ_ERROR on a queue pair that is fetched from advances the fetch
position by one modulo the depth and posts 0x0403 with TAG 0xFFFF and the pair's number. -/
def Obligations.ReadErrorsOfEntriesAndArguments : Prop :=
  (∀ (s : State) (c : Fin 8) (k : Cmd), CanRun c k s → k.dataPtr ≠ 0 →
    Runs c (.argumentReadError c k.id) s fun h o => Completes c (chipAt s c) k 0x0403 0 0 o ∧ Ended k.id h ∧
      h.boot = (chipAt s c).boot ∧
      h.config = (chipAt s c).config ∧ h.serve = (chipAt s c).serve ∧ h.eng = (chipAt s c).eng ∧ h.mem = (chipAt s c).mem ∧
      h.fab = (chipAt s c).fab ∧ h.power = (chipAt s c).power) ∧
  (∀ (s : State) (c : Fin 8) (q : Fin 64), let p := tget .none (chipAt s c).stew.qps q
    (ctxOf s c).canFetch q = true → (ctxOf s c).canPost q false = true → (∀ h ∈ (chipAt s c).stew.held, h.qp ≠ q.val) →
    Runs c (.submissionReadError c q) s fun h o =>
      Out.hostWrite c (p.cqBase + 32 * (p.posted % p.cqDepth))
        (cplBytes { p with fetch := (p.fetch + 1) % p.sqDepth }
          ⟨q, 0x0403, 0xFFFF, 0, 0, false, false, (chipAt s c).fab.time.toNat, (chipAt s c).stew.nextId, 0⟩) false false ∈ o ∧
      (tget .none h.stew.qps q).fetch = (p.fetch + 1) % p.sqDepth ∧ h.stew.cmds = (chipAt s c).stew.cmds ∧
      h.config = (chipAt s c).config ∧ h.serve = (chipAt s c).serve ∧ h.eng = (chipAt s c).eng ∧ h.mem = (chipAt s c).mem)

/-- SUBMISSION_FETCH on a pair that is fetched from (03 R70, R73), of a chip not being isolated, with an entry whose header
passes, adds the entry to the fetched commands, writes PENDING to its result buffer where it names one, and advances the fetch
position by one: an entry of any opcode but STREAM_CANCEL only waits to be started, and wakes a Dormant chip that does not carry
it out; a STREAM_CANCEL with no other command fetched ends at its fetch on an awake chip. An entry that fails a check is not
added: its status is posted, and the fetch position advances. IDENTIFY with HOST_MAJOR 1 on queue pair 0 fixes the agreed minor
version; QUEUE_CREATE of free pair within its Super, with values in range, makes the pair with its parameters; QUEUE_DELETE of a
pair with no fetched or held command removes it; each completes. -/
def Obligations.FetchingAndQueuePairs : Prop :=
  (∀ (s : State) (c : Fin 8) (q : Fin 64) (e : Bytes), let p := tget .none (chipAt s c).stew.qps q
    let b := (chipAt s c).boot
    (ctxOf s c).canFetch q = true → b.isolating = false → headerStatus (ctxOf s c) q (fit 64 e) = none → byteAt (fit 64 e) 0 ≠ 0x22 →
    Runs c (.submissionFetch c q e) s fun h o =>
      h.stew.cmds = (chipAt s c).stew.cmds ++ [⟨(chipAt s c).stew.nextId, q, fit 64 e, .fetched⟩] ∧
      tget .none h.stew.qps q = { p with fetch := (p.fetch + 1) % p.sqDepth } ∧
      o = (if field (fit 64 e) 16 8 = 0 then [] else [.hostWrite c (field (fit 64 e) 16 8)
        (toLE 2 1 ++ toLE 2 (field (fit 64 e) 2 2) ++ zeroBytes 12) false false]) ∧
      (dormantOpcode (byteAt (fit 64 e) 0) = true ∨ b.pstate = .active → h.boot = b) ∧
      (dormantOpcode (byteAt (fit 64 e) 0) = false → b.pstate = .dormant → h.boot = { b with waking := true }) ∧
      h.config = (chipAt s c).config ∧ h.serve = (chipAt s c).serve ∧ h.mem = (chipAt s c).mem) ∧
  (∀ (s : State) (c : Fin 8) (q : Fin 64) (e : Bytes), let p := tget .none (chipAt s c).stew.qps q
    (ctxOf s c).canFetch q = true → (chipAt s c).boot.isolating = false → headerStatus (ctxOf s c) q (fit 64 e) = none →
    byteAt (fit 64 e) 0 = 0x22 → (ctxOf s c).awake = true → (chipAt s c).boot.waking = false → (chipAt s c).boot.dormantEntry = false →
    (chipAt s c).stew.cmds = [] → (chipAt s c).stew.held = [] →
    Runs c (.submissionFetch c q e) s fun h _ => h.stew.cmds = [] ∧ (tget .none h.stew.qps q).fetch = (p.fetch + 1) % p.sqDepth ∧
      h.boot = (chipAt s c).boot ∧ h.config = (chipAt s c).config) ∧
  (∀ (s : State) (c : Fin 8) (q : Fin 64) (e : Bytes) (st : Nat), let p := tget .none (chipAt s c).stew.qps q
    (ctxOf s c).canFetch q = true → (chipAt s c).boot.isolating = false → headerStatus (ctxOf s c) q (fit 64 e) = some st →
    (ctxOf s c).canPost q false = true → (∀ h ∈ (chipAt s c).stew.held, h.qp ≠ q.val) →
    Runs c (.submissionFetch c q e) s fun h o => h.stew.cmds = (chipAt s c).stew.cmds ∧
      Out.hostWrite c (p.cqBase + 32 * (p.posted % p.cqDepth))
        (cplBytes { p with fetch := (p.fetch + 1) % p.sqDepth }
          ⟨q, st, field (fit 64 e) 2 2, 0, 0, false, bitAt (fit 64 e) 1 1, (chipAt s c).fab.time.toNat, (chipAt s c).stew.nextId, 0⟩)
        false false ∈ o ∧
      (tget .none h.stew.qps q).fetch = (p.fetch + 1) % p.sqDepth ∧
      h.boot = (chipAt s c).boot ∧ h.config = (chipAt s c).config ∧ h.serve = (chipAt s c).serve ∧ h.mem = (chipAt s c).mem) ∧
  (∀ (s : State) (c : Fin 8) (k : Cmd), CanRun c k s → k.opcode = 0x01 → k.qp = 0 → k.arg 28 1 = 1 →
    Runs c (.identify c k.id) s fun h o => Completes c (chipAt s c) k 0 0 0 o ∧ Ended k.id h ∧
      h.stew.agreed = some (BitVec.ofNat 8 (min (k.arg 29 1) (chipAt s c).boot.ifMinor.toNat)) ∧ h.boot = (chipAt s c).boot ∧
      h.config = (chipAt s c).config ∧ h.serve = (chipAt s c).serve ∧ h.mem = (chipAt s c).mem) ∧
  (∀ (s : State) (c : Fin 8) (k : Cmd), let q := k.arg 28 1 % 64
    let m := (chipAt s c).config.active.superMap
    let u := k.arg 29 1 % 8
    CanRun c k s → k.opcode = 0x02 → k.qp ≠ q → q ≠ 0 → (tget .none (chipAt s c).stew.qps q).live = false → superDefined m u = true →
    superQpBase m u ≤ q → q < superQpBase m u + superQpCount m u → 1 ≤ k.arg 30 1 % 16 → k.arg 30 1 % 16 ≤ 8 →
    2 ≤ k.arg 36 2 → k.arg 36 2 ≤ 4096 → 2 ≤ k.arg 38 2 → k.arg 38 2 ≤ 4096 → k.arg 32 2 ≤ 1023 → k.arg 34 2 ≤ 2047 →
    k.arg 40 8 % 4096 = 0 → k.arg 48 8 % 4096 = 0 → (∀ j ∈ (chipAt s c).stew.cmds, j.phase = .running → j.opcode ≠ 0x03) →
    Runs c (.queueCreate c k.id) s fun h o => Completes c (chipAt s c) k 0 0 0 o ∧ Ended k.id h ∧
      tget .none h.stew.qps q = { QPair.none with
        live := true, super := u, weight := k.arg 30 1 % 16, irqEnable := (k.arg 30 1).testBit 4, irqCount := k.arg 31 1
        irqTime := k.arg 32 2, vector := k.arg 34 2, sqDepth := k.arg 36 2, cqDepth := k.arg 38 2, sqBase := k.arg 40 8
        cqBase := k.arg 48 8 } ∧ h.boot = (chipAt s c).boot ∧
      h.config = (chipAt s c).config ∧ h.serve = (chipAt s c).serve ∧ h.mem = (chipAt s c).mem) ∧
  (∀ (s : State) (c : Fin 8) (k : Cmd), let q := k.arg 28 1 % 64
    CanRun c k s → k.opcode = 0x03 → q ≠ 0 → (tget .none (chipAt s c).stew.qps q).live = false →
    Runs c (.queueDelete c k.id) s fun h o => Completes c (chipAt s c) k 2 0 0 o ∧ Ended k.id h) ∧
  (∀ (s : State) (c : Fin 8) (k : Cmd), let q := k.arg 28 1 % 64
    CanRun c k s → k.opcode = 0x03 → q ≠ 0 → k.qp ≠ q → (tget .none (chipAt s c).stew.qps q).live = true →
    (chipAt s c).stew.cmds = [k] → (∀ h ∈ (chipAt s c).stew.held, h.qp ≠ q) →
    Runs c (.queueDelete c k.id) s fun h o => Completes c (chipAt s c) k 0 0 0 o ∧ Ended k.id h ∧
      (tget .none h.stew.qps q).live = false ∧ h.serve = (chipAt s c).serve ∧ h.mem = (chipAt s c).mem)

/-- With the link in L0: a BAR2 write that lies in a mapped range stores its bytes at the data-space address of that range,
every other byte of HBM and every byte of every Comb store reading as before, and no register block but the counters, the log
and the events changes; a BAR2 read of such a range of an HBM without errors answers the bytes and changes nothing but the
ledger of energy; an access outside a mapped range stores nothing, is reported as an Unsupported Request, and a read of it is
answered without data. -/
def Obligations.PeerWindow : Prop :=
  (∀ (s : State) (c : Fin 8) (off : BitVec 34) (data : Bytes) (a : Nat), (chipAt s c).boot.linkL0 = true →
    (ctxOf s c).bar2Addr off.toNat data.length = some a →
    Runs c (.bar2Write c off data) s fun k _ =>
      (∀ b, (k.mem.store .hbm).read b =
        if a ≤ b ∧ b < a + data.length then data.getD (b - a) 0 else ((chipAt s c).mem.store .hbm).read b) ∧
      (∀ d : Fin 4, ∀ b, (k.mem.store (.sram d)).read b = ((chipAt s c).mem.store (.sram d)).read b) ∧
      k.boot = (chipAt s c).boot ∧ k.config = (chipAt s c).config ∧ k.serve = (chipAt s c).serve ∧ k.fab = (chipAt s c).fab ∧
      k.power = (chipAt s c).power) ∧
  (∀ (s : State) (c : Fin 8) (off : BitVec 34) (data : Bytes), (chipAt s c).boot.linkL0 = true →
    (ctxOf s c).bar2Addr off.toNat data.length = none →
    Runs c (.bar2Write c off data) s fun k o => o = [.aer c 1 "Unsupported Request"] ∧ k.mem = (chipAt s c).mem ∧
      k.boot = (chipAt s c).boot ∧ k.bar = (chipAt s c).bar ∧ k.stew = (chipAt s c).stew ∧ k.config = (chipAt s c).config ∧
      k.serve = (chipAt s c).serve ∧ k.eng = (chipAt s c).eng) ∧
  (∀ (s : State) (c : Fin 8) (off : BitVec 34) (len a : Nat), (chipAt s c).boot.linkL0 = true →
    (ctxOf s c).bar2Addr off.toNat len = some a → (chipAt s c).mem.hbm.poison = [] → (chipAt s c).mem.hbm.ue = [] →
    (chipAt s c).mem.hbm.ce = [] → (chipAt s c).mem.hbm.onDie = [] →
    Runs c (.bar2Read c off len) s fun k o => o = [.readAnswer c (some ((chipAt s c).mem.hbm.readN a len)) false] ∧
      k = { chipAt s c with ledger := k.ledger }) ∧
  (∀ (s : State) (c : Fin 8) (off : BitVec 34) (len : Nat), (chipAt s c).boot.linkL0 = true →
    (ctxOf s c).bar2Addr off.toNat len = none →
    Runs c (.bar2Read c off len) s fun k o => o = [.readAnswer c none false, .aer c 1 "Unsupported Request"] ∧
      k.mem = (chipAt s c).mem ∧ k.boot = (chipAt s c).boot ∧ k.stew = (chipAt s c).stew)

/-- On a READY chip that is neither frozen nor Dormant nor in a quiet window, SCRUB_READ of an HBM granule with an uncorrectable
error marks it poisoned and removes the error, no byte changing; ECC_WRITE_BACK of a unit with a pending correction removes the
correction, no byte changing; outside a Lull, HOST_READ_TIMEOUT reports a Completion Timeout: of CONSUMER nothing else changes,
of a command's argument structure the command ends with 0x0403. -/
def Obligations.ScrubbingAndHostReads : Prop :=
  (∀ (s : State) (c : Fin 8) (g : Nat), (chipAt s c).boot.ready = true → (chipAt s c).boot.pstate = .idle →
    (chipAt s c).obs.lull ≠ .frozen → (chipAt s c).power.quietWin = none → g < hbmSize → g % 64 = 0 →
    (chipAt s c).mem.hbm.ue = [g] → (chipAt s c).mem.hbm.poison = [] →
    Runs c (.scrubRead c (.hbm g)) s fun k _ => k.mem.hbm.ue = [] ∧ k.mem.hbm.poison = [g] ∧
      (∀ b, k.mem.hbm.read b = (chipAt s c).mem.hbm.read b) ∧ k.boot = (chipAt s c).boot ∧ k.config = (chipAt s c).config ∧
      k.serve = (chipAt s c).serve) ∧
  (∀ (s : State) (c : Fin 8) (a : Nat), (chipAt s c).mem.hbm.fix = [a] →
    Runs c (.eccWriteBack c (.hbm a)) s fun k _ => k.mem.hbm.fix = [] ∧
      (∀ b, k.mem.hbm.read b = (chipAt s c).mem.hbm.read b) ∧ k.mem.hbm.poison = (chipAt s c).mem.hbm.poison ∧
      k.mem.hbm.ue = (chipAt s c).mem.hbm.ue ∧ k.boot = (chipAt s c).boot ∧ k.config = (chipAt s c).config ∧
      k.serve = (chipAt s c).serve ∧ k.eng = (chipAt s c).eng) ∧
  (∀ (s : State) (c : Fin 8), (chipAt s c).boot.linkL0 = true → (chipAt s c).obs.lull ≠ .frozen →
    Runs c (.hostReadTimeout c .consumer) s fun k o => o = [.aer c 1 "Completion Timeout"] ∧ k = chipAt s c) ∧
  (∀ (s : State) (c : Fin 8) (k : Cmd), CanRun c k s → k.dataPtr ≠ 0 → (chipAt s c).boot.linkL0 = true →
    Runs c (.hostReadTimeout c (.argument k.id)) s fun h o => Completes c (chipAt s c) k 0x0403 0 0 o ∧ Ended k.id h ∧
      Out.aer c 1 "Completion Timeout" ∈ o ∧ h.serve = (chipAt s c).serve ∧ h.mem = (chipAt s c).mem)

/-- FORAGER_COPY on queue pair 0 for a defined Super with 1 to 4,096 descriptors that pass every check becomes a running copy of
that many descriptors and posts nothing yet, and where the Forager queues have room it makes an Idle chip Active;
COPY_DESCRIPTOR on an idle Forager of an awake chip outside a Lull and outside a calibration takes the descriptor at the head of
its queue, and a copy of one row from the host to HBM stores exactly the row's bytes at the destination;
COPY_DESCRIPTOR_COMPLETE of a Forager whose WRITEs are all answered makes it idle, and the last descriptor of a copy without
failures completes the command. -/
def Obligations.ForagerCopies : Prop :=
  (∀ (s : State) (c : Fin 8) (k : Cmd) (data : Bytes), CanRun c k s → k.opcode = 0x50 → k.qp = 0 →
    superDefined (chipAt s c).config.active.superMap (k.arg 28 1 % 8) = true → 1 ≤ k.arg 32 4 → k.arg 32 4 ≤ 4096 →
    (ctxOf s c).copyFail (k.arg 28 1 % 8) (chunks (k.arg 32 4) 64 (fit (64 * k.arg 32 4) data)) = none →
    Runs c (.foragerCopy c k.id data) s fun h o => o = [] ∧ h.eng.copies = (chipAt s c).eng.copies ++ [⟨k.id, k.arg 32 4, none, 0⟩] ∧
      (h.stew.cmds.find? fun j => j.id == k.id) = some { k with phase := .running } ∧
      ((chipAt s c).boot.pstate = .active → h.boot = (chipAt s c).boot) ∧
      ((chipAt s c).boot.pstate = .idle → (∀ f, (tget .idle (chipAt s c).eng.foragers f).queue.length < 64) →
        h.boot = { (chipAt s c).boot with pstate := .active, dormantEntry := false, waking := false }) ∧
      h.config = (chipAt s c).config ∧ h.serve = (chipAt s c).serve ∧ h.mem = (chipAt s c).mem) ∧
  (∀ (s : State) (c : Fin 8) (f : Fin 16) (host : Bytes) (j : CopyJob) (r : List CopyJob),
    let v := tget .idle (chipAt s c).eng.foragers f
    let a := sliceBase (chipAt s c).config.active.superMap j.super + cDstAddr j.bytes
    (chipAt s c).boot.pstate = .active → (chipAt s c).obs.lull ≠ .frozen → (chipAt s c).power.quiet = .none →
    (chipAt s c).eng.backlog = [] → v.running = none → v.queue = j :: r → j.step = none → cSrc j.bytes = 0 → cDst j.bytes = 1 →
    cRows j.bytes = 1 →
    Runs c (.copyDescriptor c f host []) s fun k _ => (tget .idle k.eng.foragers f).running = some j ∧
      (∀ b, (k.mem.store .hbm).read b = if a ≤ b ∧ b < a + cRowBytes j.bytes then (fit (cRowBytes j.bytes) host).getD (b - a) 0
        else ((chipAt s c).mem.store .hbm).read b) ∧
      k.boot = (chipAt s c).boot ∧ k.config = (chipAt s c).config ∧ k.stew.cmds = (chipAt s c).stew.cmds) ∧
  (∀ (s : State) (c : Fin 8) (f : Fin 16) (j : CopyJob) (k : Cmd), let v := tget .idle (chipAt s c).eng.foragers f
    v.running = some j → v.unacked = [] → v.failed = none → (chipAt s c).obs.lull ≠ .frozen → (chipAt s c).boot.pstate = .active →
    j.step = none → j.cmd = some k.id → (chipAt s c).eng.copies = [⟨k.id, 1, none, 0⟩] → (ctxOf s c).cmd? k.id = some k →
    (ctxOf s c).canPost k.qp false = true → (∀ h ∈ (chipAt s c).stew.held, h.qp ≠ k.qp) →
    Runs c (.copyDescriptorComplete c f) s fun h o => (tget .idle h.eng.foragers f).running = none ∧ h.eng.copies = [] ∧
      Completes c (chipAt s c) k 0 0 0 o ∧ Ended k.id h ∧ h.mem = (chipAt s c).mem ∧ h.config = (chipAt s c).config)

/-- Each of SUPER_CONFIG, CONFIG_WRITE_SHADOW of sections 0x1 to 0x6, POWER_POLICY (write), FABRIC_ROUTE_SET, COUNTER_SELECT
(write) and LULL_ARM whose image passes the section's check writes that section of the shadow set alone, adds 1 to SHADOW_GEN,
leaves the active set and ACTIVE_GEN as they were, and completes with the new SHADOW_GEN in RESULT0; where the check fails it
completes with the check's status and RESULT0 and changes no configuration. Section 0x0 copies the active set. MICROPROGRAM_LOAD
of an image that passes its checks into a named loadable slot writes that slot alone; CLEAR empties it. No memory, stream or
step changes. -/
def Obligations.ShadowWrites : Prop :=
  (∀ (s : State) (c : Fin 8) (k : Cmd) (data : Bytes), CanRun c k s →
    ∀ e ∈ [(Instr.superConfig c k.id data, 0x10, 1), (.configWriteShadow c k.id data, 0x11, k.arg 28 1 % 16),
      (.powerPolicyWrite c k.id data, 0x60, 2), (.fabricRouteSet c k.id data, 0x80, 3), (.counterSelectWrite c k.id data, 0x70, 4),
      (.lullArm c k.id data, 0x71, 6)],
    let g := (chipAt s c).config
    let m := imgOf (fit (sectionLen e.2.2) data)
    k.opcode = e.2.1 → (e.2.1 = 0x60 ∨ e.2.1 = 0x70 → k.arg 28 1 % 4 = 0) → (e.2.1 = 0x11 → k.arg 28 1 % 16 ≠ 0) →
    match (ctxOf s c).sectionCheck e.2.2 m with
    | none => Runs c e.1 s fun h o => Completes c (chipAt s c) k 0 (g.shadowGen + 1).toNat 0 o ∧ Ended k.id h ∧
        h.config = { g with shadow := g.shadow.setSect e.2.2 m, shadowGen := g.shadowGen + 1 } ∧ h.boot = (chipAt s c).boot ∧
        h.serve = (chipAt s c).serve ∧ h.eng = (chipAt s c).eng ∧ h.mem = (chipAt s c).mem ∧ h.fab = (chipAt s c).fab ∧
        h.power = (chipAt s c).power
    | some r => Runs c e.1 s fun h o => Completes c (chipAt s c) k r.1 r.2 0 o ∧ Ended k.id h ∧ h.config = g ∧
        h.serve = (chipAt s c).serve ∧ h.eng = (chipAt s c).eng ∧ h.mem = (chipAt s c).mem ∧ h.fab = (chipAt s c).fab ∧
        h.power = (chipAt s c).power) ∧
  (∀ (s : State) (c : Fin 8) (k : Cmd) (data : Bytes), CanRun c k s → k.opcode = 0x11 → k.arg 28 1 % 16 = 0 →
    let g := (chipAt s c).config
    Runs c (.configWriteShadow c k.id data) s fun h o => Completes c (chipAt s c) k 0 (g.shadowGen + 1).toNat 0 o ∧ Ended k.id h ∧
      h.config = { g with shadow := g.active, shadowGen := g.shadowGen + 1 } ∧ h.serve = (chipAt s c).serve ∧
      h.mem = (chipAt s c).mem) ∧
  (∀ (s : State) (c : Fin 8) (k : Cmd) (data : Bytes) (n : Nat), CanRun c k s → k.opcode = 0x90 → k.arg 28 1 = n → 16 ≤ n → n < 64 →
    slotCheck n (fit 448 data) = none →
    let g := (chipAt s c).config
    Runs c (.microprogramLoad c k.id data) s fun h o =>
      Completes c (chipAt s c) k 0 (g.shadowGen + 1).toNat (n + if iDecls (fit 448 data) = 0 then 0 else 256) o ∧ Ended k.id h ∧
      h.config = { g with
        shadow := { g.shadow with micro := imgWrite g.shadow.micro (448 * (n - 16)) (fit 448 data) }, shadowGen := g.shadowGen + 1 } ∧
      h.serve = (chipAt s c).serve ∧ h.eng = (chipAt s c).eng ∧ h.mem = (chipAt s c).mem) ∧
  (∀ (s : State) (c : Fin 8) (k : Cmd) (n : Nat), CanRun c k s → k.opcode = 0x90 → k.arg 28 1 = 128 + n → 16 ≤ n → n < 64 →
    let g := (chipAt s c).config
    Runs c (.microprogramClear c k.id) s fun h o => Completes c (chipAt s c) k 0 (g.shadowGen + 1).toNat n o ∧ Ended k.id h ∧
      h.config = { g with
        shadow := { g.shadow with micro := imgWrite g.shadow.micro (448 * (n - 16)) (zeroBytes 448) }, shadowGen := g.shadowGen + 1 } ∧
      h.serve = (chipAt s c).serve ∧ h.eng = (chipAt s c).eng ∧ h.mem = (chipAt s c).mem)

/-- CONFIG_COMMIT with another EXPECTED_SHADOW_GEN completes with 0x0203, one that fails a check with 0x0204 and the check in
RESULT0, and both leave both sets as they were. One that passes with no route change, while no step is dispatched or waits and
(where it moves a Super) HBM holds no error, exchanges every section that differs at once, so that the two sets change places,
adds 1 to both generations and completes with the new ACTIVE_GEN. One whose Super map alone differs while a step is dispatched
stays running; CONFIG_SECTION_EXCHANGE of a power policy that waits alone exchanges it whole, raises the generations and
completes the commit. -/
def Obligations.Commits : Prop :=
  (∀ (s : State) (c : Fin 8) (k : Cmd), CanRun c k s → k.opcode = 0x12 → k.arg 28 4 ≠ (chipAt s c).config.shadowGen.toNat →
    Runs c (.configCommit c k.id) s fun h o => Completes c (chipAt s c) k 0x0203 0 0 o ∧ Ended k.id h ∧
      h.config = (chipAt s c).config ∧ h.serve = (chipAt s c).serve ∧ h.mem = (chipAt s c).mem) ∧
  (∀ (s : State) (c : Fin 8) (k : Cmd) (n i d : Nat), CanRun c k s → k.opcode = 0x12 →
    k.arg 28 4 = (chipAt s c).config.shadowGen.toNat → (ctxOf s c).commitCheck = some (n, i, d) →
    Runs c (.configCommit c k.id) s fun h o => Completes c (chipAt s c) k 0x0204 (n + 256 * i + 65536 * d) 0 o ∧ Ended k.id h ∧
      h.config = (chipAt s c).config ∧ h.serve = (chipAt s c).serve ∧ h.mem = (chipAt s c).mem) ∧
  (∀ (s : State) (c : Fin 8) (k : Cmd), let g := (chipAt s c).config
    CanRun c k s → k.opcode = 0x12 → k.arg 28 4 = g.shadowGen.toNat → (ctxOf s c).commitCheck = none →
    g.shadow.routes = g.active.routes → g.pendingRoutes = [] → (chipAt s c).serve.steps = [] → (ctxOf s c).drained = true →
    (g.shadow.superMap = g.active.superMap ∨ (chipAt s c).mem.hbm.ue = [] ∧ (chipAt s c).mem.hbm.onDie = []) →
    Runs c (.configCommit c k.id) s fun h o =>
      Completes c (chipAt s c) k 0 (g.activeGen + 1).toNat (imgField g.active.routes 0 4) o ∧ Ended k.id h ∧
      h.config = { g with
        active := g.shadow, shadow := g.active, activeGen := g.activeGen + 1, shadowGen := g.shadowGen + 1, commit := none } ∧
      h.boot = (chipAt s c).boot ∧ h.serve = (chipAt s c).serve ∧
      (g.shadow.superMap = g.active.superMap → h.mem = (chipAt s c).mem)) ∧
  (∀ (s : State) (c : Fin 8) (k : Cmd), let g := (chipAt s c).config
    CanRun c k s → k.opcode = 0x12 → k.arg 28 4 = g.shadowGen.toNat → (ctxOf s c).commitCheck = none →
    g.shadow = { g.active with superMap := g.shadow.superMap } → g.shadow.superMap ≠ g.active.superMap →
    (ctxOf s c).drained = false →
    Runs c (.configCommit c k.id) s fun h o => o = [] ∧ h.config = { g with commit := some ⟨k.id, [1], none⟩ } ∧
      (h.stew.cmds.find? fun j => j.id == k.id) = some { k with phase := .running } ∧ h.serve = (chipAt s c).serve ∧
      h.mem = (chipAt s c).mem) ∧
  (∀ (s : State) (c : Fin 8) (k : Cmd), let g := (chipAt s c).config
    g.commit = some ⟨k.id, [2], none⟩ → g.pendingRoutes = [] → (ctxOf s c).cmd? k.id = some k → (chipAt s c).obs.lull ≠ .frozen →
    (ctxOf s c).canPost k.qp false = true → (∀ h ∈ (chipAt s c).stew.held, h.qp ≠ k.qp) →
    Runs c (.configSectionExchange c 2) s fun h o =>
      Completes c (chipAt s c) k 0 (g.activeGen + 1).toNat (imgField g.active.routes 0 4) o ∧ Ended k.id h ∧
      h.config = { g with
        active := { g.active with power := g.shadow.power }, shadow := { g.shadow with power := g.active.power }
        activeGen := g.activeGen + 1, shadowGen := g.shadowGen + 1, commit := none } ∧
      h.boot = (chipAt s c).boot ∧ h.serve = (chipAt s c).serve ∧ h.mem = (chipAt s c).mem)

/-- STREAM_OPEN of a named FREE stream of the queue pair's Super (or, with 0xFFFF, of its lowest FREE stream) with a model that
fits opens it with the next generation, position 0 and an empty frame table, and returns number and generation. STREAM_CLOSE of
an OPEN stream closes it; with FREE it frees an OPEN or CLOSED stream, keeps its generation, drops one reference to every frame
of its table and returns how many. STREAM_CANCEL closes an OPEN stream, makes a RUNNING one CANCELLING with its mark set
(RESULT0 1), and has no effect on one already CANCELLING or CLOSED (status 0x0002). In each case every other stream, the models,
the configuration and every byte of HBM outside a frame dropped stay as they were. A close of a stream that is not OPEN is
refused with 0x0201. -/
def Obligations.StreamLifecycle : Prop :=
  (∀ (s : State) (c : Fin 8) (k : Cmd) (i : Nat), let v := (chipAt s c).serve
    let g := nextGen (tget .free v.streams i).gen
    CanRun c k s → k.opcode = 0x20 →
    (k.arg 28 2 = i ∧ i < 4096 ∧ superOfStream (chipAt s c).config.active.superMap i = some ((ctxOf s c).sup k) ∨
      k.arg 28 2 = 0xFFFF ∧ (ctxOf s c).lowestFree ((ctxOf s c).sup k) = some i) →
    (ctxOf s c).openModelCheck ((ctxOf s c).sup k) (k.arg 30 1) = none → (tget .free v.streams i).state = .free →
    Runs c (.streamOpen c k.id) s fun h o => Completes c (chipAt s c) k 0 (i + 65536 * g) 0 o ∧ Ended k.id h ∧
      h.serve = { v with streams := tset .free v.streams i ⟨.opened, g, false, k.arg 30 1, 0, [], none⟩ } ∧
      h.config = (chipAt s c).config ∧ h.mem = (chipAt s c).mem ∧ h.boot = (chipAt s c).boot ∧ h.eng = (chipAt s c).eng) ∧
  (∀ (s : State) (c : Fin 8) (k : Cmd), let v := (chipAt s c).serve
    let i := k.arg 28 2 % 4096
    let t := tget .free v.streams i
    CanRun c k s → k.opcode = 0x21 → bitAt k.entry 32 0 = false →
    (ctxOf s c).nameCheck ((ctxOf s c).sup k) i (k.arg 30 2) = none →
    (t.state = .opened → t.tent = none →
      Runs c (.streamClose c k.id) s fun h o => Completes c (chipAt s c) k 0 0 0 o ∧ Ended k.id h ∧
        h.serve = { v with streams := tset .free v.streams i { t with state := .closed } } ∧ h.config = (chipAt s c).config ∧
        h.mem = (chipAt s c).mem ∧ h.eng = (chipAt s c).eng) ∧
    (t.state ≠ .opened →
      Runs c (.streamClose c k.id) s fun h o => Completes c (chipAt s c) k 0x0201 0 0 o ∧ Ended k.id h ∧ h.serve = v ∧
        h.config = (chipAt s c).config ∧ h.mem = (chipAt s c).mem)) ∧
  (∀ (s : State) (c : Fin 8) (k : Cmd), let v := (chipAt s c).serve
    let m := (chipAt s c).config.active.superMap
    let u := (ctxOf s c).sup k
    let i := k.arg 28 2 % 4096
    let t := tget .free v.streams i
    CanRun c k s → k.opcode = 0x21 → bitAt k.entry 32 0 = true → (ctxOf s c).nameCheck u i (k.arg 30 2) = none →
    (ctxOf s c).copyReads i = false → (t.state = .opened ∨ t.state = .closed) → t.tent = none →
    Runs c (.streamCloseFree c k.id) s fun h o => Completes c (chipAt s c) k 0 t.table.flatten.length 0 o ∧ Ended k.id h ∧
      h.serve.streams = tset .free v.streams i { Stream.free with gen := t.gen } ∧ h.serve.models = v.models ∧
      h.serve.steps = v.steps ∧
      (∀ f, tget 0 h.serve.refs (frameKey u f) = tget 0 v.refs (frameKey u f) - t.table.flatten.count f) ∧
      (∀ b, (∀ f ∈ t.table.flatten, ¬(frameAddr m u f ≤ b ∧ b < frameAddr m u f + superFrameBytes m u)) →
        (h.mem.store .hbm).read b = ((chipAt s c).mem.store .hbm).read b) ∧ h.config = (chipAt s c).config) ∧
  (∀ (s : State) (c : Fin 8) (k : Cmd), let v := (chipAt s c).serve
    let i := k.arg 28 2 % 4096
    let t := tget .free v.streams i
    CanRun c k s → k.opcode = 0x22 → (ctxOf s c).nameCheck ((ctxOf s c).sup k) i (k.arg 30 2) = none →
    (ctxOf s c).copyReads i = false → t.state ≠ .free → t.tent = none → (∀ j ∈ v.steps, j.heldAt = none) →
    Runs c (.streamCancel c k.id) s fun h o => Ended k.id h ∧ h.config = (chipAt s c).config ∧ h.mem = (chipAt s c).mem ∧
      h.serve.models = v.models ∧ h.serve.refs = v.refs ∧
      match t.state with
      | .opened => Completes c (chipAt s c) k 0 (if (ctxOf s c).recordDue i t.gen = true then 2 else 0) 0 o ∧
          h.serve.streams = tset .free v.streams i { t with state := .closed, cancel := true }
      | .running => Completes c (chipAt s c) k 0 1 0 o ∧
          h.serve.streams = tset .free v.streams i { t with state := .cancelling, cancel := true }
      | _ => Completes c (chipAt s c) k 0x0002 0 0 o ∧ h.serve = v)

/-- For an OPEN stream named rightly with its present table length: FRAME_MAP of n fresh indexes, with enough free frames,
appends n indexes of one frame per layer to the table (from an empty pool of references, one index of one layer takes one frame
below FRAME_COUNT and gives it the count 1) and returns the new length; a share copies the indexes of the source stream that
hold the first positions, adds one reference to each of their frames and takes the position; FRAME_RELEASE cuts the table to the
length asked for, drops a reference to each frame cut off and lowers the position to what still has frames. Every other stream,
the models and the configuration stay as they were. -/
def Obligations.FrameTables : Prop :=
  (∀ (s : State) (c : Fin 8) (k : Cmd), let v := (chipAt s c).serve
    let u := (ctxOf s c).sup k
    let i := k.arg 28 2 % 4096
    let t := tget .free v.streams i
    let n := k.arg 36 2
    let l := (tget .empty v.models t.model).layers
    CanRun c k s → k.opcode = 0x23 → bitAt k.entry 34 0 = false → 1 ≤ n → k.arg 38 4 = 0 → k.arg 44 4 = 0 →
    (ctxOf s c).nameCheck u i (k.arg 30 2) = none → t.state = .opened → k.arg 32 2 = t.table.length → t.table.length + n ≤ 16384 →
    n * l ≤ (ctxOf s c).freeFrames u →
    Runs c (.frameMapFresh c k.id) s fun h o =>
      Completes c (chipAt s c) k 0 (t.table.length + n + 2 ^ 32 * t.position) 0 o ∧ Ended k.id h ∧
      (∃ a, a.length = n ∧ (∀ e ∈ a, e.length = l) ∧
        h.serve.streams = tset .free v.streams i { t with table := t.table ++ a } ∧
        (v.refs = [] → n = 1 → l = 1 → ∃ f, f < superFrames (chipAt s c).config.active.superMap u ∧ a = [[f]] ∧
          h.serve.refs = [(frameKey u f, 1)])) ∧
      h.serve.models = v.models ∧ h.serve.steps = v.steps ∧ h.config = (chipAt s c).config ∧ h.mem = (chipAt s c).mem) ∧
  (∀ (s : State) (c : Fin 8) (k : Cmd), let v := (chipAt s c).serve
    let u := (ctxOf s c).sup k
    let i := k.arg 28 2 % 4096
    let t := tget .free v.streams i
    let a := (tget .free v.streams (k.arg 38 2 % 4096)).table.take ((k.arg 44 4 + 63) / 64)
    CanRun c k s → k.opcode = 0x23 → bitAt k.entry 34 0 = true → k.arg 36 2 = 0 → 1 ≤ k.arg 44 4 → k.arg 32 2 = 0 →
    (ctxOf s c).nameCheck u i (k.arg 30 2) = none → t.state = .opened → t.table = [] → (ctxOf s c).shareCheck u i k = none →
    Runs c (.frameMapShare c k.id) s fun h o =>
      Completes c (chipAt s c) k 0 (a.length + 2 ^ 32 * k.arg 44 4) 0 o ∧ Ended k.id h ∧
      h.serve.streams = tset .free v.streams i { t with table := a, position := k.arg 44 4 } ∧
      (∀ f, tget 0 h.serve.refs (frameKey u f) = tget 0 v.refs (frameKey u f) + a.flatten.count f) ∧
      h.serve.models = v.models ∧ h.serve.steps = v.steps ∧ h.config = (chipAt s c).config ∧ h.mem = (chipAt s c).mem) ∧
  (∀ (s : State) (c : Fin 8) (k : Cmd), let v := (chipAt s c).serve
    let u := (ctxOf s c).sup k
    let i := k.arg 28 2 % 4096
    let t := tget .free v.streams i
    let n := k.arg 34 2
    CanRun c k s → k.opcode = 0x24 → (ctxOf s c).nameCheck u i (k.arg 30 2) = none → (ctxOf s c).copyReads i = false →
    (t.state = .opened ∨ t.state = .closed) → t.tent = none → k.arg 32 2 = t.table.length → n < t.table.length →
    Runs c (.frameRelease c k.id) s fun h o =>
      Completes c (chipAt s c) k 0 (n + 2 ^ 32 * min t.position (64 * n)) 0 o ∧ Ended k.id h ∧
      h.serve.streams = tset .free v.streams i { t with table := t.table.take n, position := min t.position (64 * n) } ∧
      (∀ f, tget 0 h.serve.refs (frameKey u f) = tget 0 v.refs (frameKey u f) - (t.table.drop n).flatten.count f) ∧
      h.serve.models = v.models ∧ h.serve.steps = v.steps ∧ h.config = (chipAt s c).config)

/-- STEP_SUBMIT whose plan passes the checks made at fetch becomes a waiting step of its entries, and its command runs on with
nothing posted; one that fails a check completes with the check's status, entry and number and leaves every stream as it was.
STEP_PLAN_READY of a waiting step whose streams are idle and whose checks pass makes it the last ready plan and changes nothing
else, but that it wakes a Dormant chip on which nothing else holds dispatch back. STEP_DISPATCH of the first ready step of its
Super, with fewer than two dispatched and with the frames and the arena it needs, makes it dispatched and every stream of an
entry that is not cancelled RUNNING at the position it had; streams that the plan does not name, the models and the
configuration stay as they were, and an Idle chip becomes Active. -/
def Obligations.StepAdmission : Prop :=
  (∀ (s : State) (c : Fin 8) (k : Cmd) (plan : Bytes), let v := (chipAt s c).serve
    let raw := chunks (k.arg 32 2) 32 (fit (32 * k.arg 32 2) plan)
    CanRun c k s → k.opcode = 0x30 →
    match (ctxOf s c).planCheck k raw (raw.map planEntry) with
    | none => Runs c (.stepSubmit c k.id plan) s fun h o => o = [] ∧
        h.serve = { v with steps := v.steps ++
          [newStep k ((ctxOf s c).sup k) (k.arg 28 1) (k.arg 29 1) (k.arg 36 4) false (raw.map planEntry) .waiting] } ∧
        (h.stew.cmds.find? fun j => j.id == k.id) = some { k with phase := .running } ∧ h.mem = (chipAt s c).mem ∧
        h.config = (chipAt s c).config ∧ h.eng = (chipAt s c).eng
    | some f => Runs c (.stepSubmit c k.id plan) s fun h o =>
        Completes c (chipAt s c) k f.1 (f.2.1 + 65536 * f.2.2) 0 o ∧ Ended k.id h ∧ h.serve.streams = v.streams ∧
        h.serve.refs = v.refs ∧ ((ctxOf s c).step? k.id = none → h.serve.models = v.models) ∧ h.mem = (chipAt s c).mem ∧
          h.config = (chipAt s c).config) ∧
  (∀ (s : State) (c : Fin 8) (id : Nat) (tokens : List (Option (List Word32))) (k : Cmd) (t : StepRec), let v := (chipAt s c).serve
    (ctxOf s c).running? id 0x30 = some k → (ctxOf s c).step? id = some t → t.phase = .waiting → (ctxOf s c).planIdle t = true →
    tokensFit t tokens = true → (chipAt s c).obs.lull ≠ .frozen → (chipAt s c).boot.linkFatal = false →
    (ctxOf s c).readyCheck t (some tokens) = none → (tget .empty v.models t.model).swap.state = .idle →
    ((ctxOf s c).awake = true → (chipAt s c).boot.dormantEntry = false →
      Runs c (.stepPlanReady c id tokens) s fun h o => o = [] ∧
        h = { chipAt s c with serve := { v with steps := (v.steps.filter fun j => j.id != id) ++
          [{ t with phase := .ready, wasReady := true, bound := none, entries := t.entries.map (ctxOf s c).markEntry }] } }) ∧
    ((ctxOf s c).dispatchOpen = true → (chipAt s c).boot.pstate = .dormant →
      Runs c (.stepPlanReady c id tokens) s fun h o => o = [] ∧ h.boot = { (chipAt s c).boot with waking := true } ∧
        h.serve = { v with steps := (v.steps.filter fun j => j.id != id) ++
          [{ t with phase := .ready, wasReady := true, bound := none, entries := t.entries.map (ctxOf s c).markEntry }] })) ∧
  (∀ (s : State) (c : Fin 8) (id : Nat) (k : Cmd) (t : StepRec), let v := (chipAt s c).serve
    let es := t.entries.map (ctxOf s c).markEntry
    let m := tget .empty v.models t.model
    (ctxOf s c).running? id 0x30 = some k → (ctxOf s c).step? id = some t → t.phase = .ready →
    ((v.steps.find? fun o => o.super == t.super && o.phase == .ready).map (·.id)) = some id →
    ((ctxOf s c).dispatched t.super).length < 2 → (ctxOf s c).mayDispatch = true → (ctxOf s c).planIdle t = true →
    (ctxOf s c).readyCheck t none = none → (ctxOf s c).framesNeeded t.super m.layers es ≤ (ctxOf s c).freeFrames t.super →
    m.overArena t.total = false →
    Runs c (.stepDispatch c id) s fun h _ => ((h.serve.steps.find? fun j => j.id == id).map (·.phase)) = some .dispatched ∧
      (∀ e ∈ es, e.cancelled = false → (tget .free h.serve.streams e.stream).state = .running ∧
        (tget .free h.serve.streams e.stream).position = (tget .free v.streams e.stream).position ∧
        (tget .free h.serve.streams e.stream).gen = (tget .free v.streams e.stream).gen) ∧
      (∀ i, (∀ e ∈ es, e.stream ≠ i) → tget .free h.serve.streams i = tget .free v.streams i) ∧ h.serve.models = v.models ∧
      h.config = (chipAt s c).config ∧ ((chipAt s c).boot.pstate = .idle → h.boot.pstate = .active))

/-- STEP_UNIT_ENTRY of the next unit of a dispatched step with nothing outstanding holds the step where the unit's barrier holds
it, and otherwise binds the unit's generation. STEP_COMMIT of a step that has run every unit without error, with what it staged,
makes it committed with one record per entry, and each stream of an entry that carries no cancel OPEN with its position raised
by the tokens that commit (one for a decode entry). STEP_VERIFY that passes its checks makes the streams it names RUNNING and a
dispatched verify step; STEP_VERIFY_COMMIT accepts the drafts asked for, or with MATCH the leading ones that carry the highest
logit, moves each position past them, ends the tentative range and leaves one record per entry. Streams that the step does not
name, and the configuration, stay as they were. -/
def Obligations.StepProgress : Prop :=
  (∀ (s : State) (c : Fin 8) (id unit : Nat) (ops : List (Fin 4 × Bytes)) (copies : List BuiltCopy) (k : Cmd) (t : StepRec),
    let m := tget .empty (chipAt s c).serve.models t.model
    (ctxOf s c).dispatchedStep id = some (k, t) → t.verify = false → unit = t.units.length → unit < m.unitCount → t.due = [] →
    (ctxOf s c).outstanding id = [] →
    (m.barred t unit = true → (ctxOf s c).allCancelled t = false →
      Runs c (.stepUnitEntry c id unit ops copies) s fun h o => o = [] ∧
        h = { chipAt s c with serve := { (chipAt s c).serve with
          steps := (chipAt s c).serve.steps.map fun j => if j.id = id then { j with heldAt := some unit } else j } }) ∧
    (m.barred t unit = false →
      Runs c (.stepUnitEntry c id unit ops copies) s fun h _ =>
        ((h.serve.steps.find? fun j => j.id == id).map fun j => (j.units, j.heldAt)) =
          some (t.units ++ [(unit, m.boundGen unit)], none) ∧
        h.serve.streams = (chipAt s c).serve.streams ∧ h.serve.models = (chipAt s c).serve.models ∧
        h.config = (chipAt s c).config)) ∧
  (∀ (s : State) (c : Fin 8) (id : Nat) (staged : List Staged) (k : Cmd) (t : StepRec), let v := (chipAt s c).serve
    (ctxOf s c).dispatchedStep id = some (k, t) → t.verify = false → (ctxOf s c).allRun t = true → t.error = none →
    stagedFits t (tget .empty v.models t.model).vocab staged = true → (t.entries.map (·.stream)).Nodup →
    Runs c (.stepCommit c id staged) s fun h _ =>
      ((h.serve.steps.find? fun j => j.id == id).map fun j => (j.phase, j.records.length)) = some (.committed, t.entries.length) ∧
      (∀ e ∈ t.entries, e.cancelled = false → (tget .free v.streams e.stream).cancel = false →
        (tget .free h.serve.streams e.stream).state = .opened ∧
        (tget .free h.serve.streams e.stream).position =
          (tget .free v.streams e.stream).position + (if e.decode = true then 1 else e.tokens)) ∧
      (∀ i, (∀ e ∈ t.entries, e.stream ≠ i) → tget .free h.serve.streams i = tget .free v.streams i) ∧
      h.serve.models = v.models ∧ h.config = (chipAt s c).config) ∧
  (∀ (s : State) (c : Fin 8) (k : Cmd) (data : Bytes), let v := (chipAt s c).serve
    let n := k.arg 32 2
    let raw := chunks n 16 (fit (16 * n) data)
    let ss := raw.map fun b => field b 0 2 % 4096
    let es := raw.map verifyEntry
    (ctxOf s c).start? k.id 0x31 (fun _ => true) (some ss) = some k → (∀ i ∈ ss, (ctxOf s c).copyReads i = false) →
    1 ≤ k.arg 28 1 → k.arg 28 1 ≤ 64 → 1 ≤ n → n ≤ 4096 → (∀ b ∈ raw, verifyReserved b = false) → ss.Nodup →
    (ctxOf s c).verifyEntries ((ctxOf s c).sup k) (k.arg 28 1) es = none → (∀ e ∈ es, (ctxOf s c).entryCancelled e = false) →
    Runs c (.stepVerify c k.id data) s fun h o => o = [] ∧
      h.serve.steps = v.steps ++ [newStep k ((ctxOf s c).sup k) 0 (k.arg 28 1) 0 true es .dispatched] ∧
      (∀ e ∈ es, tget .free h.serve.streams e.stream = { tget .free v.streams e.stream with state := .running }) ∧
      (∀ i, i ∉ ss → tget .free h.serve.streams i = tget .free v.streams i) ∧ h.serve.models = v.models ∧ h.serve.refs = v.refs ∧
      h.mem = (chipAt s c).mem ∧ h.config = (chipAt s c).config) ∧
  (∀ (s : State) (c : Fin 8) (id : Nat) (k : Cmd) (t : StepRec), let v := (chipAt s c).serve
    (ctxOf s c).dispatchedStep id = some (k, t) → t.verify = true → (t.entries.map (·.stream)).Nodup →
    Runs c (.stepVerifyCommit c id) s fun h o => o = [] ∧
      ((h.serve.steps.find? fun j => j.id == id).map fun j => (j.phase, j.records.length)) = some (.committed, t.entries.length) ∧
      (∀ e ∈ t.entries, ∀ r, e.cancelled = false → (tget .free v.streams e.stream).cancel = false →
        (tget .free v.streams e.stream).tent = some r →
        (tget .free h.serve.streams e.stream).state = .opened ∧ (tget .free h.serve.streams e.stream).tent = none ∧
        (tget .free h.serve.streams e.stream).position =
          r.base + (if e.accept = 0xF then matchCount r.logits r.cands else e.accept)) ∧
      (∀ i, (∀ e ∈ t.entries, e.stream ≠ i) → tget .free h.serve.streams i = tget .free v.streams i) ∧
      h.serve.models = v.models ∧ h.config = (chipAt s c).config)

/-- A dispatched STEP_SUBMIT step without an earlier error that STEP_ERROR_END ends with a data error completes with that
status, the place in RESULT0 and the address in RESULT1; STEP_HOLD_LIMIT_EXPIRY of a step held at a barrier with a hold limit
completes it with 0x0208; STEP_STALL of one not held completes it with 0x0502 where its oldest descriptor waits on another chip
and with 0x0404 and RESULT0 0x0100 otherwise. In each case nothing commits: every stream of an entry that carries no cancel
returns to OPEN at the position it had with its table cut to its length before the dispatch, streams that the step does not name
are unchanged, and the step is gone. -/
def Obligations.StepErrorEnds : Prop :=
  ∀ (s : State) (c : Fin 8) (k : Cmd) (t : StepRec), let v := (chipAt s c).serve
    let ends := fun (i : Instr) (st r0 r1 : Nat) => Runs c i s fun h o => Completes c (chipAt s c) k st r0 r1 o ∧ Ended k.id h ∧
      (∀ j ∈ h.serve.steps, j.id ≠ k.id) ∧
      (∀ e ∈ t.entries, e.cancelled = false → (tget .free v.streams e.stream).state = .running →
        (tget .free h.serve.streams e.stream).state = .opened ∧
        (tget .free h.serve.streams e.stream).position = (tget .free v.streams e.stream).position ∧
        (tget .free h.serve.streams e.stream).table = (tget .free v.streams e.stream).table.take e.oldLen) ∧
      (∀ i, (∀ e ∈ t.entries, e.stream ≠ i) → tget .free h.serve.streams i = tget .free v.streams i) ∧
      h.config = (chipAt s c).config
    (ctxOf s c).dispatchedStep k.id = some (k, t) → t.verify = false → t.error = none → (t.entries.map (·.stream)).Nodup →
    (ctxOf s c).canPost k.qp false = true → (∀ h ∈ (chipAt s c).stew.held, h.qp ≠ k.qp) →
    (∀ (st entry layer index source : Word16) (addr : Word64), 0x0400 ≤ st.toNat → st.toNat ≤ 0x0402 →
      ends (.stepErrorEnd c k.id (.data st entry layer index source addr)) st.toNat
        (entry.toNat + 2 ^ 16 * layer.toNat + 2 ^ 32 * index.toNat + 2 ^ 48 * source.toNat) addr.toNat) ∧
    (t.heldAt.isSome = true → (tget .empty v.models t.model).swap.holdLimit ≠ 0 →
      ends (.stepHoldLimitExpiry c k.id) 0x0208 0 0) ∧
    (t.heldAt = none → ends (.stepStall c k.id true) 0x0502 0 0 ∧ ends (.stepStall c k.id false) 0x0404 0x0100 0)

/-- MODEL_LOAD from the host, or from the general area with the Foragers free that it needs (08 R202), without children, whose
manifest passes the checks and whose segments all place, makes the model with generation 1 and completes with it; bytes of HBM
outside the segments kept, the streams, the frames, the steps and the configuration stay as they were, and the last segment, if
kept, reads as its contents. A manifest that fails a check completes with the check's status and details, nothing placed.
MODEL_LOAD in a tree waits for its parent. LOAD_SEGMENT_RECEIVE of a good piece takes its granules off those still to come, and
the last one completes the load; LOAD_TIMEOUT while pieces are missing refuses it with 0x0502 and leaves no model; CHILD_TIMEOUT
marks the child stopped. MODEL_UNLOAD of a loaded model without a swap or a bound stream leaves the ID without a model, and with
a bound stream is refused with 0x0201. -/
def Obligations.ModelLoading : Prop :=
  (∀ (s : State) (c : Fin 8) (k : Cmd) (manifest : Bytes) (src : List SegData), let v := (chipAt s c).serve
    let x := ctxOf s c
    let b := fit k.dataLen manifest
    let n := mfSegCount b
    let raw := chunks n 48 ((b.drop 128).take (48 * n))
    let m := modelOf (x.sup k) (k.arg 30 2) b (raw.map segOf)
    let d := x.segData m (bitsAt k.entry 29 1 2) (loadReads k m) src m.segs
    CanRun c k s → k.opcode = 0x40 → k.qp ≠ 0 → bitAt k.entry 29 0 = false → 128 + 48 * n ≤ k.dataLen →
    x.loadMayMove k manifest = true →
    (x.loadCheck k b raw m = none → bitsAt k.entry 29 1 2 ≠ 2 → k.arg 38 1 = 0 → m.arenasFail m.segs d.2 = none →
      ((d.1.carryAll m (bitsAt k.entry 29 1 2) m.segs).placeSegs m 0 m.segs d.2).2 = none →
      Runs c (.modelLoad c k.id manifest src) s fun h o => Completes c (chipAt s c) k 0 1 0 o ∧ Ended k.id h ∧
        h.serve = { v with models := tset .empty v.models (k.arg 28 1) { m with gen := 1, loading := false } } ∧
        h.config = (chipAt s c).config ∧ h.boot = (chipAt s c).boot ∧
        (∀ a, (∀ g ∈ m.segs, m.keeps g = true → g.kind ≠ 1 → ¬((x.segDst m g).2 ≤ a ∧ a < (x.segDst m g).2 + g.bytes)) →
          (h.mem.store .hbm).read a = ((chipAt s c).mem.store .hbm).read a) ∧
        ∀ l g, m.segs = l ++ [g] → m.keeps g = true → ∀ j, j < g.bytes →
          (h.mem.store (x.segDst m g).1).read ((x.segDst m g).2 + j) = (d.2.getD l.length ⟨[], none⟩).bytes.getD j 0) ∧
    (∀ f, x.loadCheck k b raw m = some f →
      Runs c (.modelLoad c k.id manifest src) s fun h o => Completes c (chipAt s c) k f.1 f.2.1 f.2.2 o ∧ Ended k.id h ∧ h.serve = v ∧
        h.config = (chipAt s c).config ∧ h.mem = (chipAt s c).mem) ∧
    (x.loadCheck k b raw m = none → bitsAt k.entry 29 1 2 = 2 →
      Runs c (.modelLoad c k.id manifest src) s fun h o => o = [] ∧
        (∃ t : Tree, h.serve = { v with models := tset .empty v.models (k.arg 28 1) { m with tree := some t } } ∧ t.cmd = k.id ∧
          t.key = k.arg 40 4 ∧ t.parent = some (k.arg 36 2 % 32768) ∧ t.left = (m.segs.map fun g => g.bytes / 64).sum ∧
          t.children = (List.range (k.arg 38 1)).map fun j => (k.arg (44 + 2 * j) 2 % 32768, false)) ∧
        h.mem = (chipAt s c).mem ∧ h.config = (chipAt s c).config)) ∧
  (∀ (s : State) (c : Fin 8) (p : Fin 18) (y : Ctx) (b : Bytes) (id : Nat) (m : Model) (t : Tree) (g : Seg),
    let off := 64 * mAux0 b
    let data := (mData b).take (64 * mLen b)
    (chipAt s c).obs.lull ≠ .frozen → (ctxOf s c).takeMsg p 3 = some (y, b) → msgBad 3 b = false → mOp b = 4 →
    y.freshEpoch b = true → y.loadFrom (mSrc b) (mAddr b % 2 ^ 32) = some (id, m, t) → m.segs[bits (mAddr b) 32 16]? = some g →
    mAddr b % 2 ^ 32 = t.key → 64 * mAux1 b = g.bytes → off + data.length ≤ g.bytes → mPoison b = 0 → t.children = [] → g.kind ≤ 1 →
    (mLen b < t.left →
      Runs c (.loadSegmentReceive c p) s fun h _ =>
        tget .empty h.serve.models id = { m with tree := some { t with left := t.left - mLen b } } ∧
        h.serve.streams = (chipAt s c).serve.streams ∧ h.config = (chipAt s c).config) ∧
    (∀ k, t.left = mLen b → (chipAt s c).serve.models = [(id, m)] → (ctxOf s c).cmd? t.cmd = some k → k.qp ≠ 0 →
      (ctxOf s c).canPost k.qp false = true →
      (∀ h ∈ (chipAt s c).stew.held, h.qp ≠ k.qp) →
      Runs c (.loadSegmentReceive c p) s fun h o => Completes c (chipAt s c) k 0 1 0 o ∧ Ended k.id h ∧
        tget .empty h.serve.models id = { m with gen := 1, loading := false, tree := none } ∧
        h.serve.streams = (chipAt s c).serve.streams ∧ h.config = (chipAt s c).config)) ∧
  (∀ (s : State) (c : Fin 8) (k : Cmd) (id : Nat) (m : Model) (t : Tree), (chipAt s c).serve.models = [(id, m)] → m.tree = some t →
    t.cmd = k.id → t.left ≠ 0 → (chipAt s c).obs.lull ≠ .frozen → (ctxOf s c).cmd? k.id = some k →
    (ctxOf s c).canPost k.qp false = true → (∀ h ∈ (chipAt s c).stew.held, h.qp ≠ k.qp) →
    (t.parent.isSome = true →
      Runs c (.loadTimeout c k.id) s fun h o => Completes c (chipAt s c) k 0x0502 0 0 o ∧ Ended k.id h ∧ h.serve.models = [] ∧
        h.serve.streams = (chipAt s c).serve.streams ∧ h.config = (chipAt s c).config) ∧
    (∀ j : Fin 10, Runs c (.childTimeout c k.id j) s fun h o => o = [] ∧
      ∃ l, tget .empty h.serve.models id = { m with tree := some { t with children := l } } ∧
        (∀ i, l[i]? = (t.children[i]?).map fun e => if i = j.val then (e.1, true) else e) ∧ h.mem = (chipAt s c).mem ∧
        h.serve.streams = (chipAt s c).serve.streams ∧ h.config = (chipAt s c).config)) ∧
  (∀ (s : State) (c : Fin 8) (k : Cmd), let v := (chipAt s c).serve
    let m := tget .empty v.models (k.arg 28 1)
    CanRun c k s → k.opcode = 0x40 → bitAt k.entry 29 0 = true → k.arg 28 1 ≤ 63 → m.gen ≠ 0 → m.super = (ctxOf s c).sup k →
    k.arg 32 4 = m.gen → m.swap.state = .idle →
    ((∀ e ∈ v.streams, e.2.state ≠ .free → e.2.model ≠ k.arg 28 1) →
      Runs c (.modelUnload c k.id) s fun h o => Completes c (chipAt s c) k 0 0 0 o ∧ Ended k.id h ∧
        h.serve = { v with models := tset .empty v.models (k.arg 28 1) .empty } ∧ h.mem = (chipAt s c).mem ∧
        h.config = (chipAt s c).config) ∧
    ((∃ e ∈ v.streams, e.2.state ≠ .free ∧ e.2.model = k.arg 28 1) →
      Runs c (.modelUnload c k.id) s fun h o => Completes c (chipAt s c) k 0x0201 0 0 o ∧ Ended k.id h ∧ h.serve = v ∧
        h.mem = (chipAt s c).mem))

/-- SWAP_BEGIN that passes its checks waits; when the earlier steps of its queue are ready SWAP_BEGIN_TAKE_EFFECT opens the swap
(a Uniform one drains first while old-bound steps run) with front 0 and the next generation, and completes. SWAP_LAYER of the
unit at the front with unchanged segment entries waits with its data, or after a failed write starts at once. SWAP_WRITE_START
of an OPEN swap with a layer and no step inside the unit makes it WRITING, nothing outside the unit's segments changing;
SWAP_WRITE_COMPLETE of contents without an error, with the Foragers free that they need, moves the front on, DONE after the last
unit, and completes with the front; SWAP_WRITE_FAIL leaves the unit BROKEN and completes with the status of the source error:
a host read error for data of the host, or the first error that the read of the general area finds. SWAP_END of a DONE swap makes the new generation the model's;
abandoning a swap that has written nothing keeps the old one. Streams, frames and the configuration stay as they were
throughout. -/
def Obligations.ModelSwaps : Prop :=
  (∀ (s : State) (c : Fin 8) (k : Cmd), CanRun c k s → k.opcode = 0x41 →
    ((ctxOf s c).swapCheck k = none → Runs c (.swapBegin c k.id) s fun h o => o = [] ∧
      h = { chipAt s c with ledger := h.ledger, stew := { (chipAt s c).stew with
        cmds := (chipAt s c).stew.cmds.map fun j => if j.id = k.id then { j with phase := .running } else j } }) ∧
    (∀ st, (ctxOf s c).swapCheck k = some st → Runs c (.swapBegin c k.id) s fun h o =>
      Completes c (chipAt s c) k st 0 0 o ∧ Ended k.id h ∧ h.serve = (chipAt s c).serve ∧ h.mem = (chipAt s c).mem)) ∧
  (∀ (s : State) (c : Fin 8) (k : Cmd), let v := (chipAt s c).serve
    let mid := k.arg 28 1
    let m := tget .empty v.models mid
    let r := bitAt k.entry 29 0
    (ctxOf s c).running? k.id 0x41 = some k → (ctxOf s c).earlierReady k = true → (chipAt s c).obs.lull ≠ .frozen →
    (ctxOf s c).swapCheck k = none → (ctxOf s c).canPost k.qp false = true → (∀ h ∈ (chipAt s c).stew.held, h.qp ≠ k.qp) →
    Runs c (.swapBeginTakeEffect c k.id) s fun h o => Completes c (chipAt s c) k 0 (m.gen + 1) 0 o ∧ Ended k.id h ∧
      (∃ st, h.serve.models = tset .empty v.models mid { m with swap := ⟨st, r, 0, m.gen + 1, k.arg 36 4, []⟩ } ∧
        (r = true → st = .opened) ∧
        (r = false → (∀ t ∈ v.steps, t.model = mid → t.verify = false →
          t.phase = .waiting ∧ t.wasReady = false ∧ t.bound = none) → st = .opened) ∧
        (r = false → (∃ t ∈ v.steps, t.model = mid ∧ t.verify = false ∧ t.phase ≠ .waiting) → st = .draining)) ∧
      h.serve.streams = v.streams ∧ h.serve.refs = v.refs ∧ h.mem = (chipAt s c).mem ∧ h.config = (chipAt s c).config) ∧
  (∀ (s : State) (c : Fin 8) (k : Cmd) (data : Bytes) (src : List SegData), let v := (chipAt s c).serve
    let x := ctxOf s c
    let mid := k.arg 28 1
    let m := tget .empty v.models mid
    let w := m.swap
    let raw := chunks (k.dataLen / 48) 48 ((fit k.dataLen data).take (48 * (k.dataLen / 48)))
    let new := raw.map segOf
    let d := x.segData m (bitsAt k.entry 30 0 2) (fun _ => true) src new
    CanRun c k s → k.opcode = 0x42 → m.gen ≠ 0 → m.super = x.sup k → (w.state = .draining ∨ w.state = .opened ∨ w.state = .broken) →
    k.arg 29 1 = w.front → k.arg 32 4 = w.newGen → k.dataLen % 48 = 0 → new.length = (m.unitSegs w.front).length →
    (∀ r ∈ raw, segReserved r = false) → (∀ e ∈ new.zip (m.unitSegs w.front), e.1.same e.2 = true) →
    k.qp ≠ 0 → (∀ g ∈ new, bitsAt k.entry 30 0 2 = 1 → x.placeOk m.super (4, (g.src, g.bytes)) = true) →
    m.swapArenas (m.unitIndexes w.front) new d.2 = none → x.swapDescs m (m.unitIndexes w.front) new d.2 = none →
    Runs c (.swapLayer c k.id data src) s fun h o => (bitsAt k.entry 30 0 2 ≠ 1 → o = [] ∧ h.mem = (chipAt s c).mem) ∧
      h.serve = { v with models := tset .empty v.models mid { m with swap := { w with
        state := if w.state = .broken then .writing else w.state, layers := w.layers ++ [(k.id, new, d.2)] } } } ∧
      (h.stew.cmds.find? fun j => j.id == k.id) = some { k with phase := .running } ∧ h.config = (chipAt s c).config) ∧
  (∀ (s : State) (c : Fin 8) (mid : Fin 64), let v := (chipAt s c).serve
    let m := tget .empty v.models mid
    let w := m.swap
    w.state = .opened → w.layers ≠ [] → (ctxOf s c).insideUnit mid w.front = false → (chipAt s c).obs.lull ≠ .frozen →
    Runs c (.swapWriteStart c mid) s fun h o => o = [] ∧
      h.serve = { v with models := tset .empty v.models mid { m with swap := { w with state := .writing } } } ∧
      (∀ a, (∀ g ∈ m.unitSegs w.front, g.kind ≠ 1 → ¬(((ctxOf s c).segDst m g).2 ≤ a ∧ a < ((ctxOf s c).segDst m g).2 + g.bytes)) →
        (h.mem.store .hbm).read a = ((chipAt s c).mem.store .hbm).read a) ∧ h.stew = (chipAt s c).stew ∧
      h.config = (chipAt s c).config) ∧
  (∀ (s : State) (c : Fin 8) (mid : Fin 64) (k : Cmd) (segs : List Seg) (data : List SegData), let v := (chipAt s c).serve
    let m := tget .empty v.models mid
    let w := m.swap
    w.state = .writing → w.layers = [(k.id, segs, data)] → (ctxOf s c).cmd? k.id = some k → (chipAt s c).obs.lull ≠ .frozen →
    k.qp ≠ 0 → (ctxOf s c).canPost k.qp false = true → (∀ h ∈ (chipAt s c).stew.held, h.qp ≠ k.qp) →
    ((∀ d ∈ ((ctxOf s c).layerData m k segs data).2, d.err = none) → (ctxOf s c).foragersFree m (swapSource k) segs = true →
      Runs c (.swapWriteComplete c mid) s fun h o => Completes c (chipAt s c) k 0 (w.front + 1) 0 o ∧ Ended k.id h ∧
        h.serve = { v with models := tset .empty v.models mid { m with segs := replaceSegs m w.front m.segs segs, swap := { w with
          state := if w.front + 1 = m.unitCount then .done else .opened, front := w.front + 1, layers := [] } } } ∧
        h.config = (chipAt s c).config) ∧
    (∀ (err : SrcErr) (seg off : Nat) (e : SrcErr × Nat × Nat), ((ctxOf s c).swapErr m k segs data (err, seg, off)).2 = some e →
      (swapSource k ≠ 1 → e = (.hostRead, seg, off)) ∧
      Runs c (.swapWriteFail c mid err seg off) s fun h o =>
        Completes c (chipAt s c) k (srcStatus e.1) (e.2.1 + 2 ^ 16 * e.2.2) 0 o ∧ Ended k.id h ∧
        h.serve = { v with models := tset .empty v.models mid { m with swap := { w with state := .broken, layers := [] } } } ∧
        h.config = (chipAt s c).config)) ∧
  (∀ (s : State) (c : Fin 8) (k : Cmd), let v := (chipAt s c).serve
    let mid := k.arg 28 1
    let m := tget .empty v.models mid
    CanRun c k s → k.opcode = 0x43 → m.gen ≠ 0 → m.super = (ctxOf s c).sup k → k.arg 32 4 = m.swap.newGen → m.swap.layers = [] →
    (bitAt k.entry 29 0 = false → m.swap.state = .done →
      Runs c (.swapEnd c k.id) s fun h o => Completes c (chipAt s c) k 0 m.swap.newGen 0 o ∧ Ended k.id h ∧
        h.serve = { v with models := tset .empty v.models mid { m with gen := m.swap.newGen, swap := .idle } } ∧
        h.mem = (chipAt s c).mem ∧ h.config = (chipAt s c).config) ∧
    (bitAt k.entry 29 0 = true → (m.swap.state = .draining ∨ m.swap.state = .opened) → m.swap.front = 0 →
      Runs c (.swapEndAbandon c k.id) s fun h o => Completes c (chipAt s c) k 0 m.gen 0 o ∧ Ended k.id h ∧
        h.serve.models = tset .empty v.models mid { m with swap := .idle } ∧ h.serve.streams = v.streams ∧ h.mem = (chipAt s c).mem ∧
        (∀ t ∈ h.serve.steps, t.model = mid → t.verify = false → t.bound = none ∧ t.heldAt = none) ∧
        h.config = (chipAt s c).config))

/-- LINK_STATE of a port 0 to 17, while no message waits for room in a buffer, answers the port's state, reasons, partner,
fences and offset in RESULT0 and RESULT1. A query changes no port. Enabling takes a DISABLED port to DOWN; disabling takes any
other to DISABLED with reason 1 and nothing held to send; readmission takes a FENCED port to TRAINING with its violations
cleared; retraining takes a port that runs its link to TRAINING with reason 1 where it was UP or in DRIZZLE, its unacknowledged
flits kept, and is refused with 0x0500 for a port that is DISABLED, DOWN or FENCED; the Drizzle forms change DRIZZLE_ALLOW. A
form that has nothing to do ends with status 0x0002 and changes no port. No other port, no memory and no configuration changes.
-/
def Obligations.LinkCommands : Prop :=
  ∀ (s : State) (c : Fin 8) (k : Cmd), let p := bitsAt k.entry 28 0 5
    let v := tget .initial (chipAt s c).fab.ports p
    let only := fun (i : Instr) (st : Nat) (P : Port → Prop) => Runs c i s fun h o =>
      let r := linkResult (tget .initial h.fab.ports p)
      Completes c (chipAt s c) k st r.1 r.2 o ∧ Ended k.id h ∧ P (tget .initial h.fab.ports p) ∧
      (∀ q, q ≠ p → tget .initial h.fab.ports q = tget .initial (chipAt s c).fab.ports q) ∧ h.mem = (chipAt s c).mem ∧
      h.config = (chipAt s c).config ∧ h.serve = (chipAt s c).serve
    CanRun c k s → k.opcode = 0x81 → p ≤ 17 → (chipAt s c).fab.txWait = [] →
    (bitsAt k.entry 29 0 4 = 0 → only (.linkStateQuery c k.id) 0 fun w => w = v) ∧
    (bitsAt k.entry 29 0 4 = 1 →
      (v.state = .disabled → only (.linkStateEnable c k.id) 0 fun w => w = { v with state := .down, retryWait := false }) ∧
      (v.state ≠ .disabled → only (.linkStateEnable c k.id) 2 fun w => w = v)) ∧
    (bitsAt k.entry 29 0 4 = 2 →
      (v.state ≠ .disabled → only (.linkStateDisable c k.id) 0 fun w =>
        w.state = .disabled ∧ w.reason = 1 ∧ w.replay = [] ∧ w.mgmtTx = [] ∧ w.vcs = [] ∧ w.fences = v.fences ∧
          w.partnerId = v.partnerId) ∧
      (v.state = .disabled → only (.linkStateDisable c k.id) 2 fun w => w = v)) ∧
    (bitsAt k.entry 29 0 4 = 3 →
      (v.state = .fenced → only (.linkStateReadmit c k.id) 0 fun w =>
        w = { v with state := .training, helloSeen := false, helloRx := none, retryWait := false, violations := [] }) ∧
      (v.state ≠ .fenced → only (.linkStateReadmit c k.id) 2 fun w => w = v)) ∧
    (bitsAt k.entry 29 0 4 = 4 →
      (v.state.live = true → ((chipAt s c).stew.events.find? fun e => e.code == 0x0902).any (·.posted.isSome) = true →
        only (.linkStateRetrain c k.id) 0 fun w => w.state = .training ∧
          w.reason = (if v.state = .notReady then v.reason else 1) ∧ w.helloSeen = false ∧
          w.replay.map (·.bytes) = v.replay.map (·.bytes) ∧ w.vcs = v.vcs) ∧
      (v.state.live = true → Runs c (.linkStateRetrain c k.id) s fun h _ => Ended k.id h ∧
        (tget .initial h.fab.ports p).state = .training ∧
        ∀ q, q ≠ p → tget .initial h.fab.ports q = tget .initial (chipAt s c).fab.ports q) ∧
      (v.state = .disabled ∨ v.state = .down ∨ v.state = .fenced →
        Runs c (.linkStateRetrain c k.id) s fun h o => Completes c (chipAt s c) k 0x0500 0 0 o ∧ Ended k.id h ∧
          h.fab = (chipAt s c).fab)) ∧
    (bitsAt k.entry 29 0 4 = 5 →
      (v.driz.allow = false → only (.linkStateDrizzleAllow c k.id) 0 fun w => w = { v with driz := { v.driz with allow := true } }) ∧
      (v.driz.allow = true → only (.linkStateDrizzleAllow c k.id) 2 fun w => w = v)) ∧
    (bitsAt k.entry 29 0 4 = 6 →
      (v.driz.allow = true → only (.linkStateDrizzleRefuse c k.id) 0 fun w => w = { v with driz := { v.driz with allow := false } }) ∧
      (v.driz.allow = false → only (.linkStateDrizzleRefuse c k.id) 2 fun w => w = v))

/-- A flit that arrives damaged, with a wrong CRC or uncorrectable errors, at a port that runs its link changes no sequence
number, buffer or credit of the port, and draws one NAK. A good DATA flit in sequence, for a channel with room and slots that
follow its messages, at an UP port, enters the channel's buffer, advances the sequence number and makes an acknowledgement due,
and an Idle chip Active unless it carries answers. On a ring port only what the neighbour has sent arrives, whole or damaged;
any other flit changes nothing (01 R23). REPLAY_TIMEOUT makes the whole replay buffer due to be resent; ACK_TIMER sends the
acknowledgement that is due; CREDIT_RETURN frees an emptied entry and sends its credit, in a Lull too; HELLO_TIMER sends a
HELLO. A flit time of an UP port whose partner is UP sends up to 15 slots of the one channel that has a flit and a credit,
taking one credit and the next sequence number and keeping the flit for replay; a port with a replay due resends first, where
the port's state lets the flit be sent again. Other ports do not change. -/
def Obligations.FlitsOfAPort : Prop :=
  (∀ (s : State) (c : Fin 8) (p : Fin 18) (flit : Bytes) (unc : Option Nat) (n : Nat) (stamp : Word64),
    let v := tget .initial (chipAt s c).fab.ports p
    let i := Instr.flitReceive c p flit unc n stamp
    v.state.live = true → damaged (fit 256 flit) unc = true → v.nakSent = false →
    (s.ringTake c p (fit 256 flit) true).isSome = true →
    RunsFrom c i s (arrived i s) fun k o => (∃ b, o = [.flit c p b]) ∧
      tget .initial k.fab.ports p = { v with nakSent := true, ackDue := false } ∧
      (∀ q, q ≠ p.val → tget .initial k.fab.ports q = tget .initial (chipAt s c).fab.ports q) ∧ k.mem = (chipAt s c).mem ∧
      k.serve = (chipAt s c).serve ∧ k.boot = (chipAt s c).boot) ∧
  (∀ (s : State) (c : Fin 8) (p : Fin 18) (flit : Bytes) (n : Nat) (stamp : Word64), let f := fit 256 flit
    let h := headOf f
    let v := tget .initial (chipAt s c).fab.ports p
    let i := Instr.flitReceive c p flit none n stamp
    v.state = .up → damaged f none = false → h.kind = 1 → h.vc < 6 → h.vc ≠ 4 → h.seq = v.rxSeq → v.badHead h f = false →
    v.badSlots h f = false → v.occupied h.vc < vcDepth h.vc → h.nak = false → v.naks.length ≤ 1024 → v.driz.entering = false →
    (chipAt s c).boot.pstate ≠ .dormant → (s.ringTake c p f false).isSome = true →
    RunsFrom c i s (arrived i s) fun k o => o = [] ∧
      (let w := tget .initial k.fab.ports p;
        w.rxSeq = (v.rxSeq + 1) % 4096 ∧ (w.vc h.vc).rx = (v.vc h.vc).rx ++ [flitSlots h f] ∧ w.heard = true ∧ w.ackDue = true ∧
        w.state = .up ∧ w.mgmtRx = v.mgmtRx ∧ w.txSeq = v.txSeq) ∧
      (∀ q, q ≠ p.val → tget .initial k.fab.ports q = tget .initial (chipAt s c).fab.ports q) ∧
      (h.vc ≠ 1 → (chipAt s c).boot.pstate = .idle → k.boot.pstate = .active) ∧ k.mem = (chipAt s c).mem ∧
      k.serve = (chipAt s c).serve ∧ k.config = (chipAt s c).config) ∧
  (∀ (s : State) (c : Fin 8) (p : Fin 18) (flit : Bytes) (unc : Option Nat) (n : Nat) (stamp : Word64),
    s.ringTake c p (fit 256 flit) (damaged (fit 256 flit) unc) = none →
    Runs c (.flitReceive c p flit unc n stamp) s fun k o => o = [] ∧ k = chipAt s c) ∧
  (∀ (s : State) (c : Fin 8) (p : Fin 18), let h := chipAt s c
    let v := tget .initial h.fab.ports p
    (v.state.live = true → v.replay ≠ [] →
      Runs c (.replayTimeout c p) s fun k o => o = [] ∧ k = withPort h p { v with toReplay := v.replay.length }) ∧
    (v.state.live = true → v.ackDue = true →
      Runs c (.ackTimer c p) s fun k o => o = [.flit c p (flitBytes (v.head 0 0 0 0 0) [])] ∧
        k = { withPort h p { v with ackDue := false } with ledger := k.ledger }) ∧
    (v.state ≠ .disabled → v.state ≠ .down →
      Runs c (.helloTimer c p) s fun k o => o = [.flit c p (flitBytes (v.head 5 0 0 0 0) ((ctxOf s c).helloBody p))] ∧
        k = { withPort h p { v with ackDue := false } with ledger := k.ledger })) ∧
  (∀ (s : State) (c : Fin 8) (p : Fin 18) (q : Fin 6) (i : Nat), let v := tget .initial (chipAt s c).fab.ports p
    v.state.live = true → (v.vc q).rx.findIdx? (·.isEmpty) = some i →
    Runs c (.creditReturn c p q) s fun k o => (∃ b, o = [.flit c p b]) ∧
      tget .initial k.fab.ports p = { v.setVc q { v.vc q with rx := (v.vc q).rx.eraseIdx i } with ackDue := false } ∧
      (∀ r, r ≠ p.val → tget .initial k.fab.ports r = tget .initial (chipAt s c).fab.ports r) ∧ k.mem = (chipAt s c).mem ∧
      k.serve = (chipAt s c).serve) ∧
  (∀ (s : State) (c : Fin 8) (p : Fin 18) (q : Nat), let v := tget .initial (chipAt s c).fab.ports p
    v.state = .up → v.partnerState = 4 → v.driz.entering = false → (chipAt s c).obs.lull ≠ .frozen → v.toReplay = 0 →
    v.replay.length < 512 → v.mgmtTx = [] → q < 4 → v.ready q = true → (∀ r < 6, r ≠ q → v.ready r = false) →
    (chipAt s c).fab.txWait = [] →
    Runs c (.flitTransmit c p) s fun k o => (let w := tget .initial k.fab.ports p;
        w.txSeq = (v.txSeq + 1) % 4096 ∧ (w.vc q).credits + 1 = (v.vc q).credits ∧ (w.vc q).tx = (v.vc q).tx.drop 15 ∧
        w.replay.length = v.replay.length + 1 ∧ w.rxSeq = v.rxSeq ∧ ∃ b, o = [.flit c p b]) ∧
      (∀ r, r ≠ p.val → tget .initial k.fab.ports r = tget .initial (chipAt s c).fab.ports r) ∧ k.mem = (chipAt s c).mem ∧
      k.serve = (chipAt s c).serve) ∧
  (∀ (s : State) (c : Fin 8) (p : Fin 18) (f : Sent), let v := tget .initial (chipAt s c).fab.ports p
    v.state.live = true → 0 < v.toReplay → v.replay[v.replay.length - v.toReplay]? = some f → v.mayResend f = true → f.times < 16 →
    Runs c (.flitTransmit c p) s fun k o => o = [.flit c p f.bytes] ∧
      (tget .initial k.fab.ports p).toReplay + 1 = v.toReplay ∧ (tget .initial k.fab.ports p).txSeq = v.txSeq ∧
      (tget .initial k.fab.ports p).vcs = v.vcs ∧
      (∀ r, r ≠ p.val → tget .initial k.fab.ports r = tget .initial (chipAt s c).fab.ports r))

/-- On a chip whose firmware runs, a partner's signal at a DOWN port that does not wait starts its training, and the end of the
wait starts it again. A good HELLO tells the port its partner's state, depths and ID, while no message waits for a port.
Training that has seen a HELLO completes to NOT_READY, with the partner's depths as credits after a fresh start and the kept
flits due to be resent, and on a READY chip to UP. A failed training takes the port to DOWN, to wait, with one more failure and
with all it holds kept; the third in a row is an event. Loss of signal takes a port that runs its link to TRAINING with its
flits kept. No other port changes. -/
def Obligations.TrainingOfAPort : Prop :=
  (∀ (s : State) (c : Fin 8) (p : Fin 18), let h := chipAt s c
    let v := tget .initial h.fab.ports p
    let goes := fun (i : Instr) (w : Port) => Runs c i s fun k o => o = [] ∧ k = withPort h p w
    (v.state = .down → v.retryWait = false → h.boot.fwRunning = true → goes (.partnerSignalDetect c p) v.train) ∧
    (v.state = .down → v.retryWait = true → goes (.trainingRetryWaitExpiry c p) v.train) ∧
    v.train = { v with state := .training, helloSeen := false, helloRx := none, retryWait := false } ∧
    (∀ b, v.helloRx = some b → helloGood b = true → h.fab.noPort = [] → h.fab.txWait = [] →
      Runs c (.helloReceive c p) s fun k o => o = [] ∧
        tget .initial k.fab.ports p = { v with
          helloRx := none, helloSeen := true, partnerState := byteAt b 3, partnerDepths := (List.range 6).map fun j => byteAt b (4 + j)
          partnerId := if bit (field b 0 2) 15 then none else some (field b 0 2 % 32768) } ∧
        (∀ q, q ≠ p.val → tget .initial k.fab.ports q = tget .initial h.fab.ports q) ∧ k.mem = h.mem ∧
        k.obs = h.obs) ∧
    (v.state = .training → v.helloSeen = true → h.fab.noPort = [] → h.fab.txWait = [] →
      Runs c (.trainingComplete c p) s fun k _ =>
        (let w := tget .initial k.fab.ports p;
          w.state = (if h.boot.ready = true then .up else .notReady) ∧ w.fresh = false ∧ w.trainFails = 0 ∧
          w.toReplay = v.replay.length ∧ w.replay = v.replay ∧
          (∀ j < 6, (w.vc j).credits = if v.fresh = true then v.partnerDepths.getD j 0 else (v.vc j).credits)) ∧
        (∀ q, q ≠ p.val → tget .initial k.fab.ports q = tget .initial h.fab.ports q) ∧
        k.mem = h.mem ∧ k.config = h.config) ∧
    (v.state = .training →
      Runs c (.trainingFail c p) s fun k o => (v.trainFails ≠ 2 → o = []) ∧
        tget .initial k.fab.ports p = { v with state := .down, trainFails := v.trainFails + 1, retryWait := true, helloRx := none } ∧
        (∀ q, q ≠ p.val → tget .initial k.fab.ports q = tget .initial h.fab.ports q) ∧ k.mem = h.mem) ∧
    (v.state.live = true → h.fab.txWait = [] →
      Runs c (.lossOfSignal c p) s fun k _ =>
        (let w := tget .initial k.fab.ports p;
          w.state = .training ∧ w.helloSeen = false ∧ w.replay.map (·.bytes) = v.replay.map (·.bytes) ∧ w.vcs = v.vcs ∧
          w.reason = if v.state = .notReady then v.reason else 2) ∧
        (∀ q, q ≠ p.val → tget .initial k.fab.ports q = tget .initial h.fab.ports q) ∧ k.mem = h.mem ∧
        k.serve = h.serve))

/-- A DRIZZLE_REQ at an UP port that allows it and is not being woken is answered by an accept, and at any other by a refusal
(10 R263). An accept of this end's own request takes an UP port that has not refused the partner's, with nothing unacknowledged
and nothing to send, into DRIZZLE, and wakes it at once where a DATA flit waits (R264); on any other it only ends the request. A
refusal, or no answer, ends the request and leaves the port at full rate, counted once. A WAKE is answered by FULL_RATE, once,
and wakes a Dormant chip (02 R60); FULL_RATE takes a DRIZZLE port to UP, answered first where this end has not sent its own. A
failed wake takes a DRIZZLE port that is being woken to TRAINING, for reason 3, with what it holds kept. In each case the
message is taken from the received ones, its entry awaiting its credit's return, and nothing else of the chip changes; without
the message, nothing does. -/
def Obligations.DrizzleOfAPort : Prop :=
  (∀ (s : State) (c : Fin 8) (p : Fin 18) (r : List (Nat × Bytes)) (b : Bytes), let h := chipAt s c
    let v := tget .initial h.fab.ports p
    let w := tookMgmt v r
    v.mgmtRx = (2, b) :: r → byteAt b 0 = 1 →
    Runs c (.drizzleReq c p) s fun k o => o = [] ∧
      k = withPort h p (if v.driz.allow = true ∧ v.state = .up ∧ v.driz.waking = false then
        { w with driz := { v.driz with entering := true }, mgmtTx := v.mgmtTx ++ [(2, toLE 1 2)] }
      else { w with driz := { v.driz with entering := false, refused := v.driz.asked }, mgmtTx := v.mgmtTx ++ [(2, toLE 1 3)] })) ∧
  (∀ (s : State) (c : Fin 8) (p : Fin 18) (r : List (Nat × Bytes)) (b : Bytes), let h := chipAt s c
    let v := tget .initial h.fab.ports p
    let w := tookMgmt v r
    v.mgmtRx = (2, b) :: r → byteAt b 0 = 2 → h.fab.txWait = [] →
    Runs c (.drizzleAccept c p) s fun k o => o = [] ∧
      k = withPort h p (if v.driz.asked = false then w
      else if v.driz.refused = false ∧ v.state = .up ∧ v.replay = [] ∧ v.mgmtTx = [] then
        (if (w.vcs.any fun e => !e.2.tx.isEmpty) = true then
          { w with state := .drizzle, driz := { Drizzle.initial with allow := v.driz.allow, waking := true }, mgmtTx := [(2, toLE 1 4)] }
        else { w with state := .drizzle, driz := { Drizzle.initial with allow := v.driz.allow } })
      else { w with driz := { v.driz with asked := false, entering := !v.driz.refused, refused := false } })) ∧
  (∀ (s : State) (c : Fin 8) (p : Fin 18) (r : List (Nat × Bytes)) (b : Bytes), let h := chipAt s c
    let v := tget .initial h.fab.ports p
    let w := tookMgmt v r
    v.mgmtRx = (2, b) :: r → byteAt b 0 = 3 → h.obs.lull ≠ .frozen →
    Runs c (.drizzleRefuse c p) s fun k o => o = [] ∧
      k = if v.driz.asked = true then
        { withPort h p { w with driz := { v.driz with asked := false, entering := false, refused := false } } with
          obs := { h.obs with counters := tupd 0 h.obs.counters (ctrKey 9 p 15) fun n => (n + 1) % 2 ^ 48 } }
      else withPort h p w) ∧
  (∀ (s : State) (c : Fin 8) (p : Fin 18), let h := chipAt s c
    let v := tget .initial h.fab.ports p
    h.obs.lull ≠ .frozen →
    Runs c (.drizzleAnswerTimeout c p) s fun k o => o = [] ∧
      k = if v.driz.asked = true then
        { withPort h p { v with driz := { v.driz with asked := false, entering := false, refused := false } } with
          obs := { h.obs with counters := tupd 0 h.obs.counters (ctrKey 9 p 15) fun n => (n + 1) % 2 ^ 48 } }
      else h) ∧
  (∀ (s : State) (c : Fin 8) (p : Fin 18) (r : List (Nat × Bytes)) (b : Bytes), let h := chipAt s c
    let v := tget .initial h.fab.ports p
    let w := if v.driz.fullSent = true then tookMgmt v r
      else { tookMgmt v r with
        driz := { v.driz with waking := true, fullSent := true, entering := false }, mgmtTx := v.mgmtTx ++ [(2, toLE 1 5)] }
    v.mgmtRx = (2, b) :: r → byteAt b 0 = 4 → v.driz.asked = false → (v.state ≠ .drizzle ∨ v.driz.fullSeen = false) →
    (h.boot.pstate = .active ∨ h.boot.pstate = .idle ∧ h.boot.dormantEntry = false →
      Runs c (.wake c p) s fun k o => o = [] ∧ k = withPort h p w) ∧
    (h.boot.pstate = .dormant → h.boot.waking = false →
      Runs c (.wake c p) s fun k o => o = [] ∧
        k = { withPort h p w with boot := { h.boot with waking := true }, fab := (withPort h p w).fab.wakePorts })) ∧
  (∀ (s : State) (c : Fin 8) (p : Fin 18) (r : List (Nat × Bytes)) (b : Bytes), let h := chipAt s c
    let v := tget .initial h.fab.ports p
    let w := tookMgmt v r
    v.mgmtRx = (2, b) :: r → byteAt b 0 = 5 → h.fab.noPort = [] → h.fab.txWait = [] →
    Runs c (.fullRate c p) s fun k o => o = [] ∧
      k = withPort h p (if v.state = .drizzle then
        { w with
          state := .up, driz := { Drizzle.initial with allow := v.driz.allow }
          mgmtTx := v.mgmtTx ++ if v.driz.fullSent = true then [] else [(2, toLE 1 5)] }
      else { w with driz := { Drizzle.initial with allow := v.driz.allow } })) ∧
  (∀ (s : State) (c : Fin 8) (p : Fin 18), let h := chipAt s c
    let v := tget .initial h.fab.ports p
    h.fab.txWait = [] →
    Runs c (.drizzleWakeFail c p) s fun k o => o = [] ∧
      k = if v.state = .drizzle ∧ v.driz.waking = true then
        withPort h p { v with
          state := .training, reason := 3, helloSeen := false, helloRx := none, syncRx := []
          driz := { Drizzle.initial with allow := v.driz.allow } }
      else h) ∧
  (∀ (s : State) (c : Fin 8) (p : Fin 18), ∀ e ∈ [(1, Instr.drizzleReq c p), (2, .drizzleAccept c p), (3, .drizzleRefuse c p),
      (4, .wake c p), (5, .fullRate c p)],
    (∀ m, (tget .initial (chipAt s c).fab.ports p).mgmtRx.head? = some m → ¬(m.1 = 2 ∧ byteAt m.2 0 = e.1)) →
    Runs c e.2 s fun k o => o = [] ∧ k = chipAt s c)

/-- On an awake chip outside a Lull: the sequencer moves the head of a die's work queue to a Comb that its Super owns, which has
a free buffer entry, once its token wait is met, and a held descriptor takes the free entry. A FILL that may issue at the head
of a Comb's buffer, from a Comb store without errors, leaves the buffer and passes as one group per 64, 32 or 16 rows, each with
the accumulators of its rows and columns, into the Comb's drain queue, and past the eighth group of the queue waits in the
pipeline. A STREAM does so from its bank, which is then no longer fresh. TILE_LOAD_START, where no outstanding drain writes what
the load reads, marks the next tile to load and invalidates its bank's tag; TILE_LOAD_COMPLETE puts the tile with its tag into
the bank. GROUP_DRAIN_COMPLETE of a group of one row writes exactly the converted elements of the row at their place in C and
takes the group out of the queue, and groups of the pipeline take the free place; a tile of any Comb of the die that the write
meets is used no more. Other Combs, the configuration and, but for the drain, every byte of memory stay as they were. -/
def Obligations.CombArray : Prop :=
  (∀ (s : State) (c : Fin 8) (d : Fin 4) (k : Fin 32) (w : TokenWait) (q : QDesc) (r : List QDesc), let e := (chipAt s c).eng
    let v := tget .initial e.dies d
    let i := 32 * d.val + k.val
    let cb := tget .empty e.combs i
    (ctxOf s c).awake = true → (chipAt s c).obs.lull ≠ .frozen → v.work = q :: r →
    (superCombs (chipAt s c).config.active.superMap q.super).testBit i = true → cb.buf.length < 4 →
    (ctxOf s c).tokenMet d q.step q.bytes = true →
    Runs c (.descriptorSequencerRelease c d k w) s fun h o => o = [] ∧
      tget .empty h.eng.combs i = { cb with buf := cb.buf ++ [q] } ∧
      (∀ j, j ≠ i → tget .empty h.eng.combs j = tget .empty e.combs j) ∧
      tget .initial h.eng.dies d = { v with work := r ++ v.backlog.take 1, backlog := v.backlog.drop 1 } ∧
      (∀ j, j ≠ d.val → tget .initial h.eng.dies j = tget .initial e.dies j) ∧ h.mem = (chipAt s c).mem ∧
      h.serve = (chipAt s c).serve ∧ h.config = (chipAt s c).config) ∧
  (∀ (s : State) (c : Fin 8) (k : Fin 128) (f : Freezes) (q : QDesc), let e := (chipAt s c).eng
    let cb := tget .empty e.combs k
    let b := q.bytes
    let st := (chipAt s c).mem.store (.sram (k.val / 32))
    let n := ceilDiv (dRows b) (shapeRows (dShape b))
    let tile := fun u : Nat => (((List.range (dK b)).map fun i =>
      st.readN (dB b + u * dQStride b + i * dBPitch b) (rowBytes (dFmtB b) (dN b)), st.readN (dSB b + u * dQStride b) (sbBytes b)) : TileOf)
    st.poison = [] → st.ue = [] → st.ce = [] → st.onDie = [] → (ctxOf s c).issuable k 1 f = some q →
    Runs c (.fill c k f) s fun h o => o = [] ∧ (let cb' := tget .empty h.eng.combs k;
        cb'.buf = cb.buf.drop 1 ∧ cb'.lastShape = some (dShape b) ∧ cb'.hold = cb.hold ∧ cb'.sfu = cb.sfu ∧ cb'.sel = cb.sel ∧
        ∃ gs, cb'.drain ++ cb'.pipe = cb.drain ++ gs ∧ (cb.drain.length ≤ 8 → cb'.drain.length = min 8 (cb.drain.length + n)) ∧
          gs.length = n ∧ ∀ i g, gs[i]? = some g → g.desc = q ∧ g.row = i * shapeRows (dShape b) ∧
          g.poisoned = [] ∧ g.last = decide (i + 1 = n) ∧
          g.quads = (List.range (shapeQuads (dShape b))).map fun u => (List.range (groupRows b g.row)).map fun j =>
            (rowElems b (st.readN (dA b + u * dQStride b + (g.row + j) * dAPitch b) (rowBytes (dFmtA b) (dK b)))
              (st.readN (dSA b + u * dQStride b + (g.row + j) * saRow b) (saRow b)) (tile u)).map (·.1)) ∧
      (∀ j, j ≠ k.val → tget .empty h.eng.combs j = tget .empty e.combs j) ∧ h.mem = (chipAt s c).mem ∧
      h.serve.streams = (chipAt s c).serve.streams ∧ h.config = (chipAt s c).config) ∧
  (∀ (s : State) (c : Fin 8) (k : Fin 128) (f : Freezes) (q : QDesc), let e := (chipAt s c).eng
    let cb := tget .empty e.combs k
    let v := cb.bank (dWBank q.bytes)
    let st := (chipAt s c).mem.store (.sram (k.val / 32))
    st.poison = [] → st.ue = [] → st.ce = [] → st.onDie = [] → (ctxOf s c).issuable k 2 f = some q → v.serves q.bytes = true →
      v.bad = [] →
    Runs c (.stream c k f) s fun h o => o = [] ∧ (let cb' := tget .empty h.eng.combs k;
        cb'.buf = cb.buf.drop 1 ∧ cb'.lastShape = some (dShape q.bytes) ∧ (cb'.bank (dWBank q.bytes)).fresh = none ∧
        (cb'.drain ++ cb'.pipe).length = cb.drain.length + ceilDiv (dRows q.bytes) (shapeRows (dShape q.bytes))) ∧
      (∀ j, j ≠ k.val → tget .empty h.eng.combs j = tget .empty e.combs j) ∧ h.mem = (chipAt s c).mem ∧
      h.serve.streams = (chipAt s c).serve.streams ∧ h.config = (chipAt s c).config) ∧
  (∀ (s : State) (c : Fin 8) (k : Fin 128) (q : QDesc), let e := (chipAt s c).eng
    let cb := tget .empty e.combs k
    let i := dWBank q.bytes
    (ctxOf s c).awake = true → (chipAt s c).obs.lull ≠ .frozen →
    (cb.loading = none → cb.nextLoad = some q → cb.loadWaits q = false →
      Runs c (.tileLoadStart c k) s fun h o => o = [] ∧
        tget .empty h.eng.combs k = { cb.setBank i { cb.bank i with tag := none, fresh := none } with loading := some (i, q) } ∧
        (∀ j, j ≠ k.val → tget .empty h.eng.combs j = tget .empty e.combs j) ∧ h.mem = (chipAt s c).mem ∧
        h.serve = (chipAt s c).serve ∧ h.config = (chipAt s c).config) ∧
    (let st := (chipAt s c).mem.store (.sram (k.val / 32));
      cb.loading = some (i, q) → st.poison = [] → st.ue = [] → st.ce = [] → st.onDie = [] →
      Runs c (.tileLoadComplete c k) s fun h o => o = [] ∧ (let cb' := tget .empty h.eng.combs k;
          cb'.loading = none ∧ cb'.buf = cb.buf ∧ cb'.drain = cb.drain ∧ (cb'.bank i).tag = some (tagOf q.bytes) ∧
          (cb'.bank i).fresh = some (tagOf q.bytes) ∧ (cb'.bank i).scale = dScale q.bytes ∧ (cb'.bank i).bad = [] ∧
          (cb'.bank i).serves q.bytes = true) ∧
        (∀ j, j ≠ k.val → tget .empty h.eng.combs j = tget .empty e.combs j) ∧ h.mem = (chipAt s c).mem ∧
        h.serve.streams = (chipAt s c).serve.streams ∧ h.config = (chipAt s c).config)) ∧
  (∀ (s : State) (c : Fin 8) (k : Fin 128) (g : Group) (r : List Group) (es : List AccElem), let e := (chipAt s c).eng
    let cb := tget .empty e.combs k
    let b := g.desc.bytes
    let w := cBytes (dOutFmt b)
    let a := dC b + g.row * dCPitch b
    (ctxOf s c).awake = true → (chipAt s c).obs.lull ≠ .frozen → cb.drain = g :: r → g.quads = [[es]] → es ≠ [] →
    g.poisoned = [] → dAccIn b = false →
    Runs c (.groupDrainComplete c k) s fun h _ =>
      (tget .empty h.eng.combs k).drain.length = r.length + min (8 - r.length) cb.pipe.length ∧
      (tget .empty h.eng.combs k).buf = cb.buf ∧
      (∀ x, (h.mem.store (.sram (k.val / 32))).read x = if a ≤ x ∧ x < a + w * es.length then
        ((es.flatMap fun v => toLE w (drainElem b v 0).1).getD (x - a) 0)
        else ((chipAt s c).mem.store (.sram (k.val / 32))).read x) ∧
      (∀ x, (h.mem.store .hbm).read x = ((chipAt s c).mem.store .hbm).read x) ∧
      (∀ j, j ≠ k.val → let cj := tget .empty e.combs j
        tget .empty h.eng.combs j = if j / 32 = k.val / 32 then
          { cj with bank0 := cj.bank0.afterWrite a (w * es.length), bank1 := cj.bank1.afterWrite a (w * es.length) } else cj) ∧
      h.config = (chipAt s c).config)

/-- On an awake chip outside a Lull: a row operation at the head of a Comb's buffer, with the hold slot empty, is requested of
its unit where the request queue gives a credit, and set aside in the hold slot otherwise; HOLD_SLOT_RELEASE requests the held
one. SFU_TILE_GRANT grants the Comb that has waited longest. SFU_TILE_COMPLETE of a MAP tile, from a Comb store without errors,
writes exactly the encodings of FUNC(a x + b) of the tile's elements, and the Comb waits for its next tile; after the last tile
of the last row the operation is over. SELECTION_ROW_COMPLETE with K at most 64 writes exactly the K highest- ranked elements
with their indexes, and the Comb waits for its next row; after the last one the operation is over. A Comb that has a further
operation of the unit waits for it. The operations of other Combs, HBM and the configuration stay as they were. -/
def Obligations.RowOperations : Prop :=
  (∀ (s : State) (c : Fin 8) (k : Fin 128) (q : QDesc) (r : List QDesc), let e := (chipAt s c).eng
    let cb := tget .empty e.combs k
    let v := tget .initial e.dies (k.val / 32)
    let waits := fun (w : Die) => if dOp q.bytes = 3 then
        w.sfuQ = (if v.sfuQ.contains k.val || v.granted == some k.val then v.sfuQ else v.sfuQ ++ [k.val]) ∧ w.selQ = v.selQ
      else w.selQ = (if v.selQ.contains k.val then v.selQ else v.selQ ++ [k.val]) ∧ w.sfuQ = v.sfuQ
    let placed := fun (h : Chip) => let w := tget .initial h.eng.dies (k.val / 32)
      waits w ∧ w.work = v.work ∧ w.backlog = v.backlog ∧ w.tokens = v.tokens ∧ w.granted = v.granted
    let asked := fun (cb : Comb) => if dOp q.bytes = 3 then { cb with sfu := cb.sfu ++ [.start q] } else { cb with sel := cb.sel ++ [.start q] }
    let rest := fun (h : Chip) => (∀ j, j ≠ k.val → tget .empty h.eng.combs j = tget .empty e.combs j) ∧
      (∀ j, j ≠ k.val / 32 → tget .initial h.eng.dies j = tget .initial e.dies j) ∧ h.mem = (chipAt s c).mem ∧
      h.serve = (chipAt s c).serve ∧ h.config = (chipAt s c).config
    (ctxOf s c).awake = true → (chipAt s c).obs.lull ≠ .frozen →
    (∀ t ∈ [(Instr.sfuMap c k, sfuKind 0 q.bytes), (.softmax c k, sfuKind 1 q.bytes), (.rmsnorm c k, sfuKind 2 q.bytes),
        (.layernorm c k, sfuKind 3 q.bytes), (.selection c k, dOp q.bytes == 4)],
      t.2 = true → cb.buf = q :: r → cb.hold = none →
      ((ctxOf s c).rowCredit k q = true → Runs c t.1 s fun h o => o = [] ∧ placed h ∧ rest h ∧
        h.boot.pstate = .active ∧ tget .empty h.eng.combs k = asked { cb with buf := r }) ∧
      ((ctxOf s c).rowCredit k q = false → Runs c t.1 s fun h o => o = [] ∧ rest h ∧ h.eng.dies = e.dies ∧
        h.boot = (chipAt s c).boot ∧ tget .empty h.eng.combs k = { cb with buf := r, hold := some q })) ∧
    (∀ n, cb.hold = some q → (ctxOf s c).rowCredit k q = true →
      Runs c (.holdSlotRelease c k n) s fun h o => o = [] ∧ placed h ∧ rest h ∧
        tget .empty h.eng.combs k = asked { cb with hold := none })) ∧
  (∀ (s : State) (c : Fin 8) (d : Fin 4) (k : Nat) (r : List Nat), let e := (chipAt s c).eng
    let v := tget .initial e.dies d
    (ctxOf s c).awake = true → (chipAt s c).obs.lull ≠ .frozen → v.granted = none → v.sfuQ = k :: r →
    Runs c (.sfuTileGrant c d) s fun h o => o = [] ∧ (let w := tget .initial h.eng.dies d;
        w.granted = some k ∧ w.sfuQ = r ∧ w.selQ = v.selQ ∧ w.work = v.work) ∧ h.eng.combs = e.combs ∧ h.mem = (chipAt s c).mem ∧
      h.serve = (chipAt s c).serve ∧ h.config = (chipAt s c).config) ∧
  (∀ (s : State) (c : Fin 8) (d : Fin 4) (waited : List Nat) (k : Nat) (t : SfuCtx) (l : List SfuCtx), let e := (chipAt s c).eng
    let v := tget .initial e.dies d
    let cb := tget .empty e.combs k
    let b := t.desc.bytes
    let st := (chipAt s c).mem.store (.sram d.val)
    let w := outBytes (dOutFmt b)
    let a := tileAt (sOut b) t.row (sOutPitch b) t.tile w
    let n := tileLen b t.tile
    let xs := (List.range n).map fun i => inTo32 (sInFmt b)
      (field (st.readN (tileAt (sIn b) t.row (sInPitch b) t.tile (inBytes (sInFmt b))) (inBytes (sInFmt b) * n)) (inBytes (sInFmt b) * i) (inBytes (sInFmt b)))
    let ys := xs.map fun y => slotFn (dStrict b) (chipAt s c).config.active.micro (sFunc b) (fmaKeep (dStrict b) (sParam0 b) y (sParam1 b)).v
    let again := if v.sfuQ.contains k then v.sfuQ else v.sfuQ ++ [k]
    (ctxOf s c).awake = true → (chipAt s c).obs.lull ≠ .frozen → v.granted = some k → k / 32 = d.val → cb.sfu = t :: l →
    sRowOp b = 0 → dOp b = 3 → t.bad = false → st.poison = [] → st.ue = [] → st.ce = [] → st.onDie = [] →
    Runs c (.sfuTileComplete c d waited) s fun h _ =>
      (∀ x, (h.mem.store (.sram d.val)).read x = if a ≤ x ∧ x < a + w * n then
        ((ys.flatMap fun y => toLE w (convertOut (dOutFmt b) y.v).1).getD (x - a) 0) else st.read x) ∧
      (∀ x, (h.mem.store .hbm).read x = ((chipAt s c).mem.store .hbm).read x) ∧ (tget .initial h.eng.dies d).granted = none ∧
      h.config = (chipAt s c).config ∧ (∀ j, j ≠ k → (tget .empty h.eng.combs j).sfu = (tget .empty e.combs j).sfu) ∧
      (∀ j, (tget .empty h.eng.combs j).sel = (tget .empty e.combs j).sel) ∧
      (t.row < dRows b → 128 * (t.tile + 1) < rLen b → (tget .initial h.eng.dies d).sfuQ = again ∧
        ∃ u, (tget .empty h.eng.combs k).sfu = u :: l ∧ u.desc = t.desc ∧ u.row = t.row ∧ u.tile = t.tile + 1) ∧
      (dRows b ≤ t.row + 1 → rLen b ≤ 128 * (t.tile + 1) → t.pass = 0 → (tget .empty h.eng.combs k).sfu = l ∧
        (tget .initial h.eng.dies d).sfuQ = if l = [] then v.sfuQ else again)) ∧
  (∀ (s : State) (c : Fin 8) (d : Fin 4) (k : Nat) (r : List Nat) (t : SfuCtx) (l : List SfuCtx), let e := (chipAt s c).eng
    let v := tget .initial e.dies d
    let b := t.desc.bytes
    let st := (chipAt s c).mem.store (.sram d.val)
    let w := inBytes (lInFmt b)
    let a := lOut b + t.row * lOutPitch b
    let xs := (List.range (rLen b)).map fun i => inTo32 (lInFmt b) (field (st.readN (lIn b + t.row * lInPitch b) (w * rLen b)) (w * i) w)
    let again := if r.contains k then r else r ++ [k]
    (ctxOf s c).awake = true → (chipAt s c).obs.lull ≠ .frozen → v.selQ = k :: r → k / 32 = d.val →
    (tget .empty e.combs k).sel = t :: l → dOp b = 4 → lK b ≤ 64 → lK b ≤ rLen b → st.poison = [] → st.ue = [] → st.ce = [] →
    st.onDie = [] →
    Runs c (.selectionRowComplete c d) s fun h _ => (∃ stamp, ∀ x, (h.mem.store (.sram d.val)).read x = if a ≤ x ∧ x < a + 8 * lK b then
        (((selectRow (lOrder b) (lK b) stamp xs).flatMap fun y => toLE 4 y.1 ++ toLE 4 y.2.toNat).getD (x - a) 0) else st.read x) ∧
      (∀ x, (h.mem.store .hbm).read x = ((chipAt s c).mem.store .hbm).read x) ∧ h.config = (chipAt s c).config ∧
      (∀ j, j ≠ k → (tget .empty h.eng.combs j).sel = (tget .empty e.combs j).sel) ∧
      (∀ j, (tget .empty h.eng.combs j).sfu = (tget .empty e.combs j).sfu) ∧
      (t.row + 1 < dRows b → (tget .initial h.eng.dies d).selQ = again ∧
        ∃ u, (tget .empty h.eng.combs k).sel = u :: l ∧ u.desc = t.desc ∧ u.row = t.row + 1) ∧
      (dRows b ≤ t.row + 1 → (tget .empty h.eng.combs k).sel = l ∧
        (tget .initial h.eng.dies d).selQ = if l = [] then r else again))

/-- On an awake chip outside a Lull, each of the fourteen SFU steps, run on a lane whose program has not ended, changes of the
whole chip only that lane: of its registers only DST, and DST + 1 for the three range reductions; its latch only for LOOKUP; and
only END gives it a result. -/
def Obligations.SfuStepFrames : Prop :=
  ∀ (s : State) (c : Fin 8) (d : Fin 4) (n : Fin 64) (strict : Bool) (w : Word64), let e := (chipAt s c).eng
    let v := tget .initial e.dies d
    let l := tget .empty v.lanes n
    let u := w.toNat
    (ctxOf s c).awake = true → (chipAt s c).obs.lull ≠ .frozen → l.result = none →
    ∀ t ∈ [(Instr.sfuEnd c d n strict w, 0x00), (.rrExp c d n strict w, 0x01), (.rrLog c d n strict w, 0x02),
      (.rrTrig c d n strict w, 0x03), (.lookup c d n strict w, 0x04), (.qinterp c d n strict w, 0x05), (.fma c d n strict w, 0x06),
      (.rcpSeed c d n strict w, 0x07), (.rsqSeed c d n strict w, 0x08), (.nrRcp c d n strict w, 0x09), (.nrRsq c d n strict w, 0x0A),
      (.scale2 c d n strict w, 0x0B), (.cmpSel c d n strict w, 0x0C), (.expdiff c d n strict w, 0x0D)],
    wStep u = t.2 →
    Runs c t.1 s fun h o => o = [] ∧ ∃ l' : Lane,
      h = { chipAt s c with eng := { e with dies := tset .initial e.dies d { v with lanes := tset .empty v.lanes n l' } } } ∧
      (∀ r, r ≠ wDst u → (1 ≤ t.2 ∧ t.2 ≤ 3 → r ≠ wDst u + 1) → tget 0 l'.regs r = tget 0 l.regs r) ∧
      (t.2 = 0 → l'.regs = l.regs) ∧ (t.2 ≠ 0 → l'.result = none) ∧ (t.2 = 0 → l'.result = some (outFn strict (l.reg u (wSA u))).v) ∧
      (t.2 ≠ 4 → l'.latch = l.latch)

/-- On an awake chip outside a Lull and a lane whose program has not ended: FMA gives the fused multiply-add of its operands and
gathers its flags; NR_RCP and NR_RSQ give their formula formed exactly and rounded once; CMP_SEL gives SC where the condition
holds and keeps DST otherwise; SCALE2 of a finite nonzero SA by an integer of at most 600 in size gives SA times that power of
two, rounded once; EXPDIFF of two equal finite numbers gives 1, and of minus infinity +0; the seeds of a zero give the infinity
of its sign, and RSQ_SEED of a negative number NaN; RR_EXP of a finite number with IMM[0] set gives the nearest integer in DST +
1; RR_LOG gives the exponent in DST + 1, minus infinity for a zero and NaN for a negative number; RR_TRIG of a number below an
eighth of a turn gives it back, in Fast flushed, with quadrant 0; LOOKUP gives the fraction and latches its segment's
coefficients, QINTERP the quadratic over the latch as two fused multiply-adds; and the reductions, LOOKUP, QINTERP and the seeds
give the canonical NaN of a NaN. -/
def Obligations.SfuStepResults : Prop :=
  ∀ (s : State) (c : Fin 8) (d : Fin 4) (n : Fin 64) (strict : Bool) (w : Word64),
    let l := tget .empty (tget .initial (chipAt s c).eng.dies d).lanes n
    let u := w.toNat
    let a := l.reg u (wSA u)
    let b := l.reg u (wSB u)
    let y := tget 0 l.regs (wDst u)
    let gives := fun (i : Instr) (P : Lane → Prop) => Runs c i s fun h o => o = [] ∧
      P (tget .empty (tget .initial h.eng.dies d).lanes n)
    let dst := fun (l' : Lane) => tget 0 l'.regs (wDst u)
    let dst1 := fun (l' : Lane) => tget 0 l'.regs (wDst u + 1)
    (ctxOf s c).awake = true → (chipAt s c).obs.lull ≠ .frozen → l.result = none → wDst u < 14 →
    (wStep u = 0x06 → gives (.fma c d n strict w) fun l' => dst l' = (fma32 strict a b (l.reg u (wSC u))).v ∧
      l'.flags = l.flags.or (fma32 strict a b (l.reg u (wSC u))).flags) ∧
    (wStep u = 0x09 → gives (.nrRcp c d n strict w) fun l' => ∃ i,
      dst l' = (((dec32 y).mul ((FV.fin false 2 0).add ((dec32 a).mul (dec32 y)).1.neg).1).1.to32 strict i).v) ∧
    (wStep u = 0x0A → gives (.nrRsq c d n strict w) fun l' => ∃ i,
      dst l' = (((dec32 y).mul ((FV.fin false 3 (-1)).add
        ((((FV.fin false 1 (-1)).mul (dec32 a)).1.mul (dec32 y)).1.mul (dec32 y)).1.neg).1).1.to32 strict i).v) ∧
    (wStep u = 0x0C → gives (.cmpSel c d n strict w) fun l' =>
      dst l' = if cmpCond (wCond u) a b = true then l.reg u (wSC u) else y) ∧
    (∀ ng m e k, wStep u = 0x0B → dec32 a = .fin ng m e → m ≠ 0 → intOf32 b = some k → -600 ≤ k → k ≤ 600 →
      gives (.scale2 c d n strict w) fun l' => dst l' = (round32 strict ng m (e + k) false).v) ∧
    (wStep u = 0x0D →
      (∀ ng m e, dec32 a = .fin ng m e → dec32 b = .fin ng m e → gives (.expdiff c d n strict w) fun l' => dst l' = one32) ∧
      (∀ ng m e, dec32 a = .inf true → dec32 b = .fin ng m e → gives (.expdiff c d n strict w) fun l' => dst l' = 0)) ∧
    (∀ ng e, dec32 a = .fin ng 0 e →
      (wStep u = 0x07 → gives (.rcpSeed c d n strict w) fun l' => dst l' = inf32 ng ∧ (strict = true → l'.flags.divZero = true)) ∧
      (wStep u = 0x08 → gives (.rsqSeed c d n strict w) fun l' => dst l' = inf32 ng ∧ (strict = true → l'.flags.divZero = true)) ∧
      (wStep u = 0x02 → gives (.rrLog c d n strict w) fun l' => dst1 l' = inf32 true ∧ (strict = true → l'.flags.divZero = true))) ∧
    (∀ m e, dec32 a = .fin true m e → m ≠ 0 →
      (wStep u = 0x08 → gives (.rsqSeed c d n strict w) fun l' => dst l' = nan32 ∧ (strict = true → l'.flags.invalid = true)) ∧
      (wStep u = 0x02 → gives (.rrLog c d n strict w) fun l' =>
        dst l' = nan32 ∧ dst1 l' = nan32 ∧ (strict = true → l'.flags.invalid = true))) ∧
    (∀ m e, wStep u = 0x02 → dec32 a = .fin false m e → m ≠ 0 →
      gives (.rrLog c d n strict w) fun l' => dst1 l' = ofInt32 (e + m.log2 + b2n (decide (3 * 2 ^ m.log2 ≤ 2 * m)))) ∧
    (∀ ng m e, wStep u = 0x01 → dec32 a = .fin ng m e → bit (wImm u) 0 = true →
      gives (.rrExp c d n strict w) fun l' =>
        dst1 l' = if nearestInt m e = 0 then zero32 ng else (round32 strict ng (nearestInt m e) 0 false).v) ∧
    (∀ ng m e, wStep u = 0x03 → dec32 a = .fin ng m e → 2 * (m * 2 ^ (e + 149).toNat * twoOverPi256) + 2 ^ 405 < 2 * 2 ^ 405 →
      gives (.rrTrig c d n strict w) fun l' => dst l' = (if m = 0 then a else (round32 strict ng m e false).v) ∧ dst1 l' = 0) ∧
    (wStep u = 0x04 → isNan a = false → gives (.lookup c d n strict w) fun l' =>
      (let t := clamp01 (dec32 a) * 2 ^ bits (wImm u) 12 4;
       let i := bits (wImm u) 0 12 + t / 2 ^ 149;
        l'.latch = some (Config.romCoeff i 0, Config.romCoeff i 1, Config.romCoeff i 2) ∧
        dst l' = if t % 2 ^ 149 = 0 then 0 else (round32 strict false (t % 2 ^ 149) (-149) false).v)) ∧
    (∀ c0 c1 c2, wStep u = 0x05 → isNan a = false → l.latch = some (c0, c1, c2) →
      gives (.qinterp c d n strict w) fun l' => dst l' = (fma32 strict (fma32 strict c2 a c1).v a c0).v) ∧
    (isNan a = true → ∀ t ∈ [(Instr.rrExp c d n strict w, 0x01), (.rrLog c d n strict w, 0x02), (.rrTrig c d n strict w, 0x03),
      (.lookup c d n strict w, 0x04), (.qinterp c d n strict w, 0x05), (.rcpSeed c d n strict w, 0x07), (.rsqSeed c d n strict w, 0x08)],
      wStep u = t.2 → gives t.1 fun l' => dst l' = nan32)

/-- Outside a Lull, a well-formed WRITE of a current epoch at the head of a channel is taken from the receive buffer; inside its
Super's general area it stores exactly its granules and is answered with STATUS 0; outside, or of a stale epoch, it stores
nothing and is answered with 0x0504 or 0x0503. A COLLECTIVE that its group accepts stores exactly its granules and adds LEN to
ARRIVED of its group and rank; any other is dropped and counted in COLL_REJECT. A WRITE_RESP, a WRITE without one for 1 ms and a
WRITE that finds no port for 1 ms end the outstanding WRITE with its status at its Forager. A message that waits without a
credit moves whole to the escape channel of its escape plane, where there is room, and is counted. A pending route section whose
EPOCH_TIME has come takes effect whole, and clears ARRIVED. -/
def Obligations.FabricMessages : Prop :=
  (∀ (s : State) (c : Fin 8) (p : Fin 18) (vc : Fin 6) (y : Ctx) (m : Bytes) (id q : Nat),
    let a := sliceBase (chipAt s c).config.active.superMap (mSuper m) + mAddr m
    let inside := inGeneral (chipAt s c).config.active.superMap (mSuper m) (mAddr m) (64 * mLen m)
    let answered := fun (k : Chip) (st : Nat) =>
      let r := setField (msgHead 2 0 (mSrc m) id (mSuper m) 0 (mTag m) st 0 0 0) 6 2 ((ctxOf s c).epoch % 65536);
      ((tget .initial k.fab.ports q).vc 1).tx =
          ((tget .initial (chipAt s c).fab.ports q).vc 1).tx ++ [⟨true, r.take 16, none⟩, ⟨false, r.drop 16, none⟩] ∧
        ((tget .initial k.fab.ports p).vc vc).rx = ((y.port p).vc vc).rx ∧
        (∀ j, j ≠ q → j ≠ p.val → tget .initial k.fab.ports j = tget .initial (chipAt s c).fab.ports j) ∧
        k.config = (chipAt s c).config ∧ k.serve = (chipAt s c).serve ∧ k.boot = (chipAt s c).boot ∧ k.eng = (chipAt s c).eng
    (chipAt s c).obs.lull ≠ .frozen → (ctxOf s c).takeMsg p vc = some (y, m) → msgBad vc m = false → mOp m = 1 →
    (mData m).length = 64 * mLen m → (ctxOf s c).chipId = some id → id ≠ mSrc m → bit ((ctxOf s c).dest (mSrc m)) 22 = true →
    (ctxOf s c).mostCredits 1 ((ctxOf s c).allowedUp (mSrc m)) = some q → (ctxOf s c).hasRoom q 1 32 = true →
    ((ctxOf s c).freshEpoch m = true → inside = true →
      Runs c (.writeReceive c p vc) s fun k _ => answered k 0 ∧
        (∀ b, (k.mem.store .hbm).read b = if a ≤ b ∧ b < a + 64 * mLen m then (mData m).getD (b - a) 0
          else ((chipAt s c).mem.store .hbm).read b) ∧
        (∀ d : Fin 4, ∀ b, (k.mem.store (.sram d)).read b = ((chipAt s c).mem.store (.sram d)).read b)) ∧
    ((ctxOf s c).freshEpoch m = true → inside = false →
      Runs c (.writeReceive c p vc) s fun k _ => answered k 0x0504 ∧ k.mem = (chipAt s c).mem) ∧
    ((ctxOf s c).freshEpoch m = false →
      Runs c (.writeReceive c p vc) s fun k _ => answered k 0x0503 ∧ k.mem = (chipAt s c).mem)) ∧
  (∀ (s : State) (c : Fin 8) (p : Fin 18) (vc : Fin 6) (y : Ctx) (m : Bytes),
    let a := sliceBase (chipAt s c).config.active.superMap (mSuper m) + mAddr m % 2 ^ 48
    let key := bits (mAddr m) 48 6 * 64 + bits (mAddr m) 54 6
    (chipAt s c).obs.lull ≠ .frozen → (ctxOf s c).takeMsg p vc = some (y, m) → msgBad vc m = false → mOp m = 3 →
    (mData m).length = 64 * mLen m → (ctxOf s c).freshEpoch m = true →
    ((ctxOf s c).collectiveOk m = true →
      Runs c (.collectiveReceive c p vc) s fun k _ =>
        (∀ b, (k.mem.store .hbm).read b = if a ≤ b ∧ b < a + 64 * mLen m then (mData m).getD (b - a) 0
          else ((chipAt s c).mem.store .hbm).read b) ∧
        tget 0 k.fab.arrived key = tget 0 (chipAt s c).fab.arrived key + BitVec.ofNat 32 (mLen m) ∧
        (∀ j, j ≠ key → tget 0 k.fab.arrived j = tget 0 (chipAt s c).fab.arrived j) ∧
        (∀ j, j ≠ p.val → tget .initial k.fab.ports j = tget .initial (chipAt s c).fab.ports j) ∧
        k.config = (chipAt s c).config ∧ k.serve = (chipAt s c).serve ∧ k.boot = (chipAt s c).boot) ∧
    ((ctxOf s c).collectiveOk m = false →
      Runs c (.collectiveReceive c p vc) s fun k o => o = [] ∧ k.mem = (chipAt s c).mem ∧ k.fab.arrived = (chipAt s c).fab.arrived ∧
        tget 0 k.obs.counters (ctrKey 0x0A 0 2) = (tget 0 (chipAt s c).obs.counters (ctrKey 0x0A 0 2) + 1) % 2 ^ 48 ∧
        ((tget .initial k.fab.ports p).vc vc).rx = ((y.port p).vc vc).rx)) ∧
  (∀ (s : State) (c : Fin 8) (p : Fin 18) (y : Ctx) (m : Bytes) (w : Outstanding) (tag : Nat) (wm : WaitMsg) (r : List WaitMsg),
    let v := tget .idle (chipAt s c).eng.foragers w.forager
    let ended := fun (i : Instr) (st : Nat) => Runs c i s fun k o => o = [] ∧
      k.fab.outstanding = (chipAt s c).fab.outstanding.filter (fun o => o.tag != tag) ∧
      tget .idle k.eng.foragers w.forager = { v with
        unacked := v.unacked.filter (· != tag), failed := if st = 0 then v.failed else worse v.failed (st, w.offset)
        badGranules := if st = 0 then v.badGranules else v.badGranules + w.granules } ∧
      (∀ j, j ≠ w.forager → tget .idle k.eng.foragers j = tget .idle (chipAt s c).eng.foragers j) ∧
      k.mem = (chipAt s c).mem ∧ k.serve = (chipAt s c).serve ∧ k.config = (chipAt s c).config ∧ k.stew = (chipAt s c).stew
    (chipAt s c).obs.lull ≠ .frozen → ((chipAt s c).fab.outstanding.find? fun o => o.tag == tag) = some w →
    ((ctxOf s c).takeMsg p 1 = some (y, m) → msgBad 1 m = false → mOp m = 2 → (ctxOf s c).freshEpoch m = true → mTag m = tag →
      ended (.writeRespReceive c p) (if mStatus m = 0 then 0 else if mStatus m = 0x0503 then 0x0503 else 0x0504)) ∧
    ended (.writeRespTimeout c tag) 0x0502 ∧
    ((chipAt s c).fab.noPort = wm :: r → wm.tag = some tag → tag < 65536 →
      ended (.noPortTimeout c) 0x0500 ∧ Runs c (.noPortTimeout c) s fun k _ => k.fab.noPort = r)) ∧
  (∀ (s : State) (c : Fin 8) (p : Fin 18) (vc : Fin 6) (f : Slot) (r : List Slot),
    let w := (tget .initial (chipAt s c).fab.ports p).vc vc
    let n := 2 + 4 * (byteAt f.bytes 1 % 32)
    let d := field f.bytes 2 2 % 32768
    let e := bits ((ctxOf s c).dest d) 18 4
    (chipAt s c).obs.lull ≠ .frozen → w.tx = f :: r → f.start = true → vc = 0 ∨ vc = 2 ∨ vc = 3 →
    (ctxOf s c).dest d % 65536 ≠ 0 → (tget .initial (chipAt s c).fab.ports e).state = .up →
    (∀ j ∈ (ctxOf s c).allowedUp d, ((tget .initial (chipAt s c).fab.ports j).vc vc).credits = 0) →
    ((tget .initial (chipAt s c).fab.ports e).vc 5).tx.length + n ≤ vcRoom → (chipAt s c).fab.txWait = [] →
    Runs c (.escapeTimeout c p vc) s fun k o => o = [] ∧
      ((tget .initial k.fab.ports p).vc vc).tx = w.tx.drop n ∧
      ((tget .initial k.fab.ports e).vc 5).tx = ((tget .initial (chipAt s c).fab.ports e).vc 5).tx ++ w.tx.take n ∧
      (∀ j, j ≠ p.val → j ≠ e → tget .initial k.fab.ports j = tget .initial (chipAt s c).fab.ports j) ∧
      tget 0 k.obs.counters (ctrKey 0x0A 0 1) = (tget 0 (chipAt s c).obs.counters (ctrKey 0x0A 0 1) + 1) % 2 ^ 48 ∧
      k.mem = (chipAt s c).mem ∧ k.serve = (chipAt s c).serve ∧ k.config = (chipAt s c).config) ∧
  (∀ (s : State) (c : Fin 8) (m : Mem) (r : List Mem), (chipAt s c).config.pendingRoutes = m :: r →
    imgField m 8 8 ≤ (ctxOf s c).time → (chipAt s c).fab.noPort = [] → (chipAt s c).fab.txWait = [] →
    Runs c (.routeEpochTakeEffect c) s fun k _ =>
      k.config = { (chipAt s c).config with
        active := { (chipAt s c).config.active with routes := m }, pendingRoutes := r
        prevEpoch := some ((ctxOf s c).epoch, (ctxOf s c).time) } ∧
      k.fab = { (chipAt s c).fab with arrived := [] } ∧ k.mem = (chipAt s c).mem ∧ k.serve = (chipAt s c).serve ∧
      ∃ e ∈ k.stew.events, e.code = 0x0A01)

/-- SYNC_TIMER on a port that runs its link sends a REQUEST with t1; a received REQUEST is answered by a RESPONSE with its t1,
t2 and t3, on a port that does not run its link by nothing. The stamps are the command's where they are within 3 ns of the
chip's fabric time, else that time (the second is the model's choice, notes/assumptions/94.md). A received RESPONSE on a port
other than the parent only reports the offset ((t2 - t1) - (t4 - t3)) / 2. On the parent port, one whose delay is more than 8 ns
over the least kept one is dropped and counted and moves no time; an unsynchronised chip with no offset kept steps its time by
the offset; a synchronised one with no offset kept and an offset of at most 1 us moves its time by no more than the offset,
towards it, and no more than 200 ppm of the port's exchange interval. SYNC_LOST moves no time, leaves the chip unsynchronised
and posts its event. A RELEASE_AT from an authorised chip that names the frozen Lull and lies before its release time replaces
it; one that does not is dropped and counted; a ROUTED message of a chip that is not authorised changes nothing of the Lull, and
its RELEASE_AT is counted too. -/
def Obligations.TimeSynchronisation : Prop :=
  (∀ (s : State) (c : Fin 8) (p : Fin 18) (t : Word64), let h := chipAt s c
    let v := tget .initial h.fab.ports p
    let stamp := if (t - h.fab.time).toNat ≤ 3 ∨ (h.fab.time - t).toNat ≤ 3 then t.toNat else h.fab.time.toNat
    (v.state.live = true → Runs c (.syncTimer c p t) s fun k o =>
      o = [.flit c p (flitBytes (v.head 3 0 0 0 0) ([1] ++ toLE 7 0 ++ toLE 8 stamp))] ∧
      k = { withPort h p { v with ackDue := false } with ledger := k.ledger }) ∧
    (∀ b t2 r, v.syncRx = (b, t2) :: r → byteAt b 0 = 1 → v.state.live = true → Runs c (.syncRequestReceive c p t) s fun k o =>
      o = [.flit c p (flitBytes (v.head 3 0 0 0 0) ([2] ++ toLE 7 0 ++ toLE 8 (field b 8 8) ++ toLE 8 t2 ++ toLE 8 stamp))] ∧
      tget .initial k.fab.ports p = { v with syncRx := r, ackDue := false } ∧
      (∀ j, j ≠ p.val → tget .initial k.fab.ports j = tget .initial h.fab.ports j) ∧ k.fab.time = h.fab.time ∧
      k.mem = h.mem ∧ k.obs = h.obs) ∧
    (∀ b t2 r, v.syncRx = (b, t2) :: r → byteAt b 0 = 1 → v.state.live = false → Runs c (.syncRequestReceive c p t) s fun k o =>
      o = [] ∧ k = withPort h p { v with syncRx := r })) ∧
  (∀ (s : State) (c : Fin 8) (p : Fin 18) (b : Bytes) (t4 : Nat) (r : List (Bytes × Nat)),
    let v := tget .initial (chipAt s c).fab.ports p
    let t1 : Int := field b 8 8
    let t2 : Int := field b 16 8
    let t3 : Int := field b 24 8
    let off : Int := ((t2 - t1) - (t4 - t3)) / 2
    let delay : Int := ((t2 - t1) + (t4 - t3)) / 2
    let rest := fun (k : Chip) => k.mem = (chipAt s c).mem ∧ k.config = (chipAt s c).config ∧ k.serve = (chipAt s c).serve ∧
      (∀ j, j ≠ p.val → tget .initial k.fab.ports j = tget .initial (chipAt s c).fab.ports j) ∧
      (tget .initial k.fab.ports p).syncRx = r ∧ (tget .initial k.fab.ports p).offset = off
    v.syncRx = (b, t4) :: r → byteAt b 0 = 2 →
    ((ctxOf s c).syncParent ≠ some p.val → Runs c (.syncResponseReceive c p) s fun k o => o = [] ∧ rest k ∧
      k.fab.time = (chipAt s c).fab.time ∧ k.fab.synced = (chipAt s c).fab.synced) ∧
    ((ctxOf s c).syncParent = some p.val → (∃ m, v.delays.min? = some m ∧ m + 8 < delay) →
      Runs c (.syncResponseReceive c p) s fun k o => o = [] ∧ k.fab.time = (chipAt s c).fab.time ∧
        k.fab.synced = (chipAt s c).fab.synced ∧ (tget .initial k.fab.ports p).outliers = v.outliers + 1 ∧
        (tget .initial k.fab.ports p).delays = v.delays ∧ (tget .initial k.fab.ports p).syncRx = r) ∧
    ((ctxOf s c).syncParent = some p.val → (∀ m ∈ v.delays, delay ≤ m + 8) → v.offsets = [] →
      ((chipAt s c).fab.synced = false → (chipAt s c).obs.lull ≠ .armed → Runs c (.syncResponseReceive c p) s fun k o => o = [] ∧
        rest k ∧
        k.fab.time = (chipAt s c).fab.time + BitVec.ofInt 64 off ∧ k.fab.synced = true ∧ k.fab.syncLost = false ∧
        (tget .initial k.fab.ports p).outliers = 0 ∧ (tget .initial k.fab.ports p).offsets = []) ∧
      ((chipAt s c).fab.synced = true → (chipAt s c).fab.syncLost = false → off.natAbs ≤ 1000 →
        Runs c (.syncResponseReceive c p) s fun k o => o = [] ∧ rest k ∧ k.fab.synced = true ∧
        (tget .initial k.fab.ports p).offsets = [off] ∧
        ∃ n : Int, k.fab.time = (chipAt s c).fab.time + BitVec.ofInt 64 n ∧ n.natAbs ≤ off.natAbs ∧ 0 ≤ n * off ∧
          n.natAbs ≤ if v.state = .drizzle then 200 else 2))) ∧
  (∀ (s : State) (c : Fin 8) (p : Nat), (ctxOf s c).syncParent = some p → (chipAt s c).fab.syncLost = false →
    Runs c (.syncLost c) s fun k _ => k.fab.syncLost = true ∧ k.fab.synced = false ∧ k.fab.time = (chipAt s c).fab.time ∧
      (∀ j, j ≠ p → tget .initial k.fab.ports j = tget .initial (chipAt s c).fab.ports j) ∧ (∃ e ∈ k.stew.events, e.code = 0x0905) ∧
      k.mem = (chipAt s c).mem ∧ k.config = (chipAt s c).config) ∧
  (∀ (s : State) (c : Fin 8) (p : Fin 18) (b : Bytes) (r : List (Nat × Bytes)), let v := tget .initial (chipAt s c).fab.ports p
    let early := byteAt b 8 = 1 ∧ field b 12 4 = lullId (chipAt s c).config.active.lull ∧
      field b 16 8 < lullRelease (chipAt s c).config.active.lull
    v.mgmtRx = (2, b) :: r → byteAt b 0 = 0x10 →
    ((ctxOf s c).chipId.isSome = true → (ctxOf s c).authorised (field b 2 2) = true → byteAt b 6 = 1 →
      ((chipAt s c).obs.lull = .frozen → early → Runs c (.routed c p) s fun k o => o = [] ∧
        k.obs = { (chipAt s c).obs with releaseAt := field b 16 8 } ∧ (tget .initial k.fab.ports p).mgmtRx = r ∧
        k.mem = (chipAt s c).mem ∧ k.config = (chipAt s c).config ∧ k.serve = (chipAt s c).serve) ∧
      ((chipAt s c).obs.lull ≠ .frozen → Runs c (.routed c p) s fun k o => o = [] ∧ k.obs.releaseAt = (chipAt s c).obs.releaseAt ∧
        k.obs.lull = (chipAt s c).obs.lull ∧
        tget 0 k.obs.counters (ctrKey 0x0A 0 14) = (tget 0 (chipAt s c).obs.counters (ctrKey 0x0A 0 14) + 1) % 2 ^ 48)) ∧
    ((ctxOf s c).authorised (field b 2 2) = false → Runs c (.routed c p) s fun k _ =>
      k.obs.releaseAt = (chipAt s c).obs.releaseAt ∧ k.obs.lull = (chipAt s c).obs.lull ∧ k.mem = (chipAt s c).mem ∧
      k.config = (chipAt s c).config ∧
      (byteAt b 6 = 1 → byteAt b 8 = 1 → (chipAt s c).obs.lull ≠ .frozen →
        tget 0 k.obs.counters (ctrKey 0x0A 0 14) = (tget 0 (chipAt s c).obs.counters (ctrKey 0x0A 0 14) + 1) % 2 ^ 48)))

/-- An armed chip whose time has reached T is frozen: FREEZE_TIME is the time, the release time is that of its section, every
port that is UP or in DRIZZLE has its CUT queued and its own report kept and no other port a CUT, an open Gust window is closed,
and no stream, step or queue of the array and no memory but the trace's system space changes. A partner's CUT is kept with its
port, and marked missing where it has not come within its time. Once every CUT has come or is missing, the cut record is written
to CUT_PTR once, and LULL_CUT is posted. At the release time the chip is DISARMED, no addition is held any more, what was held
for a counter of a Comb is added to it, each such port has its RELEASE queued, the window of the previous epoch is moved by the
Lull, and LULL_RELEASED is posted. -/
def Obligations.LullOfAChip : Prop :=
  (∀ (s : State) (c : Fin 8), let m := (chipAt s c).config.active.lull
    let sys := (chipAt s c).mem.store .system
    (chipAt s c).obs.lull = .armed → lullT m ≤ (ctxOf s c).time →
    sys.ue = [] → sys.ce = [] → sys.fix = [] → sys.onDie = [] → sys.poison = [] →
    Runs c (.lullFreeze c) s fun k o => o = [] ∧
      k.obs.lull = .frozen ∧ k.obs.freezeTime = (ctxOf s c).time ∧ k.obs.releaseAt = lullRelease m ∧ k.obs.cutWritten = false ∧
      k.obs.unsynced = (chipAt s c).fab.syncLost ∧ k.power.gust = none ∧
      (∀ p < 18, let v := tget .initial (chipAt s c).fab.ports p
        let w := tget .initial k.fab.ports p
        w.cutState = linkCode v.state ∧ w.state = v.state ∧ w.vcs = v.vcs ∧ w.replay = v.replay ∧
        (v.state = .up ∨ v.state = .drizzle → w.ownCut = some v.report ∧ w.mgmtTx = v.mgmtTx ++ [(4, cutBody (lullT m) v.report)]) ∧
        (v.state ≠ .up → v.state ≠ .drizzle → w.ownCut = v.ownCut ∧ w.mgmtTx = v.mgmtTx)) ∧
      (∀ q, q ≠ .system → k.mem.store q = (chipAt s c).mem.store q) ∧ k.serve = (chipAt s c).serve ∧ k.eng = (chipAt s c).eng ∧
      k.stew = (chipAt s c).stew ∧ k.config = (chipAt s c).config) ∧
  (∀ (s : State) (c : Fin 8) (p : Fin 18) (b : Bytes) (r : List (Nat × Bytes)), let h := chipAt s c
    let v := tget .initial h.fab.ports p
    (v.mgmtRx = (4, b) :: r → byteAt b 0 = 1 → Runs c (.lullFlitReceive c p) s fun k o => o = [] ∧
      tget .initial k.fab.ports p = { tookMgmt v r with partnerCut := some b } ∧
      (∀ j, j ≠ p.val → tget .initial k.fab.ports j = tget .initial h.fab.ports j) ∧ k.obs = h.obs ∧
      k.mem = h.mem) ∧
    (v.mgmtRx = (4, b) :: r → byteAt b 0 = 2 → Runs c (.lullFlitReceive c p) s fun k o => o = [] ∧ k = withPort h p (tookMgmt v r)) ∧
    (h.obs.lull = .frozen → v.ownCut.isSome = true → v.partnerCut = none →
      Runs c (.cutPartnerTimeout c p) s fun k o => o = [] ∧ k = withPort h p { v with cutMissing := true })) ∧
  (∀ (s : State) (c : Fin 8), let m := (chipAt s c).config.active.lull
    let missing := (List.range 18).any fun p =>
      (tget .initial (chipAt s c).fab.ports p).cutMissing && (tget .initial (chipAt s c).fab.ports p).partnerCut.isNone
    (chipAt s c).obs.lull = .frozen → (chipAt s c).obs.cutWritten = false → (ctxOf s c).cutsIn = true →
    (chipAt s c).boot.linkFatal = false →
    Runs c (.lullCut c) s fun k o => .hostWrite c (lullCutPtr m) ((ctxOf s c).cutRecord missing) false false ∈ o ∧
      k.obs.cutWritten = true ∧ k.obs.lull = .frozen ∧ (∃ e ∈ k.stew.events, e.code = 0x0C01) ∧ k.mem = (chipAt s c).mem ∧
      k.fab = (chipAt s c).fab ∧ k.serve = (chipAt s c).serve) ∧
  (∀ (s : State) (c : Fin 8) (key n : Nat), let m := (chipAt s c).config.active.lull
    (chipAt s c).obs.lull = .frozen → (chipAt s c).obs.releaseAt ≤ (ctxOf s c).time → (chipAt s c).obs.stopInLull = false →
    lullCoord m = false → (chipAt s c).obs.pending = [(key, n)] → key / 2 ^ 24 = 0x02 →
    Runs c (.lullRelease c) s fun k _ =>
      k.obs.lull = .disarmed ∧ k.obs.pending = [] ∧
      tget 0 k.obs.counters key = (tget 0 (chipAt s c).obs.counters key + n) % 2 ^ 48 ∧
      (∃ e ∈ k.stew.events, e.code = 0x0C02) ∧
      (∀ p < 18, let v := tget .initial (chipAt s c).fab.ports p
        let w := tget .initial k.fab.ports p
        w.ownCut = none ∧ w.partnerCut = none ∧ w.cutMissing = false ∧ w.state = v.state ∧ w.vcs = v.vcs ∧
        (v.state = .up ∨ v.state = .drizzle → w.mgmtTx = v.mgmtTx ++ [(4, [2] ++ toLE 7 0 ++ toLE 8 (lullT m))]) ∧
        (v.state ≠ .up → v.state ≠ .drizzle → w.mgmtTx = v.mgmtTx)) ∧
      (∀ q, q ≠ .system → k.mem.store q = (chipAt s c).mem.store q) ∧ k.eng = (chipAt s c).eng ∧
      k.config = { (chipAt s c).config with prevEpoch := (chipAt s c).config.prevEpoch.map fun e =>
        (e.1, e.2 + ((ctxOf s c).time - max (chipAt s c).obs.freezeTime e.2)) })

/-- COUNTER_SELECT READ completes with the read-out of 37,192 B at byte 16 of its result buffer, which carries its length, the
fabric time and the value of every programmable counter at its place, and changes no counter, no set and no memory. HEALTH_QUERY
READ completes with the health structure and changes no log; READ_AND_CLEAR does the same on queue pair 0 and empties the log,
and on any other is refused with 0x0102. TRACE_CONFIG refuses a misaligned base and a bad size, answers 0x0002 where nothing
changes, and otherwise stores its settings, PRODUCER and CONSUMER 0 for a new ring, whose first eight bytes in host memory are
then 0. A trace record goes from a ring without uncorrectable granules to its place in the host ring, and PRODUCER after it; a
full host ring takes none. CONSUMER is taken where it is not above PRODUCER. -/
def Obligations.ReadOuts : Prop :=
  (∀ (s : State) (c : Fin 8) (k : Cmd), let r := (ctxOf s c).counterRead
    CanRun c k s → k.opcode = 0x70 → k.arg 28 1 % 4 = 1 → k.resultPtr ≠ 0 →
    (Runs c (.counterSelectRead c k.id) s fun h o => Completes c (chipAt s c) k 0 0 0 o ∧ Ended k.id h ∧
      Out.hostWrite c (k.resultPtr + 16) r false true ∈ o ∧ h.obs = (chipAt s c).obs ∧ h.config = (chipAt s c).config ∧
      h.mem = (chipAt s c).mem ∧ h.serve = (chipAt s c).serve) ∧
    r.length = 37192 ∧ field r 0 4 = 37192 ∧ field r 8 8 = (ctxOf s c).time ∧
    ∀ i < 128, ∀ v < 16, field r (80 + 8 * (16 * i + v)) 8 = tget 0 (chipAt s c).obs.counters (ctrKey 0x01 i v) % 2 ^ 64) ∧
  (∀ (s : State) (c : Fin 8) (k : Cmd), CanRun c k s → k.opcode = 0xA0 →
    (k.arg 28 1 % 4 = 0 → k.resultPtr ≠ 0 →
      Runs c (.healthQueryRead c k.id) s fun h o => Completes c (chipAt s c) k 0 0 0 o ∧ Ended k.id h ∧
        Out.hostWrite c (k.resultPtr + 16) ((ctxOf s c).healthBytes k.qp) false true ∈ o ∧ h.obs = (chipAt s c).obs) ∧
    (k.arg 28 1 % 4 = 1 → k.qp = 0 → k.resultPtr ≠ 0 →
      Runs c (.healthQueryReadAndClear c k.id) s fun h o => Completes c (chipAt s c) k 0 0 0 o ∧ Ended k.id h ∧
        Out.hostWrite c (k.resultPtr + 16) ((ctxOf s c).healthBytes 0) false true ∈ o ∧
        h.obs = { (chipAt s c).obs with rasLog := [], logLost := 0 }) ∧
    (k.arg 28 1 % 4 = 1 → k.qp ≠ 0 →
      Runs c (.healthQueryReadAndClear c k.id) s fun h o => Completes c (chipAt s c) k 0x0102 0 0 o ∧ Ended k.id h ∧
        h.obs = (chipAt s c).obs)) ∧
  (∀ (s : State) (c : Fin 8) (k : Cmd), let q := (chipAt s c).obs
    let base := k.arg 32 8
    let size := k.arg 40 4
    let good := (base = 0 ∧ size = 0) ∨ (base ≠ 0 ∧ base % 4096 = 0 ∧ size % 4096 = 0 ∧ 65536 ≤ size ∧ size ≤ 2 ^ 30)
    let same := k.arg 28 1 % 64 = q.classMask ∧ (k.arg 28 1).testBit 6 = q.wrap ∧ k.arg 29 1 = q.superMask ∧ base = q.hostBase ∧
      size = q.hostSize
    let answers := fun (st : Nat) (o1 : Observe) => Runs c (.traceConfig c k.id) s fun h o =>
      Completes c (chipAt s c) k st 0 0 o ∧ Ended k.id h ∧ h.obs = o1 ∧ h.config = (chipAt s c).config ∧ h.mem = (chipAt s c).mem
    CanRun c k s → k.opcode = 0x72 →
    (base % 4096 ≠ 0 → answers 0x0103 q) ∧ (base % 4096 = 0 → ¬ good → answers 0x0105 q) ∧ (good → same → answers 2 q) ∧
    (good → ¬ same → answers 0 { q with
      classMask := k.arg 28 1 % 64, wrap := (k.arg 28 1).testBit 6, superMask := k.arg 29 1, hostBase := base, hostSize := size
      producer := if base = q.hostBase ∧ size = q.hostSize then q.producer else 0
      consumer := if base = q.hostBase ∧ size = q.hostSize then q.consumer else 0 }) ∧
    (good → base ≠ 0 → (base ≠ q.hostBase ∨ size ≠ q.hostSize) →
      Runs c (.traceConfig c k.id) s fun _ o => Out.hostWrite c base (toLE 8 0) false false ∈ o)) ∧
  (∀ (s : State) (c : Fin 8) (i : Nat) (r : Bytes) (l : Tab Bytes), let q := (chipAt s c).obs
    let n := q.producer
    let size := (q.hostSize - 4096) / 32
    let sys := (chipAt s c).mem.store .system
    q.ring = (i, r) :: l → q.hostBase ≠ 0 → q.lull ≠ .frozen → (chipAt s c).boot.linkFatal = false → (chipAt s c).boot.ready = true →
    (n - q.consumer < size → sys.ue = [] → sys.ce = [] → sys.onDie = [] → sys.poison = [] →
      q.lossSrc = 0 → q.lossRing = 0 → q.lossEcc = 0 →
      Runs c (.traceHostCopy c) s fun k o =>
        o = [.hostWrite c (q.hostBase + 4096 + 32 * (n % size)) r false false, .hostWrite c q.hostBase (toLE 8 (n + 1)) false false] ∧
        k = { chipAt s c with ledger := k.ledger, obs := { q with ring := l, producer := (n + 1) % 2 ^ 64 } }) ∧
    (size ≤ n - q.consumer → Runs c (.traceHostCopy c) s fun k o => o = [] ∧ k = chipAt s c)) ∧
  (∀ (s : State) (c : Fin 8) (v : Word64), let q := (chipAt s c).obs
    q.hostBase ≠ 0 → q.lull ≠ .frozen → v.toNat ≤ q.producer →
    Runs c (.consumerRead c v) s fun k o => o = [] ∧ k = { chipAt s c with obs := { q with consumer := v.toNat } })

/-- POWER_SAMPLE takes a sample of INPUT, within its meter's range and the limit of the power state, into the averages, the
report and the metered energy, and over 1,900 W in the last ten starts one fast-limit action, which FASTLIMIT counts; its
release ends it. A limiter step of an Active Tailwind chip whose dies are inside the policy's window and may move changes no
clock between L - 3 % and L - 1 %; above, it opens a Gust window where one may start, and otherwise lowers by 25 MHz, not below
F_MIN, the die with the highest wait fraction, the lower index on a tie; below, it raises by 25 MHz, not above F_MAX, the die
with the lowest, the higher index on a tie. A Lockstep chip below L - 3 % that nothing holds runs all dies at F_LOCK. A Gust
window that ends locks out the next for four times its length. Each millisecond the hold time of each Super follows its share:
it doubles from 64 to 8,192 cycles while the limiter limits and the energy measured for the Super since the last step exceeds
SHARE x L, and else halves. A droop stretches its die, is counted, and the 1,001st within 1 ms lowers the die by 100 MHz, not
below 600, and posts DROOP_STORM; the recovery and the storm's end take back the stretch and what the storm has lowered. -/
def Obligations.LimitsOfAChip : Prop :=
  (∀ (s : State) (c : Fin 8) (m : Meters), let h := chipAt s c
    let p := h.power
    let limit := match h.boot.pstate with
      | .off => 0 | .booting => 400000 | .resetting => 400000 | .active => 2200000 | .idle => 260000 | .dormant => 85000
    let input := min (limit + 15 * limit / 1000 + 3000) (min 2200000 m.input)
    let taken := fun (k : Chip) => k.power.samples = (input :: p.samples).take 1000 ∧
      k.power.sum1ms = p.sum1ms + input - p.samples.getD 999 0 ∧ k.power.repSum = p.repSum + input ∧ k.power.repCount = p.repCount + 1 ∧
      (h.obs.lull ≠ .frozen → p.met.length = 7 → k.power.met.getD 0 0 = p.met.getD 0 0 + input ∧ k.power.lullMet = p.lullMet) ∧
      (h.obs.lull = .frozen → k.power.met = p.met ∧ k.power.lullMet = p.lullMet + 2 ^ 20 * input) ∧ k.power.gust = p.gust ∧
      k.power.a = p.a ∧ k.power.p = p.p ∧ k.eng = h.eng ∧ k.mem = h.mem ∧ k.serve = h.serve ∧ k.stew = h.stew ∧ k.config = h.config ∧
      k.boot = h.boot ∧ k.fab = h.fab
    h.boot.rails = .up →
    (((input :: p.samples).take 10).sum ≤ 19000000 ∨ p.fastLimit = true → Runs c (.powerSample c m) s fun k o => o = [] ∧ taken k ∧
      k.power.fastLimit = p.fastLimit ∧ k.obs = h.obs) ∧
    (19000000 < ((input :: p.samples).take 10).sum → p.fastLimit = false → h.obs.lull ≠ .frozen →
      Runs c (.powerSample c m) s fun k o => o = [] ∧ taken k ∧ k.power.fastLimit = true ∧
      tget 0 k.obs.counters (ctrKey 0x0A 0 6) = (tget 0 h.obs.counters (ctrKey 0x0A 0 6) + 1) % 2 ^ 48)) ∧
  (∀ (s : State) (c : Fin 8), Runs c (.fastLimitRelease c) s fun k o => o = [] ∧
    k = { chipAt s c with power := { (chipAt s c).power with fastLimit := false } }) ∧
  (∀ (s : State) (c : Fin 8) (way : Rounding), let p := (chipAt s c).power
    let m := (chipAt s c).config.active.power
    let f := fun (k : Chip) (d : Nat) => (tget .initial k.eng.dies d).mhz
    let w := (ctxOf s c).recentWait way
    let avg := p.sum1ms / 1000
    let l := if p.gust.isSome = true then p.p else p.a
    let kept := fun (k : Chip) => k.mem = (chipAt s c).mem ∧ k.serve = (chipAt s c).serve ∧ k.stew = (chipAt s c).stew ∧
      k.config = (chipAt s c).config ∧ k.boot = (chipAt s c).boot ∧ k.fab = (chipAt s c).fab ∧
      k.power.waitLog.head? = some (s.now, (ctxOf s c).dieWaits, (ctxOf s c).dieClocks)
    (chipAt s c).boot.pstate = .active → (chipAt s c).obs.lull ≠ .frozen → avg ≤ 1000 * p.p → p.throttled = [] →
    (∀ d < 4, (tget .initial (chipAt s c).eng.dies d).storm = false ∧ (tget .initial (chipAt s c).eng.dies d).nextStep ≤ s.now) →
    (ppLockstep m = false → (∀ d < 4, ppFMin m ≤ f (chipAt s c) d ∧ f (chipAt s c) d ≤ ppFMax m) →
      (970 * l ≤ avg → avg ≤ 990 * l → Runs c (.limiterTick c way) s fun k o => o = [] ∧ kept k ∧
        k.eng = (chipAt s c).eng ∧ k.power = { p with broken := none, waitLog := k.power.waitLog }) ∧
      (990 * l < avg → (ctxOf s c).gustMay = true → (∃ d < 4, ppFMin m < f (chipAt s c) d) →
        Runs c (.limiterTick c way) s fun k o => o = [] ∧ kept k ∧ k.eng = (chipAt s c).eng ∧
        k.power = { p with broken := none, gust := some s.now, waitLog := k.power.waitLog, quietWin := k.power.quietWin } ∧
        tget 0 k.obs.counters (ctrKey 0x0A 0 4) = (tget 0 (chipAt s c).obs.counters (ctrKey 0x0A 0 4) + 1) % 2 ^ 48) ∧
      (990 * l < avg → (ctxOf s c).gustMay = false → (∃ d < 4, ppFMin m < f (chipAt s c) d) →
        Runs c (.limiterTick c way) s fun k o => o = [] ∧ kept k ∧ k.power = { p with broken := none, waitLog := k.power.waitLog } ∧
        ∃ d < 4, ppFMin m < f (chipAt s c) d ∧ f k d = max (ppFMin m) (f (chipAt s c) d - 25) ∧
          (tget .initial k.eng.dies d).nextStep = s.now + 20000 ∧
          ∀ e < 4, (e ≠ d → f k e = f (chipAt s c) e) ∧ (ppFMin m < f (chipAt s c) e → w e ≤ w d ∧ (w e = w d → d ≤ e))) ∧
      (avg < 970 * l → (∃ d < 4, f (chipAt s c) d < ppFMax m) →
        Runs c (.limiterTick c way) s fun k o => o = [] ∧ kept k ∧ k.power = { p with broken := none, waitLog := k.power.waitLog } ∧
        ∃ d < 4, f (chipAt s c) d < ppFMax m ∧ f k d = min (ppFMax m) (f (chipAt s c) d + 25) ∧
          (tget .initial k.eng.dies d).nextStep = s.now + 20000 ∧
          ∀ e < 4, (e ≠ d → f k e = f (chipAt s c) e) ∧ (f (chipAt s c) e < ppFMax m → w d ≤ w e ∧ (w e = w d → e ≤ d)))) ∧
    (ppLockstep m = true → p.order = none → avg < 970 * p.p → Runs c (.limiterTick c way) s fun k o => o = [] ∧ kept k ∧
      (∀ d < 4, f k d = ppFLock m) ∧ k.power = { p with broken := none, waitLog := k.power.waitLog })) ∧
  (∀ (s : State) (c : Fin 8) (why : GustEnd) (t : Nat), let p := (chipAt s c).power
    p.gust = some t → (ctxOf s c).gustOver why = true → Runs c (.gustWindowEnd c why) s fun k o => o = [] ∧
      k = { chipAt s c with power := { p with gust := none, lockout := s.now + 4 * (s.now - t) } }) ∧
  (∀ (s : State) (c : Fin 8) (way : Rounding), let p := (chipAt s c).power
    let l := if p.gust.isSome = true then p.p else p.a
    let e := fun (u : Nat) => (ctxOf s c).superEnergy u 0
    (chipAt s c).obs.lull ≠ .frozen → Runs c (.shareGatingTick c way) s fun k o => o = [] ∧
      (∀ u < 8, tget 0 k.power.holdTime u =
        let h := tget 0 p.holdTime u;
        if (ctxOf s c).limiting = true ∧ superDefined (chipAt s c).config.active.superMap u = true ∧
            ppShare (chipAt s c).config.active.power u * l * 2 ^ 20 * (s.now - p.shareAt) < 10 ^ 13 * (way.more + e u - p.shareBase.getD u 0)
        then (if h = 0 then 64 else min 8192 (2 * h)) else if h / 2 < 64 then 0 else h / 2) ∧
      k = { chipAt s c with power := { p with
        holdTime := k.power.holdTime, shareAt := s.now, shareBase := (List.range 8).map e } }) ∧
  (∀ (s : State) (c : Fin 8) (d : Fin 4), let v := tget .initial (chipAt s c).eng.dies d
    let fMin := ppFMin (chipAt s c).config.active.power
    let l := within s.now 1000000 v.droops ++ [s.now]
    let other := fun (k : Chip) => (∀ e, e ≠ d.val → tget .initial k.eng.dies e = tget .initial (chipAt s c).eng.dies e) ∧
      k.eng.combs = (chipAt s c).eng.combs ∧ k.mem = (chipAt s c).mem ∧ k.serve = (chipAt s c).serve ∧ k.config = (chipAt s c).config
    (chipAt s c).boot.rails = .up → ppLockstep (chipAt s c).config.active.power = false → (chipAt s c).obs.lull ≠ .frozen →
    (chipAt s c).boot.pstate ≠ .dormant →
    (l.length ≤ 1000 ∨ v.storm = true → Runs c (.droopDetect c d) s fun k o => o = [] ∧ other k ∧
      tget .initial k.eng.dies d = { v with stretched := true, droops := l } ∧
      tget 0 k.obs.counters (ctrKey 0x0B d 2) = (tget 0 (chipAt s c).obs.counters (ctrKey 0x0B d 2) + 1) % 2 ^ 48) ∧
    (1000 < l.length → v.storm = false → Runs c (.droopDetect c d) s fun k _ => other k ∧
      (let f := max 600 (v.mhz - 100);
        tget .initial k.eng.dies d = { v with
          stretched := true, droops := l, storm := true, stormCut := min 100 (v.mhz - 600), mhz := f, low := decide (f < fMin) }) ∧
      ∃ e ∈ k.stew.events, e.code = 0x0B04) ∧
    (Runs c (.droopRecovery c d) s fun k o => o = [] ∧ other k ∧ tget .initial k.eng.dies d = { v with stretched := false }) ∧
    (v.storm = true → Runs c (.droopStormEnd c d) s fun k o => o = [] ∧ other k ∧
      (let f := max v.mhz (min (ctxOf s c).target (v.mhz + v.stormCut));
        tget .initial k.eng.dies d = { v with storm := false, stormCut := 0, mhz := f, low := decide (f < fMin) })))

/-- A sensor read stores the readings. With every group below its release no group stays throttled or stopped, every HBM stack
has its full rate and no clock changes. A compute die above its start on a Tailwind chip becomes throttled, is lowered by 25 MHz
and by no more until 100 us have passed, ends a Gust window and posts THERMAL_THROTTLE. A group above its work stop on a chip
without work counts and posts one THERMAL_TRIP and makes an Active chip Idle; above its rails-off point the chip also asserts
its trip line. A Lockstep order makes all dies run at no more than its frequency and wakes the chip; its withdrawal waits for
every other broken chip of the group. A conflict episode that has lasted CONFLICT_MS and was not reported is counted and posted
once, with its kind, its die and its frequency or power, and changes no setting; without one nothing is reported. -/
def Obligations.ThermalLockstepAndConflicts : Prop :=
  (∀ (s : State) (c : Fin 8) (temps : List Nat), let p := (chipAt s c).power
    let f := fun (k : Chip) (d : Nat) => (tget .initial k.eng.dies d).mhz
    let t := fun (g : Nat) => temps.getD g 0
    let kept := fun (k : Chip) => k.mem = (chipAt s c).mem ∧ k.config = (chipAt s c).config ∧ k.fab = (chipAt s c).fab ∧
      k.power.temps = (List.range 14).map t
    (chipAt s c).boot.rails = .up →
    ((∀ g < 14, t g < (thermalPoints g).2.1) → Runs c (.thermalSensorRead c temps) s fun k o => o = [] ∧ kept k ∧
      k.power.stopped = [] ∧ (∀ g < 14, g ∉ k.power.throttled) ∧ (∀ j < 8, tget 100 k.power.hbmRate j = 100) ∧
      k.eng = (chipAt s c).eng ∧ k.boot = (chipAt s c).boot ∧ k.stew = (chipAt s c).stew) ∧
    (∀ d < 4, 95 < t d → t d ≤ 105 → (∀ g < 14, g ≠ d → t g < (thermalPoints g).2.1) → p.throttled = [] → p.stopped = [] →
      tget 0 p.thermalNext d ≤ s.now → ppLockstep (chipAt s c).config.active.power = false →
      Runs c (.thermalSensorRead c temps) s fun k _ => kept k ∧ k.power.throttled = [d] ∧ k.power.gust = none ∧
        f k d = max 600 (f (chipAt s c) d - 25) ∧ (∀ e < 4, e ≠ d → f k e = f (chipAt s c) e) ∧
        tget 0 k.power.thermalNext d = s.now + 100000 ∧ (∃ e ∈ k.stew.events, e.code = 0x0B02) ∧ k.boot = (chipAt s c).boot) ∧
    (∀ d < 4, 95 < t d → t d ≤ 105 → (∀ g < 14, g ≠ d → t g < (thermalPoints g).2.1) → p.throttled = [d] → p.stopped = [] →
      s.now < tget 0 p.thermalNext d →
      Runs c (.thermalSensorRead c temps) s fun k o => o = [] ∧ kept k ∧ k.power.throttled = [d] ∧ k.eng = (chipAt s c).eng ∧
        k.stew = (chipAt s c).stew ∧ k.boot = (chipAt s c).boot) ∧
    (∀ g < 14, (thermalPoints g).2.2.1 < t g → (∀ h < 14, h ≠ g → t h < (thermalPoints h).2.1) → p.stopped = [] →
      (chipAt s c).serve.steps = [] → (chipAt s c).eng.copies = [] → (chipAt s c).obs.lull ≠ .frozen →
      (chipAt s c).boot.pstate = .active → (chipAt s c).boot.tripLine = false → (chipAt s c).boot.dormantHeld = false →
      Runs c (.thermalSensorRead c temps) s fun k _ => kept k ∧ k.power.stopped = [g] ∧ k.boot.pstate = .idle ∧
        k.boot.tripLine = decide ((thermalPoints g).2.2.2 < t g) ∧ (∃ e ∈ k.stew.events, e.code = 0x0B03) ∧
        tget 0 k.obs.counters (ctrKey 0x0A 0 7) = (tget 0 (chipAt s c).obs.counters (ctrKey 0x0A 0 7) + 1) % 2 ^ 48)) ∧
  (∀ (s : State) (c : Fin 8) (f : Nat), let p := (chipAt s c).power
    let m := (chipAt s c).config.active.power
    (p.orderSent = some f → Runs c (.lockstepOrder c) s fun k o => o = [] ∧
      k.power = { p with order := some f, orderSent := none } ∧ k.mem = (chipAt s c).mem ∧ k.serve = (chipAt s c).serve ∧
      k.config = (chipAt s c).config ∧ ((chipAt s c).boot.pstate = .dormant → k.boot.waking = true) ∧
      (∀ d < 4, (tget .initial k.eng.dies d).mhz =
        if ppLockstep m = true then min f (ctxOf s c).lowest else (tget .initial (chipAt s c).eng.dies d).mhz)) ∧
    ((∀ o ∈ s.nd.orders, o.1 = ppGroup m → o.2.2 = c.val) → Runs c (.lockstepOrderWithdraw c) s fun k o => o = [] ∧
      k = { chipAt s c with power := { p with order := none, orderSent := none } }) ∧
    ((∃ o ∈ s.nd.orders, o.1 = ppGroup m ∧ o.2.2 ≠ c.val) → Runs c (.lockstepOrderWithdraw c) s fun k o => o = [] ∧
      k = chipAt s c)) ∧
  (∀ (s : State) (c : Fin 8) (kind : Fin 5) (die : Option (Fin 4)) (way : Rounding), let h := chipAt s c
    let p := h.power
    let d := match die with | some d => d.val | none => 0xFF
    let due := fun (e : Conflict) => e.kind = kind.val + 1 ∧ e.die = d ∧ e.reported = false ∧
      e.since + 1000000 * ppConflict h.config.active.power ≤ s.now
    let value := if kind.val = 0 ∨ kind.val = 2 then (tget .initial h.eng.dies d).mhz
      else if kind.val = 1 then way.div (p.sum1ms / 1000) 1000 else p.a
    ((∃ e ∈ p.conflicts, due e) → h.obs.lull ≠ .frozen →
      Runs c (.policyConflict c kind die way) s fun k _ =>
        k.power = { p with conflicts := p.conflicts.map fun e =>
          if e.kind = kind.val + 1 ∧ e.die = d then { e with reported := true } else e } ∧
        tget 0 k.obs.counters (ctrKey 0x0A 0 8) = (tget 0 h.obs.counters (ctrKey 0x0A 0 8) + 1) % 2 ^ 48 ∧
        (∃ e ∈ k.stew.events, e.code = 0x0B01) ∧
        ((∀ e ∈ h.stew.events, e.code ≠ 0x0B01) → ∃ e ∈ k.stew.events, e.code = 0x0B01 ∧
          e.detail = kind.val + 1 + 256 * d + 65536 * value) ∧
        k.config = h.config ∧ k.eng = h.eng ∧ k.boot = h.boot) ∧
    ((∀ e ∈ p.conflicts, ¬ due e) → Runs c (.policyConflict c kind die way) s fun k o => o = [] ∧ k = h))

/-- POWER_CALIBRATE with MAX_WAIT in range stops dispatch and posts nothing yet, and out of range is refused with 0x0105; the
quiet window starts once every step and copy has ended, and notes the meters. The end of 200 us without a spoiler, with a fit of
a quiet rail, metered energy over modelled static, inside 0.5 to 2.0, on a chip with no stale rail, completes with the accepted
rails and the quiet powers, stores exactly the accepted corrections and is counted; without such a fit it completes with 0x0602
and reason 5; a spoilt window, or one that never starts, completes with 0x0602 and its reason and changes no correction. An
energy split on a chip outside a Lull adds the INPUT energy metered since the last split to MEAS_CHIP, and the same to the sum
of every MEAS_QP, MEAS_IDLE, MEAS_TENT and MEAS_UNOWNED, where none of them wraps; in a Lull what was metered is held for
MEAS_LULL. A steady reference whose gain is inside 0.5 to 2.0 sets the gain of its rail and makes it no longer stale; any other
is counted in EST_REJECT; without one nothing changes. A rail without one for 60 s becomes stale, which is posted. -/
def Obligations.CalibrationAndEnergy : Prop :=
  (∀ (s : State) (c : Fin 8) (k : Cmd), CanRun c k s → k.opcode = 0x61 → (chipAt s c).power.quiet = .none →
    (1 ≤ k.arg 28 4 → k.arg 28 4 ≤ 100000 → Runs c (.powerCalibrate c k.id) s fun h o => o = [] ∧
      h.power = { (chipAt s c).power with quiet := .draining k.id } ∧
      (h.stew.cmds.find? fun j => j.id == k.id) = some { k with phase := .running } ∧ h.serve = (chipAt s c).serve ∧
      h.eng = (chipAt s c).eng ∧ h.mem = (chipAt s c).mem) ∧
    (k.arg 28 4 = 0 ∨ 100000 < k.arg 28 4 → Runs c (.powerCalibrate c k.id) s fun h o =>
      Completes c (chipAt s c) k 0x0105 0 0 o ∧ Ended k.id h ∧ h.power = (chipAt s c).power)) ∧
  (∀ (s : State) (c : Fin 8) (id : Nat), let p := (chipAt s c).power
    p.quiet = .draining id → (ctxOf s c).drained = true → (chipAt s c).obs.lull ≠ .frozen →
    (∀ f ∈ (chipAt s c).eng.foragers, f.2.running = none) →
    Runs c (.quietWindowStart c) s fun k o => o = [] ∧
      k = { chipAt s c with power := { p with
        quiet := .window id
        quietWin := some ⟨s.now, p.temps, p.met, p.stat, (chipAt s c).ledger.hbmBytes, false, p.gust.isSome, false⟩ } }) ∧
  (∀ (s : State) (c : Fin 8) (k : Cmd) (q : QuietWin) (way : Rounding), let p := (chipAt s c).power
    let taken := fun (r : Nat) => p.met.getD (r + 1) 0 - q.met.getD (r + 1) 0
    let static := fun (r : Nat) => p.stat.getD r 0 - q.stat.getD r 0
    let fit := fun (r : Nat) => way.div (1000 * taken r * 2 ^ 84) (1000000000 * static r)
    let good := fun (r : Nat) => (r < 4 ∨ r = 5 ∧ (chipAt s c).ledger.hbmBytes = q.hbm) ∧ static r ≠ 0 ∧ 500 ≤ fit r ∧ fit r ≤ 2000
    let spoilt := if q.lull = true then 2 else if q.control = true then 3 else if q.sensor = true then 4 else 0
    let watts := fun (nj : Nat) => way.div nj (s.now - q.start) % 65536
    (ctxOf s c).cmd? k.id = some k → (ctxOf s c).canPost k.qp false = true → (∀ h ∈ (chipAt s c).stew.held, h.qp ≠ k.qp) →
    (p.quiet = .window k.id → p.quietWin = some q → q.start + 200000 ≤ s.now →
      (spoilt ≠ 0 → Runs c (.quietWindowEnd c way) s fun h o =>
        Completes c (chipAt s c) k 0x0602 spoilt 0 o ∧ Ended k.id h ∧ h.power = { p with quiet := .none, quietWin := none }) ∧
      (spoilt = 0 → (∀ r, ¬ good r) → Runs c (.quietWindowEnd c way) s fun h o =>
        Completes c (chipAt s c) k 0x0602 5 0 o ∧ Ended k.id h ∧ h.power = { p with quiet := .none, quietWin := none }) ∧
      (spoilt = 0 → p.stale = [] → p.corrs.length = 6 → (∃ r, good r) →
        Runs c (.quietWindowEnd c way) s fun h o =>
          (∃ bits, Completes c (chipAt s c) k 0 bits
              (watts (taken 0 + taken 1 + taken 2 + taken 3) + 65536 * watts (taken 5)) o ∧
            ∀ r, bits.testBit r = true ↔ good r) ∧
          Ended k.id h ∧ h.power.quiet = .none ∧ h.power.quietWin = none ∧
          (∀ r, (good r → h.power.corrs.getD r 0 = fit r) ∧ (¬ good r → h.power.corrs.getD r 0 = p.corrs.getD r 0)) ∧
          h.power.gains = p.gains ∧
          tget 0 h.obs.counters (ctrKey 0x0A 0 10) = (tget 0 (chipAt s c).obs.counters (ctrKey 0x0A 0 10) + 1) % 2 ^ 48)) ∧
    (p.quiet = .draining k.id → Runs c (.calibrateDrainTimeout c) s fun h o =>
      Completes c (chipAt s c) k 0x0602 1 0 o ∧ Ended k.id h ∧ h.power = { p with quiet := .none })) ∧
  (∀ (s : State) (c : Fin 8) (way : Rounding), let v := fun (k : Chip) (b i n : Nat) => tget 0 k.obs.counters (ctrKey b i n)
    let p := (chipAt s c).power
    let sum := fun (k : Chip) => ((List.range 64).map fun q => v k 0x0F q 0).sum + ((List.range 8).map fun u => v k 0x10 u 0).sum +
      ((List.range 8).map fun u => v k 0x10 u 2).sum + v k 0x11 0 1
    let units := fun (nj : Nat) => nj * 2 ^ 20 / 1000000000
    let input := units (p.met.getD 0 0) - units (p.splitMet.getD 0 0)
    (chipAt s c).boot.rails = .up →
    ((chipAt s c).obs.lull ≠ .frozen → sum (chipAt s c) + input < 2 ^ 64 → v (chipAt s c) 0x11 0 0 < 2 ^ 64 →
      Runs c (.energySplitTick c way) s fun k o => o = [] ∧
      v k 0x11 0 0 = (v (chipAt s c) 0x11 0 0 + input) % 2 ^ 64 ∧ sum k = sum (chipAt s c) + input ∧
      k.power.splitMet = p.met ∧
      k.mem = (chipAt s c).mem ∧ k.config = (chipAt s c).config ∧ k.serve = (chipAt s c).serve ∧ k.eng = (chipAt s c).eng) ∧
    ((chipAt s c).obs.lull = .frozen → Runs c (.energySplitTick c way) s fun k o => o = [] ∧
      k.obs.counters = (chipAt s c).obs.counters ∧ k.power.lullMet = p.lullMet % 1000000000 ∧
      tget 0 k.obs.pending (ctrKey 0x11 0 3) = tget 0 (chipAt s c).obs.pending (ctrKey 0x11 0 3) + p.lullMet / 1000000000)) ∧
  (∀ (s : State) (c : Fin 8) (r : Fin 6) (way : Rounding), let p := (chipAt s c).power
    let seen := p.fiveMs (p.refFrom.getD r 0) s.now
    let noted := { p with refFrom := p.refFrom.set r (s.now / 1000000 * 1000000) }
    (chipAt s c).obs.lull ≠ .frozen →
    (∀ l g, seen = some l → steady l r = true → gainFit way l r (p.corrs.getD r 1000) = some g → 500 ≤ g → g ≤ 2000 →
      Runs c (.estimatorReference c r way) s fun k _ =>
      k.power = { noted with gains := p.gains.set r g, refAt := p.refAt.set r s.now, stale := p.stale.filter (· != r.val) } ∧
      (r.val ∈ p.stale → ∃ e ∈ k.stew.events, e.code = 0x0B05) ∧ k.eng = (chipAt s c).eng ∧ k.mem = (chipAt s c).mem) ∧
    (∀ l, seen = some l → steady l r = true → (∀ g, gainFit way l r (p.corrs.getD r 1000) = some g → g < 500 ∨ 2000 < g) →
      (chipAt s c).boot.pstate ≠ .dormant →
      Runs c (.estimatorReference c r way) s fun k o => o = [] ∧ k.power = noted ∧
        tget 0 k.obs.counters (ctrKey 0x0E r 0) = (tget 0 (chipAt s c).obs.counters (ctrKey 0x0E r 0) + 1) % 2 ^ 48) ∧
    ((∀ l, seen = some l → steady l r = false) → Runs c (.estimatorReference c r way) s fun k o => o = [] ∧ k = chipAt s c) ∧
    ((chipAt s c).boot.rails = .up → r.val ∉ p.stale → p.refAt.getD r 0 + 60000000000 ≤ s.now →
      Runs c (.estimateStale c r) s fun k _ =>
      k.power = { p with stale := p.stale ++ [r.val] } ∧ (∃ e ∈ k.stew.events, e.code = 0x0B05) ∧ k.mem = (chipAt s c).mem))

/-- A chip with rails up reports its power state, its policy, its wait fraction, the lowest of the dies that ran a dispatched
step and 1.0 where none did, and its average INPUT to a running Ndevas, which keeps the report with its position and changes
nothing else; the chip starts its next interval. An interval of a running Ndevas sends each chip whose power is good its
allotment and ceiling with the coolant-hold flag and keeps them with the position, and changes no other part of any chip. The
chip applies what was sent on receipt, ends a Gust window that has no headroom left, and posts the end of a loss. A chip with no
allotment for 50 ms has its ceiling at its allotment, no Gust window, and posts the loss. -/
def Obligations.Allotments : Prop :=
  (∀ (s : State) (c : Fin 8) (wait input : Rounding), let h := chipAt s c
    let m := h.config.active.power
    h.boot.rails = .up → s.nd.running = true → Answers (.chipReport c wait input) s fun t =>
      (∃ r : Report, (t.nd.position c).report = some r ∧ r.pstate = h.boot.pstate ∧
        r.tdp = ppTdp m ∧ r.lo = ppLo m ∧ r.hi = ppHi m ∧ r.group = ppGroup m ∧ r.fLock = ppFLock m ∧
        r.lockstep = ppLockstep m ∧ r.gustEn = ppGust m ∧
        r.wait = (if h.obs.lull = .frozen ∨ h.boot.pstate ≠ .active then 1000
          else (ctxOf s c).ranDies.foldl (fun n d => min n ((ctxOf s c).intervalWait wait d)) 1000) ∧
        r.input = (if h.power.repCount = 0 then 0 else input.div h.power.repSum h.power.repCount) ∧
        t.nd.position c = { s.nd.position c with report := some r }) ∧
      (∀ i, i ≠ c.val → t.nd.position i = s.nd.position i) ∧ (∀ d, d ≠ c → chipAt t d = chipAt s d) ∧
      chipAt t c = { h with ledger := { h.ledger with ran := [] }, power := { h.power with
        repSum := 0, repCount := 0, repWaits := (ctxOf s c).dieWaits, repClocks := (ctxOf s c).dieClocks } } ∧
      t.nd.active = s.nd.active ∧ t.nd.hazards = s.nd.hazards ∧ t.out = s.out) ∧
  (∀ s : State, s.nd.running = true → Answers .allotmentInterval s fun t =>
    (∀ i : Fin 8, (s.nd.position i).pwrgd = true →
      ∃ v : Allot, (chipAt t i).power.sent = some v ∧ v.a = (t.nd.position i).a ∧ v.p = (t.nd.position i).p ∧
        v.p = v.a + (t.nd.position i).g ∧ v.hold = s.nd.holding ∧
        (s.nd.holding = true → (t.nd.position i).g = 0) ∧ (s.nd.reducing = true → v.a = 700) ∧
        (s.nd.holding = true → s.nd.reducing = false → (s.nd.position i).aAtHold = none → v.a ≤ (s.nd.position i).a) ∧
        chipAt t i = { chipAt s i with power := { (chipAt s i).power with sent := some v, orderSent := (chipAt t i).power.orderSent } }) ∧
    (∀ i : Fin 8, (s.nd.position i).pwrgd = false → chipAt t i = chipAt s i ∧ t.nd.position i = s.nd.position i) ∧
    t.out = s.out ∧ t.nd.active = s.nd.active ∧ t.nd.hazards = s.nd.hazards ∧ t.nd.queue = s.nd.queue) ∧
  (∀ (s : State) (c : Fin 8) (v : Allot), let p := (chipAt s c).power
    p.sent = some v → Runs c (.allotmentReceive c) s fun k _ =>
      k.power.a = v.a ∧ k.power.p = v.p ∧ k.power.clamp = v.clamp ∧ k.power.hold = v.hold ∧ k.power.sent = none ∧
      k.power.ndevasLost = false ∧ (v.p ≤ v.a → k.power.gust = none) ∧ (v.a < v.p → k.power.gust = p.gust) ∧
      (p.ndevasLost = true → ∃ e ∈ k.stew.events, e.code = 0x0B07) ∧ (p.ndevasLost = false → k.stew = (chipAt s c).stew) ∧
      k.eng = (chipAt s c).eng ∧ k.config = (chipAt s c).config ∧ k.mem = (chipAt s c).mem) ∧
  (∀ (s : State) (c : Fin 8), let p := (chipAt s c).power
    (chipAt s c).boot.rails = .up → p.ndevasLost = false → Runs c (.allotmentTimeout c) s fun k _ =>
      k.power.a = p.a ∧ k.power.p = p.a ∧ k.power.ndevasLost = true ∧ k.power.gust = none ∧
      (∃ e ∈ k.stew.events, e.code = 0x0B07) ∧ k.eng = (chipAt s c).eng ∧ k.config = (chipAt s c).config ∧ k.mem = (chipAt s c).mem)

/-- For every state of a running Ndevas with a tray cap in its range, whatever the reports, the policies and the earlier
allotments, the ceilings P_n that an interval sends sum to no more than the tray cap less 120 W. -/
def Obligations.CeilingsFitTheTrayCap : Prop :=
  ∀ s : State, s.nd.running = true → CapInRange s → Answers .allotmentInterval s fun t =>
    overChips (fun i => if (s.nd.position i).pwrgd = true then ((chipAt t i).power.sent.map (·.p)).getD 0 else 0) ≤
      s.nd.active.trayCap - 120

/-- While the Ndevas senses the field side: a supply measurement is kept, and the tenth in a row on the other side of 20.4 to
28.8 V turns the range flag and logs FIELD_SUPPLY. A slice takes the channel's parameters from the active set, a channel taken
into use being STARTING and one taken out of use UNUSED, and gives the channel a new reading, kept with the one before where it
carries a value; a NORMAL channel whose reading is FAULT_LOW, OPEN or FAULT_HIGH goes to FAULT and LOOP_FAULT is logged with the
code; a FAULT channel with 100 good samples before the slice and a good or uncertain reading goes to NORMAL and LOOP_RECOVERED
is logged; no other state changes. Two comparator samples above 23.0 mA open the FET of a channel in use, which is DISCONNECTED,
also while the Ndevas restarts, and of a channel in its retry test, which counts the retry; two below 3.6 mA or above 21.0 mA
take a NORMAL channel to FAULT; one sample changes no state. The retry test closes the FET, and its end takes the channel to
FAULT. A STARTING channel becomes NORMAL at its scan. No chip and no other loop or leak channel changes. While the Ndevas
restarts none of the other commands changes anything. -/
def Obligations.LoopChannels : Prop :=
  (∀ (s : State) (mv : Nat), let n := s.nd
    let bad := decide (mv < 20400 ∨ 28800 < mv)
    let kept := fun (t : State) => t.chips = s.chips ∧ t.nd.loops = n.loops ∧ t.nd.leaks = n.leaks ∧ t.nd.outs = n.outs ∧ t.out = s.out
    n.acts = true →
    (bad = n.fieldBad → Answers (.fieldSupplyMeasure mv) s fun t => t = { s with nd := { n with fieldMv := mv, fieldRun := 0 } }) ∧
    (bad ≠ n.fieldBad → n.fieldRun ≠ 9 → Answers (.fieldSupplyMeasure mv) s fun t =>
      t = { s with nd := { n with fieldMv := mv, fieldRun := n.fieldRun + 1 } }) ∧
    (bad ≠ n.fieldBad → n.fieldRun = 9 → LogRoom s → Answers (.fieldSupplyMeasure mv) s fun t => kept t ∧
      t.nd.fieldMv = mv ∧ t.nd.fieldBad = bad ∧ Logged s t 0x1010 0xFF (mv + if bad = true then 2 ^ 32 else 0))) ∧
  (∀ (s : State) (k : Fin 16) (samples : List Nat), let cfg := s.nd.setLoopCfg k
    let was := s.nd.loop k
    let l := if cfg.role = 0 then { Loop.initial with cfg := cfg }
      else if was.cfg.role = 0 then { Loop.initial with state := .starting, fetOpen := false, cfg := cfg } else { was with cfg := cfg }
    let r := readingOf (s.nd.setLoop k l) k samples
    s.nd.acts = true → Answers (.adcSliceComplete k samples) s fun t => let m := t.nd.loop k
      m.last = r ∧ m.seen = (if r.quality ≤ 2 then (r :: l.seen).take 2 else l.seen) ∧ m.cfg = cfg ∧ m.fetOpen = l.fetOpen ∧
      m.retries = l.retries ∧ m.good = l.good ∧
      m.state = (if l.state = .normal ∧ 3 ≤ r.quality ∧ r.quality ≤ 5 then .fault
        else if l.state = .fault ∧ 105 ≤ l.good ∧ r.quality ≤ 2 then .normal else l.state) ∧
      (LogRoom s → l.state = .normal → 3 ≤ r.quality → r.quality ≤ 5 → Logged s t 0x1001 k r.quality) ∧
      (LogRoom s → l.state = .fault → 105 ≤ l.good → r.quality ≤ 2 → Logged s t 0x1002 k 0) ∧
      (∀ j, j ≠ k.val → t.nd.loop j = s.nd.loop j) ∧ t.nd.leaks = s.nd.leaks ∧ t.chips = s.chips) ∧
  (∀ (s : State) (k : Fin 16) (ua : Nat), let l := s.nd.loop k
    let kept := fun (t : State) => (∀ j, j ≠ k.val → t.nd.loop j = s.nd.loop j) ∧ t.nd.leaks = s.nd.leaks ∧ t.nd.outs = s.nd.outs ∧
      t.nd.hazards = s.nd.hazards ∧ t.chips = s.chips ∧ (t.nd.loop k).last = l.last ∧ (t.nd.loop k).seen = l.seen
    s.nd.standby = true → l.fetOpen = false →
    (l.state ≠ .unused → l.state ≠ .disconnected → l.cmp = [3] → 23000 < ua → Answers (.comparatorSample k ua) s fun t => kept t ∧
      (t.nd.loop k).state = .disconnected ∧ (t.nd.loop k).fetOpen = true ∧ (LogRoom s → Logged s t 0x1004 k 0)) ∧
    (l.state = .disconnected → l.cmp = [3] → 23000 < ua → Answers (.comparatorSample k ua) s fun t => kept t ∧
      (t.nd.loop k).state = .disconnected ∧ (t.nd.loop k).fetOpen = true ∧ (t.nd.loop k).testing = false ∧
      (t.nd.loop k).retries = l.retries + 1 ∧ (LogRoom s → Logged s t 0x1005 k (l.retries + 1))) ∧
    (s.nd.acts = true → l.state = .normal → l.cmp = [0] → ua < 3600 → Answers (.comparatorSample k ua) s fun t => kept t ∧
      (t.nd.loop k).state = .fault ∧ (t.nd.loop k).fetOpen = false ∧ (LogRoom s → Logged s t 0x1001 k 3)) ∧
    (s.nd.acts = true → l.state = .normal → l.cmp = [2] → 21000 < ua → Answers (.comparatorSample k ua) s fun t => kept t ∧
      (t.nd.loop k).state = .fault ∧ (t.nd.loop k).fetOpen = false ∧ (LogRoom s → Logged s t 0x1001 k 5)) ∧
    (s.nd.acts = true → l.cmp = [1] ∨ (3600 ≤ ua ∧ ua ≤ 21000) → l.state ≠ .unused →
      Answers (.comparatorSample k ua) s fun t => kept t ∧
      (t.nd.loop k).state = l.state ∧ (t.nd.loop k).fetOpen = false ∧ (t.nd.loop k).cmp = [cmpRegion ua] ∧
      (t.nd.loop k).good = (if 3600 ≤ ua ∧ ua ≤ 21000 then l.good + 1 else 0) ∧ t.nd.queue = s.nd.queue)) ∧
  (∀ (s : State) (k : Fin 16) (mv : Nat) (samples : List Nat), s.nd.acts = false →
    ∀ i ∈ [Instr.fieldSupplyMeasure mv, .adcSliceComplete k samples, .loopRetryTest k, .loopRetryTestEnd k, .loopStartingComplete k],
      Answers i s fun t => t = s) ∧
  (∀ (s : State) (k : Fin 16), let l := s.nd.loop k
    s.nd.acts = true →
    (l.state = .disconnected → Answers (.loopRetryTest k) s fun t =>
      t = { s with nd := s.nd.setLoop k { l with testing := true, fetOpen := false, cmp := [], good := 0 } }) ∧
    (l.state = .disconnected → l.testing = true → Answers (.loopRetryTestEnd k) s fun t =>
      t.nd.loop k = { l with state := .fault, testing := false, clean := 0 } ∧ (LogRoom s → Logged s t 0x1001 k 6) ∧
      (∀ j, j ≠ k.val → t.nd.loop j = s.nd.loop j) ∧ t.nd.leaks = s.nd.leaks ∧ t.chips = s.chips) ∧
    (l.state = .starting → Answers (.loopStartingComplete k) s fun t =>
      t = { s with nd := s.nd.setLoop k { l with state := .normal } }))

/-- While the Ndevas senses the field side, on a channel whose parameters are those of the active set and that has no more than
10 crossings: a sample of the terminal voltage before the 20th of its region changes neither state nor latch. The 20th active
sample takes an INDETERMINATE, CLEAR or CHANNEL_FAULT channel to LEAK, sets the latch and logs LEAK_ACTIVE where it was not set;
the 20th clear one takes an INDETERMINATE channel, and a CHANNEL_FAULT one without a latch, to CLEAR and leaves a LEAK channel
in LEAK; the 20th beyond 300 kOhm of a cable takes a channel to CHANNEL_FAULT, its latch kept, and logs it. The eleventh
crossing within 1 s makes the channel CHATTER, logs it and latches a DRIP_TRAY channel. The end of chatter gives the state of
the region taken, LEAK where the latch is set. Two seconds INDETERMINATE make a DRIP_TRAY channel LEAK with its latch set, and
any other CHANNEL_FAULT. A drift is logged and changes no channel. No chip, no current-loop channel and no other leak channel
changes. While the Ndevas restarts none of these changes anything. -/
def Obligations.LeakChannels : Prop :=
  (∀ (s : State) (k : Fin 8) (code : BitVec 12), let l := s.nd.leak k
    let r := leakRegion (s.nd.leakCfg k).type (leakMv code.toNat)
    let full := fun (q : Region) => r = q ∧ l.region = q ∧ l.run = 19 ∧ l.taken ≠ some q ∧ (l.lastSide = some q ∨ l.lastSide = none)
    let gives := fun (P : State → Leak → Prop) => Answers (.leakSample k code) s fun t => P t (t.nd.leak k) ∧
      (t.nd.leak k).code = some code.toNat ∧ (∀ j, j ≠ k.val → t.nd.leak j = s.nd.leak j) ∧ t.nd.loops = s.nd.loops ∧ t.chips = s.chips
    s.nd.acts = true → s.nd.leakCfg k = s.nd.setLeakCfg k →
    (l.crossings.length ≤ 9 → (r ≠ l.region ∨ l.run < 19) → gives fun t m => m.state = l.state ∧ m.latch = l.latch ∧
      m.run = (if r = l.region then l.run + 1 else 1) ∧ m.region = r ∧ t.nd.queue = s.nd.queue ∧ t.nd.hazards = s.nd.hazards) ∧
    (l.crossings.length ≤ 10 →
      (full .active → l.state = .indeterminate ∨ l.state = .clear ∨ l.state = .channelFault → gives fun t m =>
        m.state = .leak ∧ m.latch = true ∧ (LogRoom s → l.latch = false → Logged s t 0x1006 k 1)) ∧
      (full .clear → l.state = .indeterminate ∨ (l.state = .channelFault ∧ l.latch = false) → gives fun _ m =>
        m.state = .clear ∧ m.latch = l.latch) ∧
      (full .clear → l.state = .leak ∨ (l.state = .channelFault ∧ l.latch = true) → gives fun t m => m.state = l.state ∧
        m.latch = l.latch ∧ t.nd.hazards = s.nd.hazards) ∧
      (full .wireFault → l.state = .indeterminate ∨ l.state = .clear ∨ l.state = .leak → gives fun t m =>
        m.state = .channelFault ∧ m.latch = l.latch ∧ (LogRoom s → Logged s t 0x1008 k 1))) ∧
    (l.state ≠ .chatter → (l.crossings.filter fun i => decide (l.n < i + 1000)).length = 10 →
      (r = .active ∧ (l.lastSide = some .clear ∨ l.lastSide = some .wireFault)) ∨
        ((r = .clear ∨ r = .wireFault) ∧ l.lastSide = some .active) →
      gives fun t m => m.state = .chatter ∧ m.latch = (l.latch || (s.nd.leakCfg k).dripTray) ∧ (LogRoom s → Logged s t 0x1009 k 11))) ∧
  (∀ (s : State) (k : Fin 8) (code : BitVec 12), s.nd.acts = false →
    ∀ i ∈ [Instr.leakSample k code, .chatterEnd k, .leakIndeterminateTimeout k, .leakDrift k], Answers i s fun t => t = s) ∧
  (∀ (s : State) (k : Fin 8), let l := s.nd.leak k
    let gives := fun (i : Instr) (P : State → Leak → Prop) => Answers i s fun t => P t (t.nd.leak k) ∧
      (∀ j, j ≠ k.val → t.nd.leak j = s.nd.leak j) ∧ t.nd.loops = s.nd.loops ∧ t.chips = s.chips
    s.nd.acts = true →
    (l.state = .chatter →
      (l.taken = some .active → gives (.chatterEnd k) fun _ m => m.state = .leak ∧ m.latch = true) ∧
      (l.taken = some .clear → gives (.chatterEnd k) fun _ m => m.latch = l.latch ∧
        m.state = if l.latch = true then .leak else .clear) ∧
      (l.taken = some .wireFault → gives (.chatterEnd k) fun t m => m.latch = l.latch ∧ m.state = .channelFault ∧
        (LogRoom s → Logged s t 0x1008 k 1))) ∧
    (l.state = .indeterminate → (s.nd.leakCfg k).dripTray = true → gives (.leakIndeterminateTimeout k) fun t m =>
      m.state = .leak ∧ m.latch = true ∧ (LogRoom s → l.latch = false → Logged s t 0x1006 k 2)) ∧
    (l.state = .indeterminate → (s.nd.leakCfg k).dripTray = false → gives (.leakIndeterminateTimeout k) fun t m =>
      m.state = .channelFault ∧ m.latch = l.latch ∧ (LogRoom s → Logged s t 0x1008 k 2)) ∧
    (l.region = .band → LogRoom s → Answers (.leakDrift k) s fun t => Logged s t 0x100A k (rsOhms l.code) ∧ t.nd.leaks = s.nd.leaks ∧
      t.nd.loops = s.nd.loops ∧ t.nd.hazards = s.nd.hazards ∧ t.nd.outs = s.nd.outs ∧ t.chips = s.chips ∧ t.out = s.out))

/-- While the Ndevas senses the field side and no cross-feed is found, a sample turns an output to OVERLOAD at its fifth in
current limit, flags OPEN_LOAD at its hundredth below 10 mA and clears the flag at 10 mA, turns an off output to BACKFED at its
fifth above 12 V and back to its wanted state at its thousandth below 2 V, logs each, and changes no other state; every
cross-feed of a sample takes both outputs to CROSSFED and is logged, as one found by the test at 30 ms does; while the Ndevas
restarts, no output changes. At 60 ms each output that no action drives takes its power-up state where it is off, once. A closed
e-fuse trips above 80 A, above 1.25 times its I_LIM, and above its I_LIM in 20 samples in a row: it opens alone, turns its chip
off, its rails going down, and logs EFUSE_TRIP and the isolation; otherwise the samples are kept and nothing else changes. A
busbar fault opens every e-fuse; an asserted thermal-trip line opens the chip's e-fuse. Other chips do not change. -/
def Obligations.OutputsAndFuses : Prop :=
  (∀ (s : State) (vs : List OutSample) (k : Fin 4), let o := s.nd.output k
    let v := vs.getD k ⟨0, 0, false⟩
    let gives := fun (P : State → Output → Prop) => Answers (.outputSample vs) s fun t => P t (t.nd.output k) ∧
      t.nd.loops = s.nd.loops ∧ t.nd.leaks = s.nd.leaks ∧ t.nd.hazards = s.nd.hazards ∧ t.chips = s.chips
    LogRoom s → s.nd.acts = true → crossPairs s.nd vs = [] →
    (o.state = .on → v.inLimit = true → o.inLimit = 4 → gives fun t p => p.state = .overload ∧ Logged s t 0x100D k 0) ∧
    (o.state = .on → v.inLimit = false → v.ma < 10 → o.low = 99 → o.openLoad = false → gives fun t p => p.state = .on ∧
      p.openLoad = true ∧ Logged s t 0x100E k 1) ∧
    (o.state = .on → v.inLimit = false → 10 ≤ v.ma → o.openLoad = true → gives fun t p => p.state = .on ∧ p.openLoad = false ∧
      Logged s t 0x100E k 0) ∧
    (o.state = .on → v.inLimit = false → 10 ≤ v.ma → o.openLoad = false → gives fun _ p => p.state = .on ∧ p.openLoad = false ∧
      p.inLimit = 0 ∧ p.low = 0) ∧
    (o.state = .off → 12000 < v.mv → o.high = 4 → gives fun t p => p.state = .backfed ∧ Logged s t 0x100B k v.mv) ∧
    (o.state = .off → v.mv ≤ 12000 → gives fun _ p => p.state = .off ∧ p.high = 0) ∧
    (o.state = .backfed → v.mv < 2000 → o.below = 999 → gives fun _ p => p.state = if s.nd.wanted k = true then .on else .off) ∧
    (o.state = .backfed → 2000 ≤ v.mv → gives fun _ p => p.state = .backfed ∧ p.below = 0)) ∧
  (∀ (s : State) (vs : List OutSample), LogRoom s → s.nd.acts = true →
    Answers (.outputSample vs) s fun t => t.chips = s.chips ∧ ∀ j < 4, ∀ k < 4,
      (s.nd.output k).state = .on → (s.nd.output k).sinceOn < 10 → (s.nd.output j).state = .off → (s.nd.output j).wasLow = true →
      12000 < (vs.getD j ⟨0, 0, false⟩).mv → (t.nd.output j).state = .crossfed ∧ (t.nd.output k).state = .crossfed ∧
        Logged s t 0x100C k (j + 256 * k)) ∧
  (∀ (s : State) (vs : List OutSample) (found : List (Fin 4 × Fin 4)), s.nd.acts = false →
    ∀ i ∈ [Instr.outputSample vs, .crossfeedTest found, .outputPowerUpState], Answers i s fun t => t = s) ∧
  (∀ (s : State) (found : List (Fin 4 × Fin 4)), s.nd.outsUp = true →
    ∀ i ∈ [Instr.crossfeedTest found, .outputPowerUpState], Answers i s fun t => t = s) ∧
  (∀ (s : State) (j k : Fin 4), LogRoom s → s.nd.acts = true → s.nd.outsUp = false → j ≠ k →
    Answers (.crossfeedTest [(k, j)]) s fun t =>
    (t.nd.output j).state = .crossfed ∧ (t.nd.output k).state = .crossfed ∧ Logged s t 0x100C k (j.val + 256 * k.val) ∧
      (∀ i, i ≠ j.val → i ≠ k.val → t.nd.output i = s.nd.output i) ∧ t.chips = s.chips) ∧
  (∀ s : State, s.nd.acts = true → s.nd.outsUp = false → Answers .outputPowerUpState s fun t => t.chips = s.chips ∧
    t.nd.loops = s.nd.loops ∧ t.nd.outsUp = true ∧
    ∀ k < 4, (t.nd.output k).cmd = s.nd.active.outUp.getD k false ∧
      (s.nd.drive k = none → (s.nd.output k).state = .off →
        (t.nd.output k).state = if s.nd.active.outUp.getD k false = true then .on else .off) ∧
      ((s.nd.output k).state = .backfed ∨ (s.nd.output k).state = .crossfed → (t.nd.output k).state = (s.nd.output k).state)) ∧
  (∀ (s : State) (c : Fin 8) (ma : Nat) (samples : List FuseSample), let p := s.nd.position c
    let all := p.samples ++ samples
    let kept := all.drop (all.length - 20)
    let lim := s.nd.fuseLimit c
    let rest := fun (t : State) => OthersStay s t c ∧ t.nd.loops = s.nd.loops ∧ t.nd.leaks = s.nd.leaks ∧ t.nd.outs = s.nd.outs
    let trips := fun (kind : Nat) => Answers (.efuseTrip c ma samples) s fun t => FuseOpen s t c ∧ rest t ∧
      (t.nd.position c).cause = 4 ∧
      t.out = s.out ++ (chipAt s c).railsDown c ∧ Logged s t 0x1104 c 4 ∧
      Logged s t 0x100F c (kind + 2 ^ 32 * match kept.getLast? with | some v => v.ma | none => 0)
    LogRoom s →
    (p.fuse = true → 80000 < ma → trips 2) ∧
    (p.fuse = true → ma ≤ 80000 → 1250 * lim < ma → trips 1) ∧
    (p.fuse = true → ma ≤ 80000 → ma ≤ 1250 * lim → 1000 * lim < ma → kept.length = 20 → (∀ v ∈ kept, 1000 * lim < v.ma) → trips 3) ∧
    (p.fuse = false ∨ (ma ≤ 80000 ∧ ma ≤ 1000 * lim) → Answers (.efuseTrip c ma samples) s fun t =>
      t = { s with nd := s.nd.setPosition c { p with samples := kept } }) ∧
    ((chipAt s c).boot.tripLine = true → Answers (.thermalTripLine c) s fun t => FuseOpen s t c ∧ rest t ∧ (t.nd.position c).cause = 3 ∧
      t.out = s.out ++ (chipAt s c).railsDown c ∧ Logged s t 0x1104 c 3) ∧
    ((chipAt s c).boot.tripLine = false → Answers (.thermalTripLine c) s fun t => t = s) ∧
    (∀ above : Bool, Answers (.busbarFault above) s fun t => (∀ d, FuseOpen s t d) ∧
      ∀ d, (chipAt s d).boot.rails = .up → Logged s t 0x100F d (if above = true then 5 else 4)))

/-- With the Ndevas running: a hazard whose condition no longer holds is removed, logged and reported at its time, and CLOSE and
PUMP end with the last LEAK_TRAY; one whose condition holds stays. An escalation that the table gives a Guard hazard is taken
once and logged: REDUCE is in force, or every chip with rails is being isolated. With a Guard LEAK_TRAY and no chip up, CLOSE
and PUMP turn on the outputs of roles ISOLATE and PUMP_STOP and turn off those of PUMP_RUN. A notice clears READY of its chip,
which without work answers ISOLATE_READY; the answer, once its completions are posted, or the end of the grace, opens the e-fuse
of that chip alone and logs CHIP_ISOLATED with the cause; a chip with completions to post does not answer. A silent chip is
logged and nothing else changes. -/
def Obligations.HazardsAndIsolation : Prop :=
  (∀ (s : State) (z : Fin 9) (ch : Nat) (h : Hazard), let code := z.val + 1
    s.nd.running = true → LogRoom s → s.nd.hazard? code ch = some h →
    (h.holds = false → Answers (.hazardClear z ch) s fun t =>
      t.nd.hazards = s.nd.hazards.filter (fun h => !(h.code == code && h.ch == ch)) ∧
      t.nd.closePump = (s.nd.closePump && t.nd.hazards.any fun h => h.code == 7) ∧ Logged s t 0x1102 code ch ∧
      t.out = s.out ++ [.platformEvent code false] ∧ t.chips = s.chips ∧ t.nd.loops = s.nd.loops ∧ t.nd.leaks = s.nd.leaks) ∧
    (h.holds = true → Answers (.hazardClear z ch) s fun t => t = s) ∧
    (h.guard = true → escalation code h.level = some false → Answers (.hazardEscalation z ch) s fun t =>
      t.nd.hazard? code ch = some { h with level := h.level + 1 } ∧ t.nd.reducing = true ∧ t.chips = s.chips ∧ t.nd.pos = s.nd.pos ∧
      Logged s t 0x1103 code (2 + 256 * s.upMask)) ∧
    (h.guard = true → escalation code h.level = some true → Answers (.hazardEscalation z ch) s fun t =>
      t.nd.hazard? code ch = some { h with level := h.level + 1 } ∧ t.chips = s.chips ∧ Logged s t 0x1103 code (4 + 256 * s.upMask) ∧
      ∀ d, (chipAt s d).boot.rails ≠ .down → (t.nd.position d).iso.isSome = true ∧ (t.nd.position d).notice = true) ∧
    (h.guard = false → Answers (.hazardEscalation z ch) s fun t => t = s)) ∧
  (∀ s : State, s.nd.running = true → (∃ h ∈ s.nd.hazards, h.code = 7 ∧ h.guard = true) → (∀ d, (chipAt s d).boot.rails ≠ .up) →
    s.nd.closePump = false → Answers .leakClosePumpDelay s fun t => t.nd.closePump = true ∧ t.chips = s.chips ∧
      t.nd.hazards = s.nd.hazards ∧ ∀ k < 4,
        (s.nd.outRole k = 1 ∨ s.nd.outRole k = 2 → (s.nd.output k).state = .off → (t.nd.output k).state = .on) ∧
        (s.nd.outRole k = 3 → (s.nd.output k).state = .on → (t.nd.output k).state = .off) ∧
        (s.nd.outRole k = 0 ∨ s.nd.outRole k = 4 → (t.nd.output k).state = (s.nd.output k).state)) ∧
  (∀ (s : State) (c : Fin 8), let p := s.nd.position c
    let h := chipAt s c
    (p.notice = true → h.boot.fwRunning = true → h.serve.steps = [] → h.eng.copies = [] → h.stew.held = [] → h.boot.linkFatal = false →
      h.obs.lull ≠ .frozen → Answers (.isolateNotice c) s fun t =>
        chipAt t c = { h with boot := { h.boot with ready := false, isolating := true } } ∧ OthersStay s t c ∧
        t.nd.position c = { p with notice := false, isoReady := true } ∧ t.out = s.out ++ [.smbus c "ISOLATE_READY" 0]) ∧
    (∀ cause g, s.nd.running = true → LogRoom s → p.iso = some (cause, g) →
      (p.isoReady = true ∨ h.isolationPosted = true → Answers (.isolateReady c) s fun t => FuseOpen s t c ∧ OthersStay s t c ∧
        (t.nd.position c).cause = (if cause = .hazard then 1 else 2) ∧
        Logged s t 0x1104 c ((if cause = .hazard then 1 else 2) + 256)) ∧
      (p.isoReady = false → h.isolationPosted = false → Answers (.isolateReady c) s fun t => t = s) ∧
      Answers (.isolateGraceExpiry c) s fun t => FuseOpen s t c ∧ OthersStay s t c ∧
        (t.nd.position c).cause = (if cause = .hazard then 1 else 2) ∧ Logged s t 0x1104 c (if cause = .hazard then 1 else 2)) ∧
    (s.nd.running = true → LogRoom s → p.pwrgd = true → Answers (.chipSilent c) s fun t => Logged s t 0x110B c 50 ∧ t.chips = s.chips ∧
      t.nd.pos = s.nd.pos ∧ t.nd.hazards = s.nd.hazards ∧ t.out = s.out))

/-- With the port open and an account that may: On of a chip whose rails are not down, and ForceOff of one whose rails are down,
answer 200 and change nothing; On of a chip that R386 refuses answers 409 and logs it; any other On closes the e-fuse, starts
the rail sequence, the always-on rail first, with the first allotment and answers 200, as the second half of a PowerCycle does;
ForceOff and PowerCycle of a chip with rails notify it with a grace of 0, open its e-fuse, its rails going down, log
CHIP_ISOLATED by command, or with the cause of the isolation in progress, and answer 200; GracefulShutdown notifies it with a
grace of 100 ms, or the shorter one of the isolation in progress, and answers 200. An account that may only read is answered
403, and before the port serves the answer is 503, and nothing else changes. -/
def Obligations.ChassisCommands : Prop :=
  (∀ (s : State) (c : Fin 8) (role : Role) (ok : Bool), let rails := (chipAt s c).boot.rails
    let a := min 1400 ((s.nd.active.trayCap - 120) / ((List.range 8).countP s.railsUp + 1))
    let started := fun (t : State) => (t.nd.position c).fuse = true ∧ (t.nd.position c).a = a ∧ (t.nd.position c).p = a ∧
      (t.nd.position c).iso = none ∧ (chipAt t c).boot.rails = .sequencing ∧ (chipAt t c).power.a = a ∧ (chipAt t c).power.p = a ∧
      (chipAt t c).boot.railsOn = 1 ∧ OthersStay s t c ∧ t.nd.queue = s.nd.queue
    let by' := match (s.nd.position c).iso with | some (.hazard, _) => 1 | _ => 2
    let opened := fun (t : State) => FuseOpen s t c ∧ OthersStay s t c ∧ (t.nd.position c).cause = by' ∧ Logged s t 0x1104 c by' ∧
      t.out = s.out ++ [.smbus c "ISOLATE_NOTICE" 0] ++ (chipAt s c).railsDown c ++ [.redfish 200 none []]
    Serves s role →
    (rails ≠ .down → Answers (.chassisResetOn c role ok) s fun t => t = { s with out := s.out ++ [.redfish 200 none []] }) ∧
    (rails = .down → powerOnRefused s.nd c ok = true → LogRoom s → Answers (.chassisResetOn c role ok) s fun t =>
      Logged s t 0x1105 c 1 ∧ t.out = s.out ++ [.redfish 409 none [386]] ∧ t.chips = s.chips ∧ t.nd.pos = s.nd.pos) ∧
    (rails = .down → powerOnRefused s.nd c ok = false → Answers (.chassisResetOn c role ok) s fun t => started t ∧
      t.out = s.out ++ [.rail c 0 true, .redfish 200 none []]) ∧
    ((s.nd.position c).cycle = true → rails = .down → powerOnRefused s.nd c ok = false → Answers (.powerCycleOnDelay c ok) s fun t =>
      started t ∧ (t.nd.position c).cycle = false ∧ t.out = s.out ++ [.rail c 0 true]) ∧
    ((s.nd.position c).cycle = false → Answers (.powerCycleOnDelay c ok) s fun t => t = s) ∧
    (rails = .down → Answers (.chassisResetForceOff c role) s fun t => t = { s with out := s.out ++ [.redfish 200 none []] }) ∧
    (rails ≠ .down → LogRoom s → Answers (.chassisResetForceOff c role) s opened) ∧
    (rails ≠ .down → LogRoom s → Answers (.chassisResetPowerCycle c role) s fun t => opened t ∧
      (t.nd.position c).cycle = true) ∧
    (rails = .down → Answers (.chassisResetGracefulShutdown c role) s fun t => t = { s with out := s.out ++ [.redfish 200 none []] }) ∧
    (rails ≠ .down → Answers (.chassisResetGracefulShutdown c role) s fun t => t.chips = s.chips ∧
      OthersStay s t c ∧ (t.nd.position c).iso = (match (s.nd.position c).iso with
        | some (cause, g) => some (cause, min g 100)
        | none => some (.command, 100)) ∧ (t.nd.position c).notice = true ∧
      (t.nd.position c).fuse = (s.nd.position c).fuse ∧
      t.out = s.out ++ [.smbus c "ISOLATE_NOTICE" 100, .redfish 200 none []])) ∧
  (∀ (s : State) (c : Fin 8) (ok : Bool) (role : Role),
    ∀ i ∈ [Instr.chassisResetOn c role ok, .chassisResetForceOff c role, .chassisResetGracefulShutdown c role, .chassisResetPowerCycle c role],
      s.nd.standby = true → s.nd.running = true →
      (s.served = false → Answers i s fun t => t = { s with out := s.out ++ [.redfish 503 (some 1) []] }) ∧
      (s.served = true → role = .readOnly → Answers i s fun t => t = { s with out := s.out ++ [.redfish 403 none []] }))

/-- With the port open and an account that may: ClearLeak of a latched channel that holds the clear region releases the latch,
makes a channel that does not chatter CLEAR and logs it twice; on a channel that does not hold it, it answers 409 and changes
nothing. ClearCrossfed takes a CROSSFED output that no action drives to OFF and logs it. SetOutput answers 409 and changes
nothing where an action drives the output the other way or R371 forbids it, and otherwise commands the output. With an
administrator: a PATCH whose If-Match names another generation of the shadow set is answered 412; any other changes the shadow
set alone and counts its generation where it is within the ranges, and is answered 400 where it is not; a commit with a stale
generation is answered 412, one that fails a check 409 with the check and the item, and one that passes exchanges the sets,
counts both generations and logs it, no channel changing at once; a pushed image is stored. An operator is answered 403 for
these. -/
def Obligations.ClearsOutputsAndSettings : Prop :=
  (∀ (s : State) (k : Fin 8) (role : Role), let l := s.nd.leak k
    Serves s role →
    (l.taken = some .clear → l.region = .clear → l.latch = true → l.state ≠ .chatter → LogRoom s →
      Answers (.clearLeak k role) s fun t =>
      t.nd.leak k = { l with latch := false, state := .clear } ∧ (∀ j, j ≠ k.val → t.nd.leak j = s.nd.leak j) ∧
      Logged s t 0x1007 k 0 ∧ Logged s t 0x1109 k 1 ∧ t.out = s.out ++ [.redfish 200 none []] ∧ t.chips = s.chips) ∧
    (l.taken ≠ some .clear ∨ l.region ≠ .clear → Answers (.clearLeak k role) s fun t =>
      t = { s with out := s.out ++ [.redfish 409 none [368]] })) ∧
  (∀ (s : State) (k : Fin 4) (role : Role) (on : Bool), let o := s.nd.output k
    Serves s role →
    (o.state = .crossfed → s.nd.drive k = none → LogRoom s → Answers (.clearCrossfed [k] role) s fun t =>
      t.nd.output k = { o with state := .off } ∧ (∀ j, j ≠ k.val → t.nd.output j = s.nd.output j) ∧ Logged s t 0x1109 k 2 ∧
      t.out = s.out ++ [.redfish 200 none []] ∧ t.chips = s.chips) ∧
    (s.nd.drive k = some (!on) → Answers (.setOutput k on role) s fun t => t = { s with out := s.out ++ [.redfish 409 none [396]] }) ∧
    (s.nd.drive k ≠ some (!on) → on = true → o.state = .backfed ∨ o.state = .crossfed → Answers (.setOutput k on role) s fun t =>
      t = { s with out := s.out ++ [.redfish 409 none [371]] }) ∧
    (s.nd.drive k ≠ some (!on) → on = false → o.state = .backfed ∨ o.state = .crossfed → Answers (.setOutput k on role) s fun t =>
      (t.nd.output k).cmd = on ∧ (t.nd.output k).state = o.state ∧ t.out = s.out ++ [.redfish 200 none []] ∧ t.chips = s.chips) ∧
    (s.nd.drive k ≠ some (!on) → o.state = .off ∨ o.state = .on ∨ o.state = .overload → Answers (.setOutput k on role) s fun t =>
      (t.nd.output k).cmd = on ∧ (t.nd.output k).state = (if on = true then .on else .off) ∧
      (∀ j, j ≠ k.val → (t.nd.output j).state = (s.nd.output j).state) ∧ t.out = s.out ++ [.redfish 200 none []] ∧ t.chips = s.chips)) ∧
  (∀ (s : State) (w : List Patch) (m : Option Word32) (e : Word32) (kind : ImageKind) (image : Nat), let n := s.nd
    let answer := fun (i : Instr) (http : Nat) (body : List Nat) => Answers i s fun t => t = { s with out := s.out ++ [.redfish http none body] }
    Serves s .administrator →
    (∀ g, m = some g → g ≠ n.shadowGen → answer (.ndevasShadowPatch ⟨w, m⟩ .administrator) 412 []) ∧
    (m = none ∨ m = some n.shadowGen → w.all patchOk = true → Answers (.ndevasShadowPatch ⟨w, m⟩ .administrator) s fun t =>
      t.nd = { n with shadow := w.foldl applyPatch n.shadow, shadowGen := n.shadowGen + 1 } ∧ t.chips = s.chips ∧
      t.out = s.out ++ [.redfish 200 none [(n.shadowGen + 1).toNat]]) ∧
    (m = none ∨ m = some n.shadowGen → w.all patchOk = false → answer (.ndevasShadowPatch ⟨w, m⟩ .administrator) 400 [388]) ∧
    (e ≠ n.shadowGen → answer (.ndevasCommit e .administrator) 412 []) ∧
    (∀ f, e = n.shadowGen → commitFail n.shadow n.limits = some f → answer (.ndevasCommit e .administrator) 409 [f.1, f.2]) ∧
    (e = n.shadowGen → commitFail n.shadow n.limits = none → LogRoom s → Answers (.ndevasCommit e .administrator) s fun t =>
      t.nd.active = n.shadow ∧ t.nd.shadow = n.active ∧ t.nd.activeGen = n.activeGen + 1 ∧ t.nd.shadowGen = n.shadowGen + 1 ∧
      Logged s t 0x1108 0xFF (n.activeGen + 1).toNat ∧ t.nd.leaks = n.leaks ∧ t.nd.loops = n.loops ∧
      t.nd.hazards = n.hazards ∧ t.chips = s.chips ∧ t.out = s.out ++ [.redfish 200 none []]) ∧
    Answers (.updatePush kind image .administrator) s (fun t => t.chips = s.chips ∧ t.out = s.out ++ [.redfish 200 none []] ∧
      (kind = .ndevas → t.nd = { n with image := some image }) ∧
      (kind = .steward → ∀ d : Fin 8, t.nd.position d = { n.position d with image := some image })) ∧
    ∀ i ∈ [Instr.ndevasShadowPatch ⟨w, m⟩ .operator, .ndevasCommit e .operator, .updatePush kind image .operator], answer i 403 [])

/-- A GET of a resource that exists is answered with what it holds and one that does not with 404, an unsupported request with
501, and none changes the tray; a subscription is added or removed. Before the firmware runs the connection is refused; before
the port serves, everything but the service root is answered 503. PLDM of a chip whose firmware does not run and that is not
isolated is answered 0x04, a sensor that exists with its reading, the e-fuse of an isolated chip as disabled. The oldest
programmed record not sent goes to every subscriber that is not suspended. The record at the head of the queue is programmed at
the end of the log, its event to be sent; with the queue empty the coalesced record is, under KIND 0x1F01 with its count and
times. The after part of a due record is programmed once. Every record is 64 bytes with its body first. -/
def Obligations.RequestsAndLog : Prop :=
  (∀ (s : State) (r : Resource) (id : Nat),
    let answer := fun (req : RedfishReq) (http : Nat) (body : List Nat) (n : Ndevas) =>
      Answers (.redfishRequest req) s fun t => t.nd = n ∧ t.chips = s.chips ∧ t.out = s.out ++ [.redfish http none body]
    s.nd.standby = true → s.nd.running = true →
    (s.served = true →
      (∀ b, resourceBody s r = some b → answer (.get r) 200 b s.nd) ∧ (resourceBody s r = none → answer (.get r) 404 [] s.nd) ∧
      answer .unsupported 501 [] s.nd ∧
      answer (.subscribe id) 200 [] { s.nd with subs := (s.nd.subs.filter fun u => u.1 != id) ++ [(id, 0)] } ∧
      answer (.unsubscribe id) 200 [] { s.nd with subs := s.nd.subs.filter fun u => u.1 != id } ∧
      ∀ ms, answer (.setClock ms .administrator) 200 [] { s.nd with clock := some (ms - s.ndMs) }) ∧
    answer (.get .serviceRoot) 200 [1, Config.enterpriseNumber] s.nd ∧
    (s.served = false → r ≠ .serviceRoot → Answers (.redfishRequest (.get r)) s fun t =>
      t = { s with out := s.out ++ [.redfish 503 (some 1) []] })) ∧
  (∀ (s : State) (req : RedfishReq), s.nd.standby = true → s.nd.running = false →
    Answers (.redfishRequest req) s fun t => t = { s with out := s.out ++ [.refusedConnection] }) ∧
  (∀ (s : State) (c : Fin 8) (req : PldmReq) (n : Nat) (r : Resource) (b : List Nat), s.nd.running = true →
    ((chipAt s c).boot.fwRunning = false → s.isolatedChip c = false → Answers (.pldmRequest c req) s fun t => t.nd = s.nd ∧
      t.chips = s.chips ∧ t.out = s.out ++ [.pldm c 4 []]) ∧
    ((chipAt s c).boot.fwRunning = true ∨ s.isolatedChip c = true → sensorOf n = some r → resourceBody s r = some b →
      Answers (.pldmRequest c (.sensorReading n)) s fun t => t.nd = s.nd ∧ t.chips = s.chips ∧
        t.out = s.out ++ [.pldm c 0 (b2n (s.isolatedChip c && n == 28 + c.val) :: b)])) ∧
  (∀ (s : State) (acc : List Nat) (q : Nat) (l : List Nat), s.nd.running = true → s.nd.toSend = q :: l →
    Answers (.redfishEventSend acc) s fun t => t.nd.toSend = l ∧ t.chips = s.chips ∧ t.nd.flash = s.nd.flash ∧
      t.out = s.out ++ (s.nd.subs.filter fun u => decide (u.2 < 16)).map (fun u => Out.redfishEvent u.1 q) ∧
      t.nd.subs = s.nd.subs.map fun u => if u.2 < 16 then (u.1, if u.1 ∈ acc then 0 else u.2 + 1) else u) ∧
  (∀ s : State, s.nd.running = true →
    (∀ r l, s.nd.queue = r :: l → s.nd.flash.length < 131071 → Answers .logRecordProgram s fun t =>
      t = { s with nd := { s.nd with queue := l, flash := s.nd.flash ++ [r], toSend := s.nd.toSend ++ [r.seq] } }) ∧
    (∀ r l, s.nd.queue = r :: l → s.nd.flash.length = 131071 → Answers .logRecordProgram s fun t =>
      t.nd.flash = (s.nd.flash ++ [r]).drop 1024 ∧ t.nd.queue = l) ∧
    (∀ t0 t1 n codes, s.nd.queue = [] → s.nd.coalesced = some (t0, t1, n, codes) → s.nd.flash.length < 131071 →
      Answers .logRecordProgram s fun t => t.nd.coalesced = none ∧ t.nd.seq = s.nd.seq + 1 ∧ t.chips = s.chips ∧
        ∃ r, t.nd.flash = s.nd.flash ++ [r] ∧ r.seq = s.nd.seq.toNat ∧ r.time = t0 ∧ r.kind = 0x1F01 ∧ r.source = 0xFF ∧ r.count = n ∧
          r.detail = t1 % 2 ^ 48) ∧
    ∀ q : Word32, Answers (.logAfterPartProgram q) s fun t => t.chips = s.chips ∧ t.nd.queue = s.nd.queue ∧ t.out = s.out ∧
      t.nd.flash.length = s.nd.flash.length ∧ ∀ r ∈ s.nd.flash,
        (r.seq = q.toNat → r.due = true → { r with after := some (snapshot s (srcOf r.kind r.source)), due := false } ∈ t.nd.flash) ∧
        (r.seq ≠ q.toNat ∨ r.due = false → r ∈ t.nd.flash)) ∧
  ∀ r : LogRec, r.bytes.length = 64 ∧ r.bytes.take 42 = r.body ∧ r.bytes.getD 60 0 = crc8 r.body ∧ r.bytes.getD 62 0 = 0x5A

/-- Standby power starts the Ndevas: its channels in use are STARTING and its leak channels INDETERMINATE, a latched leak apart.
Its firmware, once running, logs its start, reads the identity memories and logs those of the board and the chips that fail. A
scan of the coolant check counts where it passes and starts the count anew where it fails, and the failure of a Watch channel
that it passes is logged. The rails of a chip that is due start once the board and the chip read well, two scans have passed and
no leak is active, with an allotment of min(1,400 W, B over the chips due or up), the always-on rail first; they do not start
otherwise. Power good starts the boot ROM, keeping the host's PERST#, which is honoured later where it is deasserted already; a
rail that misses its limit leaves the chip Off, its rails going down in the reverse order, and is logged. Each logs the outcome
of a power command. -/
def Obligations.TrayPowerUp : Prop :=
  (∀ s : State,
    (s.nd.standby = true → Answers .standbyRailGood s fun t => t = s) ∧
    (s.nd.standby = false → Answers .standbyRailGood s fun t => t.nd.standby = true ∧ t.nd.running = false ∧ t.nd.startedAt = s.now ∧
      t.nd.startCause = 1 ∧ t.chips = s.chips ∧ t.nd.active = s.nd.active ∧ t.nd.flash = s.nd.flash ∧
      (∀ k < 16, (t.nd.loop k).cfg = s.nd.setLoopCfg k ∧
        (t.nd.loop k).state = if (s.nd.setLoopCfg k).role = 0 then .unused else .starting) ∧
      ∀ k < 8, (t.nd.leak k).latch = (s.nd.leak k).latch ∧
        (t.nd.leak k).state = if (s.nd.leak k).latch = true then .leak else .indeterminate)) ∧
  (∀ (s : State) (ids : IdReads), s.nd.running = false → LogRoom s → Answers (.ndevasFirmwareRunning ids) s fun t =>
    t.nd.running = true ∧ (s.nd.startCause = 1 → t.chips = s.chips) ∧ t.nd.boardOk = idPasses ids.board ∧
      Logged s t 0x110A 0xFF s.nd.startCause ∧
    (idPasses ids.board = false → Logged s t 0x1107 0 1) ∧
    ∀ i : Fin 8, let r := ids.chips.getD i noRead
      (idPasses r = false → (t.nd.position i).idRow = 2 ∧ Logged s t 0x1107 (0x10 + i) 2) ∧
      (idPasses r = true → r.compatible = false → (t.nd.position i).idRow = 3 ∧ Logged s t 0x1107 (0x10 + i) 3) ∧
      (idPasses r = true → r.compatible = true → (t.nd.position i).idRow = 0 ∧
        (t.nd.position i).stepping = some r.stepping ∧
        (s.nd.startCause = 1 → (chipAt s i).boot.rails = .down → (t.nd.position i).due = true))) ∧
  (∀ s : State, s.nd.running = true → Answers .coolantCheckScan s fun t => t.nd.idsRead = true ∧ t.chips = s.chips ∧
    (LogRoom s → ∀ k < 16, supplyFails s.nd k = true → (s.nd.loopCfg k).watch = true →
      ∃ r ∈ t.nd.queue.drop s.nd.queue.length, r.source = k) ∧
    t.nd.scansOk = (if coolantOk s.nd = true then s.nd.scansOk + 1 else 0) ∧ t.nd.pos = s.nd.pos ∧ t.nd.hazards = s.nd.hazards) ∧
  (∀ (s : State) (c : Fin 8), let p := s.nd.position c
    let a := min 1400 ((s.nd.active.trayCap - 120) / (List.range 8).countP fun i => (s.nd.position i).due || s.railsUp i)
    (s.nd.running = true → s.nd.boardOk = true → p.idRow = 0 → p.due = true → 2 ≤ s.nd.scansOk → leakActive s.nd = false →
      (chipAt s c).boot.rails = .down → Answers (.railSequenceStart c) s fun t => OthersStay s t c ∧
        (t.nd.position c).fuse = true ∧ (t.nd.position c).due = false ∧ (t.nd.position c).a = a ∧ (t.nd.position c).p = a ∧
        (chipAt t c).boot.rails = .sequencing ∧ (chipAt t c).boot.railsOn = 1 ∧ t.out = s.out ++ [.rail c 0 true] ∧
        (chipAt t c).power.a = a ∧ (chipAt t c).power.p = a) ∧
    (s.nd.running = false ∨ s.nd.boardOk = false ∨ p.idRow ≠ 0 ∨ p.due = false ∨ s.nd.scansOk < 2 ∨ leakActive s.nd = true ∨
      (chipAt s c).boot.rails ≠ .down → Answers (.railSequenceStart c) s fun t => t = s)) ∧
  (∀ (s : State) (c : Fin 8) (rail : Fin 4), let b := (chipAt s c).boot
    let p := s.nd.position c
    (b.rails = .sequencing → Answers (.powerGood c) s fun t => OthersStay s t c ∧ (t.nd.position c).pwrgd = true ∧
      (t.nd.position c).fuse = p.fuse ∧ (chipAt t c).boot.rails = .up ∧ (chipAt t c).boot.railsOn = 4 ∧
        (chipAt t c).boot.pstate = .booting ∧
      (chipAt t c).boot.ready = false ∧ (chipAt t c).boot.perst = b.perst ∧ (chipAt t c).boot.perstEarly = !b.perst ∧
      (chipAt t c).boot.pgTime = s.now ∧
      (p.byCommand = true → LogRoom s → Logged s t 0x1105 c 0)) ∧
    (b.rails ≠ .sequencing → Answers (.powerGood c) s fun t => t = s) ∧
    (b.rails ≠ .down → Answers (.railFault c rail) s fun t => OthersStay s t c ∧ (t.nd.position c).pwrgd = false ∧
      chipAt t c = { Chip.off with boot := { Boot.initial with perst := b.perst } } ∧
      (b.rails = .up → b.railsOn = 4 → t.out = s.out ++ [.rail c 3 false, .rail c 2 false, .rail c 1 false, .rail c 0 false]) ∧
      (LogRoom s → Logged s t 0x1106 c rail ∧ (p.byCommand = true → Logged s t 0x1105 c 2))) ∧
    (b.rails = .down → Answers (.railFault c rail) s fun t => t = s))

/-- A restart of the Ndevas leaves every chip, e-fuse, output, leak latch and both sets as they are and its firmware not
running; what waited in RAM for programming is lost, what is in flash stays; hazards and channel states are built anew, a
disconnected loop channel keeping its open FET and a latched leak channel LEAK. The loss of standby power takes every chip Off
with all contents and leaves of the Ndevas what its flash holds: both sets and their generations, the leak latches, the log, the
sequence number and the images. A board memory that failed is read again: a good read takes its limits, which no I_LIM passes, a
bad one is logged and powers no chip. -/
def Obligations.TrayRestarts : Prop :=
  (∀ (s : State) (cause : RestartCause),
    (s.nd.running = true → Answers (.ndevasRestart cause) s fun t => t.nd.running = false ∧ t.chips = s.chips ∧ t.out = s.out ∧
      t.nd.pos = s.nd.pos ∧ t.nd.outs = s.nd.outs ∧ t.nd.hazards = [] ∧ t.nd.active = s.nd.active ∧
      (∀ k < 8, (t.nd.leak k).latch = (s.nd.leak k).latch ∧ (t.nd.leak k).state = if (s.nd.leak k).latch = true then .leak else .indeterminate) ∧
      (∀ k < 16, (s.nd.setLoopCfg k).role ≠ 0 →
        if (s.nd.loop k).state = .disconnected ∧ (s.nd.loop k).fetOpen = true then
          (t.nd.loop k).state = .disconnected ∧ (t.nd.loop k).fetOpen = true ∧ (t.nd.loop k).retries = (s.nd.loop k).retries
        else (t.nd.loop k).state = .starting ∧ (t.nd.loop k).fetOpen = false) ∧
      t.nd.shadow = s.nd.shadow ∧ t.nd.activeGen = s.nd.activeGen ∧ t.nd.shadowGen = s.nd.shadowGen ∧ t.nd.seq = s.nd.seq ∧
      t.nd.startedAt = s.now ∧ t.nd.startCause = (if cause = .watchdog then 2 else 3) ∧ t.nd.queue = [] ∧ t.nd.coalesced = none ∧
      t.nd.flash = s.nd.flash.map (fun r => { r with due := false }) ∧
      ∀ u, s.nd.clock = some u → t.nd.clock = some (u + (s.now - s.nd.startedAt) / 1000000)) ∧
    (s.nd.running = false → Answers (.ndevasRestart cause) s fun t => t = s)) ∧
  (∀ s : State, Answers .standbyPowerLoss s fun t => t.nd.standby = false ∧ t.nd.running = false ∧
    (∀ c, chipAt t c = { Chip.off with boot := { Boot.initial with perst := (chipAt s c).boot.perst } } ∧
      (t.nd.position c).fuse = false ∧ (t.nd.position c).pwrgd = false ∧ (t.nd.position c).image = (s.nd.position c).image) ∧
    t.nd.active = s.nd.active ∧ t.nd.shadow = s.nd.shadow ∧ t.nd.activeGen = s.nd.activeGen ∧ t.nd.shadowGen = s.nd.shadowGen ∧
    (∀ k < 8, (t.nd.leak k).latch = (s.nd.leak k).latch) ∧ t.nd.flash = s.nd.flash.map (fun r => { r with due := false }) ∧
    t.nd.seq = s.nd.seq ∧ t.nd.image = s.nd.image ∧ t.nd.queue = [] ∧ t.nd.hazards = []) ∧
  ∀ (s : State) (r : IdRead),
    (s.nd.running = true → s.nd.boardOk = false →
      (idPasses r = true → Answers (.trayIdentityRetry r) s fun t => t = { s with nd := s.nd.readBoard r } ∧ t.nd.boardOk = true ∧
        t.nd.limits = r.limits ∧ ∀ k < 8, t.nd.fuseLimit k ≤ r.limits.getD k 42 ∨ r.limits.length ≤ k) ∧
      (idPasses r = false → LogRoom s → Answers (.trayIdentityRetry r) s fun t => Logged s t 0x1107 0 1 ∧ t.nd.boardOk = false ∧
        t.chips = s.chips ∧ t.nd.pos = s.nd.pos)) ∧
    (s.nd.boardOk = true → Answers (.trayIdentityRetry r) s fun t => t = s)

/-- Every chip is Off. Each register of the reset and status block after CHIP_STATUS reads 0. Both sets of its configuration
hold the defaults: one Super with every Comb, stream, queue pair 1 to 63 and the whole memory, 1,400 W in Tailwind with Gust,
600 to 2,100 MHz and the whole share of Super 0; both generations are 0. Every stream is FREE with GEN 0, every model ID empty
with its swap IDLE. The Ndevas sets hold the default roles, limits, types, e-fuse limits, output roles and tray cap, every
channel in Guard; every output is off, and no command, record or answer waits. -/
def Obligations.ResetLeavesTheStatedValues : Prop :=
  (∀ c : Fin 8, let h := chipAt State.reset c
    h.boot.rails = .down ∧ h.boot.pstate = .off ∧ h.boot.ready = false ∧
    (∀ r ∈ [0x04, 0x08, 0x0C, 0x10, 0x14, 0x20, 0x24, 0x28, 0x2C, 0x30, 0x34], bar0Value (ctxOf State.reset c) r = 0) ∧
    h.config.activeGen = 0 ∧ h.config.shadowGen = 0 ∧ h.config.shadow = h.config.active ∧
    (let m := h.config.active.superMap
     superDefined m 0 = true ∧ superStreamBase m 0 = 0 ∧ superStreamCount m 0 = 4096 ∧ superQpBase m 0 = 1 ∧ superQpCount m 0 = 63 ∧
     superSramMib m 0 = 1280 ∧ superHbmMib m 0 = 294912 ∧ superFrames m 0 = 4194304 ∧ superFrameCode m 0 = 2 ∧
     superCombs m 0 = 2 ^ 128 - 1 ∧ ∀ s ∈ [1, 2, 3, 4, 5, 6, 7], superDefined m s = false) ∧
    (let m := h.config.active.power
     ppTdp m = 1400 ∧ ppLo m = 1200 ∧ ppHi m = 1600 ∧ ppFMin m = 600 ∧ ppFMax m = 2100 ∧ ppFLock m = 1750 ∧ ppLockstep m = false ∧
     ppGust m = true ∧ ppGroup m = 0 ∧ ppConflict m = 100 ∧ ppDelay m = 0 ∧ ppShare m 0 = 10000 ∧
     ∀ s ∈ [1, 2, 3, 4, 5, 6, 7], ppShare m s = 0) ∧
    h.config.active.counters = [] ∧ h.config.active.micro = [] ∧ h.config.active.lull = [] ∧
    (∀ i, tget Stream.free h.serve.streams i = Stream.free ∧ tget Model.empty h.serve.models i = Model.empty) ∧
    Stream.free.state = .free ∧ Stream.free.gen = 0 ∧ Model.empty.gen = 0 ∧ Model.empty.swap.state = .idle) ∧
  (let n := State.reset.nd
   (List.range 16).map (fun k => (n.setLoopCfg k).role) = [1, 2, 3, 4, 5, 0, 0, 0, 0, 0, 0, 0, 0, 0, 0, 0] ∧
   (∀ k < 16, (n.setLoopCfg k).vtMin = 12000 ∧ (n.setLoopCfg k).rWire = 20 ∧ (n.setLoopCfg k).watch = false) ∧
   (List.range 5).map (fun k => ((n.setLoopCfg k).spanLo, (n.setLoopCfg k).spanHi)) =
     [(0, 0x42700000), (0, 0x447A0000), (0, 0x42C80000), (0, 0x447A0000), (0, 0x42C80000)] ∧
   (List.range 5).map (fun k => ((n.setLoopCfg k).limitLo, (n.setLoopCfg k).limitHi)) =
     [(0x41F00000, 0x42700000), (0x43160000, 0x442F0000), (0x41700000, 0x42340000), (0, 0x44160000), (0x41200000, 0x42700000)] ∧
   (∀ k < 8, (n.setLeakCfg k).type = 0 ∧ (n.setLeakCfg k).watch = false ∧ (n.setLeakCfg k).dripTray = decide (k < 4)) ∧
   (List.range 4).map n.outRole = [1, 1, 2, 4] ∧ n.active.outUp = [false, false, false, false] ∧
   n.active.fuses = [42, 42, 42, 42, 42, 42, 42, 42] ∧ n.active.trayCap = 12500 ∧ n.shadow = n.active ∧
   (∀ k < 4, (n.output k).state = .off ∧ (n.output k).cmd = false) ∧ n.queue = [] ∧ n.coalesced = none ∧ n.hazards = []) ∧
  State.reset.pending = [] ∧ State.reset.out = []
end

