-- ==== Sys2Proof/Laws/Flits.lean ====
section
/-! SUPPORT. Little-endian fields, and the CRC of a flit that a port builds. -/
namespace Sys2Proof.Machine

@[simp] theorem toLE_length (n v : Nat) : (toLE n v).length = n := by
  induction n generalizing v with
  | zero => rfl
  | succ n ih => simp [toLE, ih]

/-- A number comes back from its bytes, modulo what they hold. -/
theorem leNat_toLE (n v : Nat) : leNat (toLE n v) = v % 256 ^ n := by
  induction n generalizing v with
  | zero => simp [toLE, leNat, Nat.mod_one]
  | succ n ih =>
    have : v % 256 ^ (n + 1) = v % 256 + 256 * (v / 256 % 256 ^ n) := by
      rw [Nat.pow_succ, Nat.mul_comm (256 ^ n) 256, Nat.mod_mul]
    simp only [toLE, leNat, ih, this, BitVec.toNat_ofNat]

@[simp] theorem fit_length (n : Nat) (b : Bytes) : (fit n b).length = n := by
  simp [fit, zeroBytes]; omega

/-- Bytes of the length asked for are kept whole. -/
theorem fit_self (b : Bytes) : fit b.length b = b := by simp [fit, zeroBytes]

@[simp] theorem Head.bytes_length (h : Head) : h.bytes.length = 14 := by simp [Head.bytes]

theorem flitBytes_length (h : Head) (body : Bytes) : (flitBytes h body).length = 256 := by simp [flitBytes]

theorem crcBit_lt (r : Nat) (b : Bool) : crcBit r b < 65536 := by
  unfold crcBit; dsimp only; split
  · exact Nat.xor_lt_two_pow (n := 16) (Nat.mod_lt _ (by decide)) (by decide)
  · exact Nat.mod_lt _ (by decide)

theorem foldl_lt {α β : Type} (m : β → Nat) (f : β → α → β) (hf : ∀ b a, m (f b a) < 65536) (l : List α) (b : β) (hb : m b < 65536) :
    m (l.foldl f b) < 65536 := by
  induction l generalizing b with
  | nil => exact hb
  | cons a r ih => exact ih _ (hf b a)

theorem crc16_lt (bs : Bytes) : crc16 bs < 65536 := by
  suffices h : ∀ (bs : Bytes) (r : Nat), r < 65536 →
      bs.foldl (fun r b => (List.range 8).foldl (fun r k => crcBit r (b.toNat.testBit k)) r) r < 65536 from h bs _ (by decide)
  intro bs
  induction bs with
  | nil => exact fun r h => h
  | cons b r ih => exact fun a ha => ih _ (foldl_lt id _ (fun r k => crcBit_lt r _) _ _ ha)

/-- A flit that a port builds carries the CRC that its receiver computes (10 R249). -/
theorem flit_crc (h : Head) (body : Bytes) :
    crc16 ((fit 256 (flitBytes h body)).take 254) = field (fit 256 (flitBytes h body)) 254 2 := by
  have e : fit 256 (flitBytes h body) = flitBytes h body := by
    have := fit_self (flitBytes h body); rwa [flitBytes_length] at this
  have l : (h.bytes ++ fit 240 body).length = 254 := by simp
  rw [e]
  unfold flitBytes field; dsimp only
  rw [List.take_left' l, List.drop_left' l, List.take_of_length_le (by simp), leNat_toLE]
  exact (Nat.mod_eq_of_lt (crc16_lt _)).symm

end Sys2Proof.Machine
end

