-- ==== Sys2Proof/Laws/State.lean ====
section
/-! SUPPORT. One lemma per field per update of a command's view of its chip, and what `onChip` changes of the tray. -/
namespace Sys2Proof.Machine

/-! ### `Ctx.onBoot` -/

@[simp] theorem Ctx.onBoot_boot (x : Ctx) (f : Boot → Boot) : (x.onBoot f).chip.boot = f x.chip.boot := rfl
@[simp] theorem Ctx.onBoot_bar (x : Ctx) (f : Boot → Boot) : (x.onBoot f).chip.bar = x.chip.bar := rfl
@[simp] theorem Ctx.onBoot_stew (x : Ctx) (f : Boot → Boot) : (x.onBoot f).chip.stew = x.chip.stew := rfl
@[simp] theorem Ctx.onBoot_config (x : Ctx) (f : Boot → Boot) : (x.onBoot f).chip.config = x.chip.config := rfl
@[simp] theorem Ctx.onBoot_serve (x : Ctx) (f : Boot → Boot) : (x.onBoot f).chip.serve = x.chip.serve := rfl
@[simp] theorem Ctx.onBoot_eng (x : Ctx) (f : Boot → Boot) : (x.onBoot f).chip.eng = x.chip.eng := rfl
@[simp] theorem Ctx.onBoot_mem (x : Ctx) (f : Boot → Boot) : (x.onBoot f).chip.mem = x.chip.mem := rfl
@[simp] theorem Ctx.onBoot_fab (x : Ctx) (f : Boot → Boot) : (x.onBoot f).chip.fab = x.chip.fab := rfl
@[simp] theorem Ctx.onBoot_power (x : Ctx) (f : Boot → Boot) : (x.onBoot f).chip.power = x.chip.power := rfl
@[simp] theorem Ctx.onBoot_obs (x : Ctx) (f : Boot → Boot) : (x.onBoot f).chip.obs = x.chip.obs := rfl
@[simp] theorem Ctx.onBoot_ledger (x : Ctx) (f : Boot → Boot) : (x.onBoot f).chip.ledger = x.chip.ledger := rfl
@[simp] theorem Ctx.onBoot_c (x : Ctx) (f : Boot → Boot) : (x.onBoot f).c = x.c := rfl
@[simp] theorem Ctx.onBoot_now (x : Ctx) (f : Boot → Boot) : (x.onBoot f).now = x.now := rfl
@[simp] theorem Ctx.onBoot_free (x : Ctx) (f : Boot → Boot) : (x.onBoot f).free = x.free := rfl
@[simp] theorem Ctx.onBoot_out (x : Ctx) (f : Boot → Boot) : (x.onBoot f).out = x.out := rfl
@[simp] theorem Ctx.onBoot_who (x : Ctx) (f : Boot → Boot) : (x.onBoot f).who = x.who := rfl

/-! ### `Ctx.onBar` -/

@[simp] theorem Ctx.onBar_boot (x : Ctx) (f : Bar → Bar) : (x.onBar f).chip.boot = x.chip.boot := rfl
@[simp] theorem Ctx.onBar_bar (x : Ctx) (f : Bar → Bar) : (x.onBar f).chip.bar = f x.chip.bar := rfl
@[simp] theorem Ctx.onBar_stew (x : Ctx) (f : Bar → Bar) : (x.onBar f).chip.stew = x.chip.stew := rfl
@[simp] theorem Ctx.onBar_config (x : Ctx) (f : Bar → Bar) : (x.onBar f).chip.config = x.chip.config := rfl
@[simp] theorem Ctx.onBar_serve (x : Ctx) (f : Bar → Bar) : (x.onBar f).chip.serve = x.chip.serve := rfl
@[simp] theorem Ctx.onBar_eng (x : Ctx) (f : Bar → Bar) : (x.onBar f).chip.eng = x.chip.eng := rfl
@[simp] theorem Ctx.onBar_mem (x : Ctx) (f : Bar → Bar) : (x.onBar f).chip.mem = x.chip.mem := rfl
@[simp] theorem Ctx.onBar_fab (x : Ctx) (f : Bar → Bar) : (x.onBar f).chip.fab = x.chip.fab := rfl
@[simp] theorem Ctx.onBar_power (x : Ctx) (f : Bar → Bar) : (x.onBar f).chip.power = x.chip.power := rfl
@[simp] theorem Ctx.onBar_obs (x : Ctx) (f : Bar → Bar) : (x.onBar f).chip.obs = x.chip.obs := rfl
@[simp] theorem Ctx.onBar_ledger (x : Ctx) (f : Bar → Bar) : (x.onBar f).chip.ledger = x.chip.ledger := rfl
@[simp] theorem Ctx.onBar_c (x : Ctx) (f : Bar → Bar) : (x.onBar f).c = x.c := rfl
@[simp] theorem Ctx.onBar_now (x : Ctx) (f : Bar → Bar) : (x.onBar f).now = x.now := rfl
@[simp] theorem Ctx.onBar_free (x : Ctx) (f : Bar → Bar) : (x.onBar f).free = x.free := rfl
@[simp] theorem Ctx.onBar_out (x : Ctx) (f : Bar → Bar) : (x.onBar f).out = x.out := rfl
@[simp] theorem Ctx.onBar_who (x : Ctx) (f : Bar → Bar) : (x.onBar f).who = x.who := rfl

/-! ### `Ctx.onStew` -/

@[simp] theorem Ctx.onStew_boot (x : Ctx) (f : Steward → Steward) : (x.onStew f).chip.boot = x.chip.boot := rfl
@[simp] theorem Ctx.onStew_bar (x : Ctx) (f : Steward → Steward) : (x.onStew f).chip.bar = x.chip.bar := rfl
@[simp] theorem Ctx.onStew_stew (x : Ctx) (f : Steward → Steward) : (x.onStew f).chip.stew = f x.chip.stew := rfl
@[simp] theorem Ctx.onStew_config (x : Ctx) (f : Steward → Steward) : (x.onStew f).chip.config = x.chip.config := rfl
@[simp] theorem Ctx.onStew_serve (x : Ctx) (f : Steward → Steward) : (x.onStew f).chip.serve = x.chip.serve := rfl
@[simp] theorem Ctx.onStew_eng (x : Ctx) (f : Steward → Steward) : (x.onStew f).chip.eng = x.chip.eng := rfl
@[simp] theorem Ctx.onStew_mem (x : Ctx) (f : Steward → Steward) : (x.onStew f).chip.mem = x.chip.mem := rfl
@[simp] theorem Ctx.onStew_fab (x : Ctx) (f : Steward → Steward) : (x.onStew f).chip.fab = x.chip.fab := rfl
@[simp] theorem Ctx.onStew_power (x : Ctx) (f : Steward → Steward) : (x.onStew f).chip.power = x.chip.power := rfl
@[simp] theorem Ctx.onStew_obs (x : Ctx) (f : Steward → Steward) : (x.onStew f).chip.obs = x.chip.obs := rfl
@[simp] theorem Ctx.onStew_ledger (x : Ctx) (f : Steward → Steward) : (x.onStew f).chip.ledger = x.chip.ledger := rfl
@[simp] theorem Ctx.onStew_c (x : Ctx) (f : Steward → Steward) : (x.onStew f).c = x.c := rfl
@[simp] theorem Ctx.onStew_now (x : Ctx) (f : Steward → Steward) : (x.onStew f).now = x.now := rfl
@[simp] theorem Ctx.onStew_free (x : Ctx) (f : Steward → Steward) : (x.onStew f).free = x.free := rfl
@[simp] theorem Ctx.onStew_out (x : Ctx) (f : Steward → Steward) : (x.onStew f).out = x.out := rfl
@[simp] theorem Ctx.onStew_who (x : Ctx) (f : Steward → Steward) : (x.onStew f).who = x.who := rfl

/-! ### `Ctx.onConfig` -/

@[simp] theorem Ctx.onConfig_boot (x : Ctx) (f : Config → Config) : (x.onConfig f).chip.boot = x.chip.boot := rfl
@[simp] theorem Ctx.onConfig_bar (x : Ctx) (f : Config → Config) : (x.onConfig f).chip.bar = x.chip.bar := rfl
@[simp] theorem Ctx.onConfig_stew (x : Ctx) (f : Config → Config) : (x.onConfig f).chip.stew = x.chip.stew := rfl
@[simp] theorem Ctx.onConfig_config (x : Ctx) (f : Config → Config) : (x.onConfig f).chip.config = f x.chip.config := rfl
@[simp] theorem Ctx.onConfig_serve (x : Ctx) (f : Config → Config) : (x.onConfig f).chip.serve = x.chip.serve := rfl
@[simp] theorem Ctx.onConfig_eng (x : Ctx) (f : Config → Config) : (x.onConfig f).chip.eng = x.chip.eng := rfl
@[simp] theorem Ctx.onConfig_mem (x : Ctx) (f : Config → Config) : (x.onConfig f).chip.mem = x.chip.mem := rfl
@[simp] theorem Ctx.onConfig_fab (x : Ctx) (f : Config → Config) : (x.onConfig f).chip.fab = x.chip.fab := rfl
@[simp] theorem Ctx.onConfig_power (x : Ctx) (f : Config → Config) : (x.onConfig f).chip.power = x.chip.power := rfl
@[simp] theorem Ctx.onConfig_obs (x : Ctx) (f : Config → Config) : (x.onConfig f).chip.obs = x.chip.obs := rfl
@[simp] theorem Ctx.onConfig_ledger (x : Ctx) (f : Config → Config) : (x.onConfig f).chip.ledger = x.chip.ledger := rfl
@[simp] theorem Ctx.onConfig_c (x : Ctx) (f : Config → Config) : (x.onConfig f).c = x.c := rfl
@[simp] theorem Ctx.onConfig_now (x : Ctx) (f : Config → Config) : (x.onConfig f).now = x.now := rfl
@[simp] theorem Ctx.onConfig_free (x : Ctx) (f : Config → Config) : (x.onConfig f).free = x.free := rfl
@[simp] theorem Ctx.onConfig_out (x : Ctx) (f : Config → Config) : (x.onConfig f).out = x.out := rfl
@[simp] theorem Ctx.onConfig_who (x : Ctx) (f : Config → Config) : (x.onConfig f).who = x.who := rfl

/-! ### `Ctx.onServe` -/

@[simp] theorem Ctx.onServe_boot (x : Ctx) (f : Serving → Serving) : (x.onServe f).chip.boot = x.chip.boot := rfl
@[simp] theorem Ctx.onServe_bar (x : Ctx) (f : Serving → Serving) : (x.onServe f).chip.bar = x.chip.bar := rfl
@[simp] theorem Ctx.onServe_stew (x : Ctx) (f : Serving → Serving) : (x.onServe f).chip.stew = x.chip.stew := rfl
@[simp] theorem Ctx.onServe_config (x : Ctx) (f : Serving → Serving) : (x.onServe f).chip.config = x.chip.config := rfl
@[simp] theorem Ctx.onServe_serve (x : Ctx) (f : Serving → Serving) : (x.onServe f).chip.serve = f x.chip.serve := rfl
@[simp] theorem Ctx.onServe_eng (x : Ctx) (f : Serving → Serving) : (x.onServe f).chip.eng = x.chip.eng := rfl
@[simp] theorem Ctx.onServe_mem (x : Ctx) (f : Serving → Serving) : (x.onServe f).chip.mem = x.chip.mem := rfl
@[simp] theorem Ctx.onServe_fab (x : Ctx) (f : Serving → Serving) : (x.onServe f).chip.fab = x.chip.fab := rfl
@[simp] theorem Ctx.onServe_power (x : Ctx) (f : Serving → Serving) : (x.onServe f).chip.power = x.chip.power := rfl
@[simp] theorem Ctx.onServe_obs (x : Ctx) (f : Serving → Serving) : (x.onServe f).chip.obs = x.chip.obs := rfl
@[simp] theorem Ctx.onServe_ledger (x : Ctx) (f : Serving → Serving) : (x.onServe f).chip.ledger = x.chip.ledger := rfl
@[simp] theorem Ctx.onServe_c (x : Ctx) (f : Serving → Serving) : (x.onServe f).c = x.c := rfl
@[simp] theorem Ctx.onServe_now (x : Ctx) (f : Serving → Serving) : (x.onServe f).now = x.now := rfl
@[simp] theorem Ctx.onServe_free (x : Ctx) (f : Serving → Serving) : (x.onServe f).free = x.free := rfl
@[simp] theorem Ctx.onServe_out (x : Ctx) (f : Serving → Serving) : (x.onServe f).out = x.out := rfl
@[simp] theorem Ctx.onServe_who (x : Ctx) (f : Serving → Serving) : (x.onServe f).who = x.who := rfl

/-! ### `Ctx.onEng` -/

@[simp] theorem Ctx.onEng_boot (x : Ctx) (f : Engines → Engines) : (x.onEng f).chip.boot = x.chip.boot := rfl
@[simp] theorem Ctx.onEng_bar (x : Ctx) (f : Engines → Engines) : (x.onEng f).chip.bar = x.chip.bar := rfl
@[simp] theorem Ctx.onEng_stew (x : Ctx) (f : Engines → Engines) : (x.onEng f).chip.stew = x.chip.stew := rfl
@[simp] theorem Ctx.onEng_config (x : Ctx) (f : Engines → Engines) : (x.onEng f).chip.config = x.chip.config := rfl
@[simp] theorem Ctx.onEng_serve (x : Ctx) (f : Engines → Engines) : (x.onEng f).chip.serve = x.chip.serve := rfl
@[simp] theorem Ctx.onEng_eng (x : Ctx) (f : Engines → Engines) : (x.onEng f).chip.eng = f x.chip.eng := rfl
@[simp] theorem Ctx.onEng_mem (x : Ctx) (f : Engines → Engines) : (x.onEng f).chip.mem = x.chip.mem := rfl
@[simp] theorem Ctx.onEng_fab (x : Ctx) (f : Engines → Engines) : (x.onEng f).chip.fab = x.chip.fab := rfl
@[simp] theorem Ctx.onEng_power (x : Ctx) (f : Engines → Engines) : (x.onEng f).chip.power = x.chip.power := rfl
@[simp] theorem Ctx.onEng_obs (x : Ctx) (f : Engines → Engines) : (x.onEng f).chip.obs = x.chip.obs := rfl
@[simp] theorem Ctx.onEng_ledger (x : Ctx) (f : Engines → Engines) : (x.onEng f).chip.ledger = x.chip.ledger := rfl
@[simp] theorem Ctx.onEng_c (x : Ctx) (f : Engines → Engines) : (x.onEng f).c = x.c := rfl
@[simp] theorem Ctx.onEng_now (x : Ctx) (f : Engines → Engines) : (x.onEng f).now = x.now := rfl
@[simp] theorem Ctx.onEng_free (x : Ctx) (f : Engines → Engines) : (x.onEng f).free = x.free := rfl
@[simp] theorem Ctx.onEng_out (x : Ctx) (f : Engines → Engines) : (x.onEng f).out = x.out := rfl
@[simp] theorem Ctx.onEng_who (x : Ctx) (f : Engines → Engines) : (x.onEng f).who = x.who := rfl

/-! ### `Ctx.onMem` -/

@[simp] theorem Ctx.onMem_boot (x : Ctx) (f : Memory → Memory) : (x.onMem f).chip.boot = x.chip.boot := rfl
@[simp] theorem Ctx.onMem_bar (x : Ctx) (f : Memory → Memory) : (x.onMem f).chip.bar = x.chip.bar := rfl
@[simp] theorem Ctx.onMem_stew (x : Ctx) (f : Memory → Memory) : (x.onMem f).chip.stew = x.chip.stew := rfl
@[simp] theorem Ctx.onMem_config (x : Ctx) (f : Memory → Memory) : (x.onMem f).chip.config = x.chip.config := rfl
@[simp] theorem Ctx.onMem_serve (x : Ctx) (f : Memory → Memory) : (x.onMem f).chip.serve = x.chip.serve := rfl
@[simp] theorem Ctx.onMem_eng (x : Ctx) (f : Memory → Memory) : (x.onMem f).chip.eng = x.chip.eng := rfl
@[simp] theorem Ctx.onMem_mem (x : Ctx) (f : Memory → Memory) : (x.onMem f).chip.mem = f x.chip.mem := rfl
@[simp] theorem Ctx.onMem_fab (x : Ctx) (f : Memory → Memory) : (x.onMem f).chip.fab = x.chip.fab := rfl
@[simp] theorem Ctx.onMem_power (x : Ctx) (f : Memory → Memory) : (x.onMem f).chip.power = x.chip.power := rfl
@[simp] theorem Ctx.onMem_obs (x : Ctx) (f : Memory → Memory) : (x.onMem f).chip.obs = x.chip.obs := rfl
@[simp] theorem Ctx.onMem_ledger (x : Ctx) (f : Memory → Memory) : (x.onMem f).chip.ledger = x.chip.ledger := rfl
@[simp] theorem Ctx.onMem_c (x : Ctx) (f : Memory → Memory) : (x.onMem f).c = x.c := rfl
@[simp] theorem Ctx.onMem_now (x : Ctx) (f : Memory → Memory) : (x.onMem f).now = x.now := rfl
@[simp] theorem Ctx.onMem_free (x : Ctx) (f : Memory → Memory) : (x.onMem f).free = x.free := rfl
@[simp] theorem Ctx.onMem_out (x : Ctx) (f : Memory → Memory) : (x.onMem f).out = x.out := rfl
@[simp] theorem Ctx.onMem_who (x : Ctx) (f : Memory → Memory) : (x.onMem f).who = x.who := rfl

/-! ### `Ctx.onFab` -/

@[simp] theorem Ctx.onFab_boot (x : Ctx) (f : Fabric → Fabric) : (x.onFab f).chip.boot = x.chip.boot := rfl
@[simp] theorem Ctx.onFab_bar (x : Ctx) (f : Fabric → Fabric) : (x.onFab f).chip.bar = x.chip.bar := rfl
@[simp] theorem Ctx.onFab_stew (x : Ctx) (f : Fabric → Fabric) : (x.onFab f).chip.stew = x.chip.stew := rfl
@[simp] theorem Ctx.onFab_config (x : Ctx) (f : Fabric → Fabric) : (x.onFab f).chip.config = x.chip.config := rfl
@[simp] theorem Ctx.onFab_serve (x : Ctx) (f : Fabric → Fabric) : (x.onFab f).chip.serve = x.chip.serve := rfl
@[simp] theorem Ctx.onFab_eng (x : Ctx) (f : Fabric → Fabric) : (x.onFab f).chip.eng = x.chip.eng := rfl
@[simp] theorem Ctx.onFab_mem (x : Ctx) (f : Fabric → Fabric) : (x.onFab f).chip.mem = x.chip.mem := rfl
@[simp] theorem Ctx.onFab_fab (x : Ctx) (f : Fabric → Fabric) : (x.onFab f).chip.fab = f x.chip.fab := rfl
@[simp] theorem Ctx.onFab_power (x : Ctx) (f : Fabric → Fabric) : (x.onFab f).chip.power = x.chip.power := rfl
@[simp] theorem Ctx.onFab_obs (x : Ctx) (f : Fabric → Fabric) : (x.onFab f).chip.obs = x.chip.obs := rfl
@[simp] theorem Ctx.onFab_ledger (x : Ctx) (f : Fabric → Fabric) : (x.onFab f).chip.ledger = x.chip.ledger := rfl
@[simp] theorem Ctx.onFab_c (x : Ctx) (f : Fabric → Fabric) : (x.onFab f).c = x.c := rfl
@[simp] theorem Ctx.onFab_now (x : Ctx) (f : Fabric → Fabric) : (x.onFab f).now = x.now := rfl
@[simp] theorem Ctx.onFab_free (x : Ctx) (f : Fabric → Fabric) : (x.onFab f).free = x.free := rfl
@[simp] theorem Ctx.onFab_out (x : Ctx) (f : Fabric → Fabric) : (x.onFab f).out = x.out := rfl
@[simp] theorem Ctx.onFab_who (x : Ctx) (f : Fabric → Fabric) : (x.onFab f).who = x.who := rfl

/-! ### `Ctx.onPower` -/

@[simp] theorem Ctx.onPower_boot (x : Ctx) (f : Power → Power) : (x.onPower f).chip.boot = x.chip.boot := rfl
@[simp] theorem Ctx.onPower_bar (x : Ctx) (f : Power → Power) : (x.onPower f).chip.bar = x.chip.bar := rfl
@[simp] theorem Ctx.onPower_stew (x : Ctx) (f : Power → Power) : (x.onPower f).chip.stew = x.chip.stew := rfl
@[simp] theorem Ctx.onPower_config (x : Ctx) (f : Power → Power) : (x.onPower f).chip.config = x.chip.config := rfl
@[simp] theorem Ctx.onPower_serve (x : Ctx) (f : Power → Power) : (x.onPower f).chip.serve = x.chip.serve := rfl
@[simp] theorem Ctx.onPower_eng (x : Ctx) (f : Power → Power) : (x.onPower f).chip.eng = x.chip.eng := rfl
@[simp] theorem Ctx.onPower_mem (x : Ctx) (f : Power → Power) : (x.onPower f).chip.mem = x.chip.mem := rfl
@[simp] theorem Ctx.onPower_fab (x : Ctx) (f : Power → Power) : (x.onPower f).chip.fab = x.chip.fab := rfl
@[simp] theorem Ctx.onPower_power (x : Ctx) (f : Power → Power) : (x.onPower f).chip.power = f x.chip.power := rfl
@[simp] theorem Ctx.onPower_obs (x : Ctx) (f : Power → Power) : (x.onPower f).chip.obs = x.chip.obs := rfl
@[simp] theorem Ctx.onPower_ledger (x : Ctx) (f : Power → Power) : (x.onPower f).chip.ledger = x.chip.ledger := rfl
@[simp] theorem Ctx.onPower_c (x : Ctx) (f : Power → Power) : (x.onPower f).c = x.c := rfl
@[simp] theorem Ctx.onPower_now (x : Ctx) (f : Power → Power) : (x.onPower f).now = x.now := rfl
@[simp] theorem Ctx.onPower_free (x : Ctx) (f : Power → Power) : (x.onPower f).free = x.free := rfl
@[simp] theorem Ctx.onPower_out (x : Ctx) (f : Power → Power) : (x.onPower f).out = x.out := rfl
@[simp] theorem Ctx.onPower_who (x : Ctx) (f : Power → Power) : (x.onPower f).who = x.who := rfl

/-! ### `Ctx.onObs` -/

@[simp] theorem Ctx.onObs_boot (x : Ctx) (f : Observe → Observe) : (x.onObs f).chip.boot = x.chip.boot := rfl
@[simp] theorem Ctx.onObs_bar (x : Ctx) (f : Observe → Observe) : (x.onObs f).chip.bar = x.chip.bar := rfl
@[simp] theorem Ctx.onObs_stew (x : Ctx) (f : Observe → Observe) : (x.onObs f).chip.stew = x.chip.stew := rfl
@[simp] theorem Ctx.onObs_config (x : Ctx) (f : Observe → Observe) : (x.onObs f).chip.config = x.chip.config := rfl
@[simp] theorem Ctx.onObs_serve (x : Ctx) (f : Observe → Observe) : (x.onObs f).chip.serve = x.chip.serve := rfl
@[simp] theorem Ctx.onObs_eng (x : Ctx) (f : Observe → Observe) : (x.onObs f).chip.eng = x.chip.eng := rfl
@[simp] theorem Ctx.onObs_mem (x : Ctx) (f : Observe → Observe) : (x.onObs f).chip.mem = x.chip.mem := rfl
@[simp] theorem Ctx.onObs_fab (x : Ctx) (f : Observe → Observe) : (x.onObs f).chip.fab = x.chip.fab := rfl
@[simp] theorem Ctx.onObs_power (x : Ctx) (f : Observe → Observe) : (x.onObs f).chip.power = x.chip.power := rfl
@[simp] theorem Ctx.onObs_obs (x : Ctx) (f : Observe → Observe) : (x.onObs f).chip.obs = f x.chip.obs := rfl
@[simp] theorem Ctx.onObs_ledger (x : Ctx) (f : Observe → Observe) : (x.onObs f).chip.ledger = x.chip.ledger := rfl
@[simp] theorem Ctx.onObs_c (x : Ctx) (f : Observe → Observe) : (x.onObs f).c = x.c := rfl
@[simp] theorem Ctx.onObs_now (x : Ctx) (f : Observe → Observe) : (x.onObs f).now = x.now := rfl
@[simp] theorem Ctx.onObs_free (x : Ctx) (f : Observe → Observe) : (x.onObs f).free = x.free := rfl
@[simp] theorem Ctx.onObs_out (x : Ctx) (f : Observe → Observe) : (x.onObs f).out = x.out := rfl
@[simp] theorem Ctx.onObs_who (x : Ctx) (f : Observe → Observe) : (x.onObs f).who = x.who := rfl

/-! ### `Ctx.onLedger` -/

@[simp] theorem Ctx.onLedger_boot (x : Ctx) (f : Ledger → Ledger) : (x.onLedger f).chip.boot = x.chip.boot := rfl
@[simp] theorem Ctx.onLedger_bar (x : Ctx) (f : Ledger → Ledger) : (x.onLedger f).chip.bar = x.chip.bar := rfl
@[simp] theorem Ctx.onLedger_stew (x : Ctx) (f : Ledger → Ledger) : (x.onLedger f).chip.stew = x.chip.stew := rfl
@[simp] theorem Ctx.onLedger_config (x : Ctx) (f : Ledger → Ledger) : (x.onLedger f).chip.config = x.chip.config := rfl
@[simp] theorem Ctx.onLedger_serve (x : Ctx) (f : Ledger → Ledger) : (x.onLedger f).chip.serve = x.chip.serve := rfl
@[simp] theorem Ctx.onLedger_eng (x : Ctx) (f : Ledger → Ledger) : (x.onLedger f).chip.eng = x.chip.eng := rfl
@[simp] theorem Ctx.onLedger_mem (x : Ctx) (f : Ledger → Ledger) : (x.onLedger f).chip.mem = x.chip.mem := rfl
@[simp] theorem Ctx.onLedger_fab (x : Ctx) (f : Ledger → Ledger) : (x.onLedger f).chip.fab = x.chip.fab := rfl
@[simp] theorem Ctx.onLedger_power (x : Ctx) (f : Ledger → Ledger) : (x.onLedger f).chip.power = x.chip.power := rfl
@[simp] theorem Ctx.onLedger_obs (x : Ctx) (f : Ledger → Ledger) : (x.onLedger f).chip.obs = x.chip.obs := rfl
@[simp] theorem Ctx.onLedger_ledger (x : Ctx) (f : Ledger → Ledger) : (x.onLedger f).chip.ledger = f x.chip.ledger := rfl
@[simp] theorem Ctx.onLedger_c (x : Ctx) (f : Ledger → Ledger) : (x.onLedger f).c = x.c := rfl
@[simp] theorem Ctx.onLedger_now (x : Ctx) (f : Ledger → Ledger) : (x.onLedger f).now = x.now := rfl
@[simp] theorem Ctx.onLedger_free (x : Ctx) (f : Ledger → Ledger) : (x.onLedger f).free = x.free := rfl
@[simp] theorem Ctx.onLedger_out (x : Ctx) (f : Ledger → Ledger) : (x.onLedger f).out = x.out := rfl
@[simp] theorem Ctx.onLedger_who (x : Ctx) (f : Ledger → Ledger) : (x.onLedger f).who = x.who := rfl

/-! ### `Ctx.bump`, `Ctx.workFor` and `Ctx.onBehalf` -/

@[simp] theorem Ctx.bump_chip (x : Ctx) : x.bump.chip = x.chip := rfl
@[simp] theorem Ctx.bump_c (x : Ctx) : x.bump.c = x.c := rfl
@[simp] theorem Ctx.bump_now (x : Ctx) : x.bump.now = x.now := rfl
@[simp] theorem Ctx.bump_out (x : Ctx) : x.bump.out = x.out := rfl
@[simp] theorem Ctx.bump_who (x : Ctx) : x.bump.who = x.who := rfl
@[simp] theorem Ctx.workFor_chip (x : Ctx) (u : User) : (x.workFor u).chip = x.chip := rfl
@[simp] theorem Ctx.workFor_c (x : Ctx) (u : User) : (x.workFor u).c = x.c := rfl
@[simp] theorem Ctx.workFor_now (x : Ctx) (u : User) : (x.workFor u).now = x.now := rfl
@[simp] theorem Ctx.workFor_free (x : Ctx) (u : User) : (x.workFor u).free = x.free := rfl
@[simp] theorem Ctx.workFor_out (x : Ctx) (u : User) : (x.workFor u).out = x.out := rfl
@[simp] theorem Ctx.workFor_who (x : Ctx) (u : User) : (x.workFor u).who = u := rfl
@[simp] theorem Ctx.onBehalf_chip (x : Ctx) (u : User) (f : Ctx → Ctx) : (x.onBehalf u f).chip = (f (x.workFor u)).chip := rfl
@[simp] theorem Ctx.onBehalf_c (x : Ctx) (u : User) (f : Ctx → Ctx) : (x.onBehalf u f).c = (f (x.workFor u)).c := rfl
@[simp] theorem Ctx.onBehalf_now (x : Ctx) (u : User) (f : Ctx → Ctx) : (x.onBehalf u f).now = (f (x.workFor u)).now := rfl
@[simp] theorem Ctx.onBehalf_free (x : Ctx) (u : User) (f : Ctx → Ctx) : (x.onBehalf u f).free = (f (x.workFor u)).free := rfl
@[simp] theorem Ctx.onBehalf_out (x : Ctx) (u : User) (f : Ctx → Ctx) : (x.onBehalf u f).out = (f (x.workFor u)).out := rfl
@[simp] theorem Ctx.onBehalf_who (x : Ctx) (u : User) (f : Ctx → Ctx) : (x.onBehalf u f).who = x.who := rfl

/-! ### Energy: only the ledger changes -/

@[simp] theorem Ctx.charge_keeps (x : Ctx) (rail fj : Nat) :
    (x.charge rail fj).chip.boot = x.chip.boot ∧ (x.charge rail fj).chip.bar = x.chip.bar ∧
    (x.charge rail fj).chip.stew = x.chip.stew ∧ (x.charge rail fj).chip.config = x.chip.config ∧
    (x.charge rail fj).chip.serve = x.chip.serve ∧ (x.charge rail fj).chip.eng = x.chip.eng ∧
    (x.charge rail fj).chip.mem = x.chip.mem ∧ (x.charge rail fj).chip.fab = x.chip.fab ∧
    (x.charge rail fj).chip.power = x.chip.power ∧ (x.charge rail fj).chip.obs = x.chip.obs ∧ (x.charge rail fj).c = x.c ∧
    (x.charge rail fj).now = x.now ∧ (x.charge rail fj).free = x.free ∧ (x.charge rail fj).out = x.out ∧
    (x.charge rail fj).who = x.who := by
  unfold Ctx.charge; split <;> simp

@[simp] theorem Ctx.pcieBytes_keeps (x : Ctx) (n : Nat) :
    (x.pcieBytes n).chip.boot = x.chip.boot ∧ (x.pcieBytes n).chip.bar = x.chip.bar ∧ (x.pcieBytes n).chip.stew = x.chip.stew ∧
    (x.pcieBytes n).chip.config = x.chip.config ∧ (x.pcieBytes n).chip.serve = x.chip.serve ∧
    (x.pcieBytes n).chip.eng = x.chip.eng ∧ (x.pcieBytes n).chip.mem = x.chip.mem ∧ (x.pcieBytes n).chip.fab = x.chip.fab ∧
    (x.pcieBytes n).chip.power = x.chip.power ∧ (x.pcieBytes n).chip.obs = x.chip.obs ∧ (x.pcieBytes n).c = x.c ∧
    (x.pcieBytes n).now = x.now ∧ (x.pcieBytes n).free = x.free ∧ (x.pcieBytes n).out = x.out ∧ (x.pcieBytes n).who = x.who := by
  unfold Ctx.pcieBytes; simp

@[simp] theorem Ctx.hbmBytes_keeps (x : Ctx) (n : Nat) :
    (x.hbmBytes n).chip.boot = x.chip.boot ∧ (x.hbmBytes n).chip.bar = x.chip.bar ∧ (x.hbmBytes n).chip.stew = x.chip.stew ∧
    (x.hbmBytes n).chip.config = x.chip.config ∧ (x.hbmBytes n).chip.serve = x.chip.serve ∧
    (x.hbmBytes n).chip.eng = x.chip.eng ∧ (x.hbmBytes n).chip.mem = x.chip.mem ∧ (x.hbmBytes n).chip.fab = x.chip.fab ∧
    (x.hbmBytes n).chip.power = x.chip.power ∧ (x.hbmBytes n).chip.obs = x.chip.obs ∧ (x.hbmBytes n).c = x.c ∧
    (x.hbmBytes n).now = x.now ∧ (x.hbmBytes n).free = x.free ∧ (x.hbmBytes n).out = x.out ∧ (x.hbmBytes n).who = x.who := by
  unfold Ctx.hbmBytes; simp

@[simp] theorem Ctx.sendEnergy_keeps (x : Ctx) (o : Out) :
    (x.sendEnergy o).chip.boot = x.chip.boot ∧ (x.sendEnergy o).chip.bar = x.chip.bar ∧
    (x.sendEnergy o).chip.stew = x.chip.stew ∧ (x.sendEnergy o).chip.config = x.chip.config ∧
    (x.sendEnergy o).chip.serve = x.chip.serve ∧ (x.sendEnergy o).chip.eng = x.chip.eng ∧
    (x.sendEnergy o).chip.mem = x.chip.mem ∧ (x.sendEnergy o).chip.fab = x.chip.fab ∧
    (x.sendEnergy o).chip.power = x.chip.power ∧ (x.sendEnergy o).chip.obs = x.chip.obs ∧ (x.sendEnergy o).c = x.c ∧
    (x.sendEnergy o).now = x.now ∧ (x.sendEnergy o).free = x.free ∧ (x.sendEnergy o).out = x.out ∧ (x.sendEnergy o).who = x.who := by
  unfold Ctx.sendEnergy; split <;> simp

/-! ### `Ctx.emit` -/

@[simp] theorem Ctx.emit_boot (x : Ctx) (o : Out) : (x.emit o).chip.boot = x.chip.boot := by simp [Ctx.emit]
@[simp] theorem Ctx.emit_bar (x : Ctx) (o : Out) : (x.emit o).chip.bar = x.chip.bar := by simp [Ctx.emit]
@[simp] theorem Ctx.emit_stew (x : Ctx) (o : Out) : (x.emit o).chip.stew = x.chip.stew := by simp [Ctx.emit]
@[simp] theorem Ctx.emit_config (x : Ctx) (o : Out) : (x.emit o).chip.config = x.chip.config := by simp [Ctx.emit]
@[simp] theorem Ctx.emit_serve (x : Ctx) (o : Out) : (x.emit o).chip.serve = x.chip.serve := by simp [Ctx.emit]
@[simp] theorem Ctx.emit_eng (x : Ctx) (o : Out) : (x.emit o).chip.eng = x.chip.eng := by simp [Ctx.emit]
@[simp] theorem Ctx.emit_mem (x : Ctx) (o : Out) : (x.emit o).chip.mem = x.chip.mem := by simp [Ctx.emit]
@[simp] theorem Ctx.emit_fab (x : Ctx) (o : Out) : (x.emit o).chip.fab = x.chip.fab := by simp [Ctx.emit]
@[simp] theorem Ctx.emit_power (x : Ctx) (o : Out) : (x.emit o).chip.power = x.chip.power := by simp [Ctx.emit]
@[simp] theorem Ctx.emit_obs (x : Ctx) (o : Out) : (x.emit o).chip.obs = x.chip.obs := by simp [Ctx.emit]
@[simp] theorem Ctx.emit_c (x : Ctx) (o : Out) : (x.emit o).c = x.c := by simp [Ctx.emit]
@[simp] theorem Ctx.emit_now (x : Ctx) (o : Out) : (x.emit o).now = x.now := by simp [Ctx.emit]
@[simp] theorem Ctx.emit_free (x : Ctx) (o : Out) : (x.emit o).free = x.free := by simp [Ctx.emit]
@[simp] theorem Ctx.emit_who (x : Ctx) (o : Out) : (x.emit o).who = x.who := by simp [Ctx.emit]
@[simp] theorem Ctx.emit_out (x : Ctx) (o : Out) : (x.emit o).out = x.out ++ [o] := by simp [Ctx.emit]

/-! ### `onChip` -/

@[simp] theorem onChip_nd (c : Fin 8) (f : Ctx → Ctx) (s : State) : (onChip c f s).nd = s.nd := rfl
@[simp] theorem onChip_now (c : Fin 8) (f : Ctx → Ctx) (s : State) : (onChip c f s).now = s.now := rfl
@[simp] theorem onChip_pending (c : Fin 8) (f : Ctx → Ctx) (s : State) : (onChip c f s).pending = s.pending := rfl
theorem onChip_out (c : Fin 8) (f : Ctx → Ctx) (s : State) :
    (onChip c f s).out = s.out ++ (f ⟨c, s.now, s.free, s.chips.get c, [], .none⟩).out := rfl
theorem onChip_ring (c : Fin 8) (f : Ctx → Ctx) (s : State) :
    (onChip c f s).ring = (f ⟨c, s.now, s.free, s.chips.get c, [], .none⟩).out.foldl ringSend s.ring := rfl

/-- Reading a position of the chips is plain indexing. -/
theorem chips_get (v : Vector Chip 8) (c : Fin 8) : v.get c = v[c.val] := rfl

theorem chips_set_same (v : Vector Chip 8) (c : Fin 8) (k : Chip) : (v.set c k).get c = k := by simp [chips_get]

theorem chips_set_other (v : Vector Chip 8) (c d : Fin 8) (k : Chip) (h : d ≠ c) : (v.set c k).get d = v.get d := by
  have : c.val ≠ d.val := fun e => h (Fin.ext e.symm)
  simp [chips_get, this]

/-- The chip that a command names is what its meaning makes of it. -/
theorem onChip_same (c : Fin 8) (f : Ctx → Ctx) (s : State) :
    (onChip c f s).chips.get c = (f ⟨c, s.now, s.free, s.chips.get c, [], .none⟩).chip := chips_set_same ..

/-- Every other chip stays as it was. -/
theorem onChip_other (c d : Fin 8) (f : Ctx → Ctx) (s : State) (h : d ≠ c) : (onChip c f s).chips.get d = s.chips.get d :=
  chips_set_other _ _ _ _ h

end Sys2Proof.Machine
end

