-- ==== Sys2Proof/Laws/FrameBase.lean ====
section
/-! SUPPORT. Frames through choices and folds: what every branch keeps, the whole keeps. -/
namespace Sys2Proof.Machine

@[simp] theorem Ctx.ite_boot (p : Prop) [Decidable p] (x y : Ctx) : (if p then x else y).chip.boot = if p then x.chip.boot else y.chip.boot := by split <;> rfl
@[simp] theorem Ctx.foldl_boot {α : Type} (g : Ctx → α → Ctx) (h : ∀ x a, (g x a).chip.boot = x.chip.boot) (l : List α) (x : Ctx) :
    (l.foldl g x).chip.boot = x.chip.boot := by
  induction l generalizing x with
  | nil => rfl
  | cons a r ih => rw [List.foldl_cons, ih, h]

@[simp] theorem Ctx.onlyIf_boot (p : Bool) (f : Ctx → Ctx) (x : Ctx) (h : (f x).chip.boot = x.chip.boot) : (onlyIf p f x).chip.boot = x.chip.boot := by
  unfold onlyIf; split <;> simp [h]

@[simp] theorem Ctx.ite_bar (p : Prop) [Decidable p] (x y : Ctx) : (if p then x else y).chip.bar = if p then x.chip.bar else y.chip.bar := by split <;> rfl
@[simp] theorem Ctx.foldl_bar {α : Type} (g : Ctx → α → Ctx) (h : ∀ x a, (g x a).chip.bar = x.chip.bar) (l : List α) (x : Ctx) :
    (l.foldl g x).chip.bar = x.chip.bar := by
  induction l generalizing x with
  | nil => rfl
  | cons a r ih => rw [List.foldl_cons, ih, h]

@[simp] theorem Ctx.onlyIf_bar (p : Bool) (f : Ctx → Ctx) (x : Ctx) (h : (f x).chip.bar = x.chip.bar) : (onlyIf p f x).chip.bar = x.chip.bar := by
  unfold onlyIf; split <;> simp [h]

@[simp] theorem Ctx.ite_stew (p : Prop) [Decidable p] (x y : Ctx) : (if p then x else y).chip.stew = if p then x.chip.stew else y.chip.stew := by split <;> rfl
@[simp] theorem Ctx.foldl_stew {α : Type} (g : Ctx → α → Ctx) (h : ∀ x a, (g x a).chip.stew = x.chip.stew) (l : List α) (x : Ctx) :
    (l.foldl g x).chip.stew = x.chip.stew := by
  induction l generalizing x with
  | nil => rfl
  | cons a r ih => rw [List.foldl_cons, ih, h]

@[simp] theorem Ctx.onlyIf_stew (p : Bool) (f : Ctx → Ctx) (x : Ctx) (h : (f x).chip.stew = x.chip.stew) : (onlyIf p f x).chip.stew = x.chip.stew := by
  unfold onlyIf; split <;> simp [h]

@[simp] theorem Ctx.ite_config (p : Prop) [Decidable p] (x y : Ctx) : (if p then x else y).chip.config = if p then x.chip.config else y.chip.config := by split <;> rfl
@[simp] theorem Ctx.foldl_config {α : Type} (g : Ctx → α → Ctx) (h : ∀ x a, (g x a).chip.config = x.chip.config) (l : List α) (x : Ctx) :
    (l.foldl g x).chip.config = x.chip.config := by
  induction l generalizing x with
  | nil => rfl
  | cons a r ih => rw [List.foldl_cons, ih, h]

@[simp] theorem Ctx.onlyIf_config (p : Bool) (f : Ctx → Ctx) (x : Ctx) (h : (f x).chip.config = x.chip.config) : (onlyIf p f x).chip.config = x.chip.config := by
  unfold onlyIf; split <;> simp [h]

@[simp] theorem Ctx.ite_serve (p : Prop) [Decidable p] (x y : Ctx) : (if p then x else y).chip.serve = if p then x.chip.serve else y.chip.serve := by split <;> rfl
@[simp] theorem Ctx.foldl_serve {α : Type} (g : Ctx → α → Ctx) (h : ∀ x a, (g x a).chip.serve = x.chip.serve) (l : List α) (x : Ctx) :
    (l.foldl g x).chip.serve = x.chip.serve := by
  induction l generalizing x with
  | nil => rfl
  | cons a r ih => rw [List.foldl_cons, ih, h]

@[simp] theorem Ctx.onlyIf_serve (p : Bool) (f : Ctx → Ctx) (x : Ctx) (h : (f x).chip.serve = x.chip.serve) : (onlyIf p f x).chip.serve = x.chip.serve := by
  unfold onlyIf; split <;> simp [h]

@[simp] theorem Ctx.ite_eng (p : Prop) [Decidable p] (x y : Ctx) : (if p then x else y).chip.eng = if p then x.chip.eng else y.chip.eng := by split <;> rfl
@[simp] theorem Ctx.foldl_eng {α : Type} (g : Ctx → α → Ctx) (h : ∀ x a, (g x a).chip.eng = x.chip.eng) (l : List α) (x : Ctx) :
    (l.foldl g x).chip.eng = x.chip.eng := by
  induction l generalizing x with
  | nil => rfl
  | cons a r ih => rw [List.foldl_cons, ih, h]

@[simp] theorem Ctx.onlyIf_eng (p : Bool) (f : Ctx → Ctx) (x : Ctx) (h : (f x).chip.eng = x.chip.eng) : (onlyIf p f x).chip.eng = x.chip.eng := by
  unfold onlyIf; split <;> simp [h]

@[simp] theorem Ctx.ite_mem (p : Prop) [Decidable p] (x y : Ctx) : (if p then x else y).chip.mem = if p then x.chip.mem else y.chip.mem := by split <;> rfl
@[simp] theorem Ctx.foldl_mem {α : Type} (g : Ctx → α → Ctx) (h : ∀ x a, (g x a).chip.mem = x.chip.mem) (l : List α) (x : Ctx) :
    (l.foldl g x).chip.mem = x.chip.mem := by
  induction l generalizing x with
  | nil => rfl
  | cons a r ih => rw [List.foldl_cons, ih, h]

@[simp] theorem Ctx.onlyIf_mem (p : Bool) (f : Ctx → Ctx) (x : Ctx) (h : (f x).chip.mem = x.chip.mem) : (onlyIf p f x).chip.mem = x.chip.mem := by
  unfold onlyIf; split <;> simp [h]

@[simp] theorem Ctx.ite_fab (p : Prop) [Decidable p] (x y : Ctx) : (if p then x else y).chip.fab = if p then x.chip.fab else y.chip.fab := by split <;> rfl
@[simp] theorem Ctx.foldl_fab {α : Type} (g : Ctx → α → Ctx) (h : ∀ x a, (g x a).chip.fab = x.chip.fab) (l : List α) (x : Ctx) :
    (l.foldl g x).chip.fab = x.chip.fab := by
  induction l generalizing x with
  | nil => rfl
  | cons a r ih => rw [List.foldl_cons, ih, h]

@[simp] theorem Ctx.onlyIf_fab (p : Bool) (f : Ctx → Ctx) (x : Ctx) (h : (f x).chip.fab = x.chip.fab) : (onlyIf p f x).chip.fab = x.chip.fab := by
  unfold onlyIf; split <;> simp [h]

@[simp] theorem Ctx.ite_power (p : Prop) [Decidable p] (x y : Ctx) : (if p then x else y).chip.power = if p then x.chip.power else y.chip.power := by split <;> rfl
@[simp] theorem Ctx.foldl_power {α : Type} (g : Ctx → α → Ctx) (h : ∀ x a, (g x a).chip.power = x.chip.power) (l : List α) (x : Ctx) :
    (l.foldl g x).chip.power = x.chip.power := by
  induction l generalizing x with
  | nil => rfl
  | cons a r ih => rw [List.foldl_cons, ih, h]

@[simp] theorem Ctx.onlyIf_power (p : Bool) (f : Ctx → Ctx) (x : Ctx) (h : (f x).chip.power = x.chip.power) : (onlyIf p f x).chip.power = x.chip.power := by
  unfold onlyIf; split <;> simp [h]

@[simp] theorem Ctx.ite_obs (p : Prop) [Decidable p] (x y : Ctx) : (if p then x else y).chip.obs = if p then x.chip.obs else y.chip.obs := by split <;> rfl
@[simp] theorem Ctx.foldl_obs {α : Type} (g : Ctx → α → Ctx) (h : ∀ x a, (g x a).chip.obs = x.chip.obs) (l : List α) (x : Ctx) :
    (l.foldl g x).chip.obs = x.chip.obs := by
  induction l generalizing x with
  | nil => rfl
  | cons a r ih => rw [List.foldl_cons, ih, h]

@[simp] theorem Ctx.onlyIf_obs (p : Bool) (f : Ctx → Ctx) (x : Ctx) (h : (f x).chip.obs = x.chip.obs) : (onlyIf p f x).chip.obs = x.chip.obs := by
  unfold onlyIf; split <;> simp [h]

@[simp] theorem Ctx.ite_ledger (p : Prop) [Decidable p] (x y : Ctx) : (if p then x else y).chip.ledger = if p then x.chip.ledger else y.chip.ledger := by split <;> rfl
@[simp] theorem Ctx.foldl_ledger {α : Type} (g : Ctx → α → Ctx) (h : ∀ x a, (g x a).chip.ledger = x.chip.ledger) (l : List α) (x : Ctx) :
    (l.foldl g x).chip.ledger = x.chip.ledger := by
  induction l generalizing x with
  | nil => rfl
  | cons a r ih => rw [List.foldl_cons, ih, h]

@[simp] theorem Ctx.onlyIf_ledger (p : Bool) (f : Ctx → Ctx) (x : Ctx) (h : (f x).chip.ledger = x.chip.ledger) : (onlyIf p f x).chip.ledger = x.chip.ledger := by
  unfold onlyIf; split <;> simp [h]

@[simp] theorem Ctx.ite_c (p : Prop) [Decidable p] (x y : Ctx) : (if p then x else y).c = if p then x.c else y.c := by split <;> rfl
@[simp] theorem Ctx.foldl_c {α : Type} (g : Ctx → α → Ctx) (h : ∀ x a, (g x a).c = x.c) (l : List α) (x : Ctx) :
    (l.foldl g x).c = x.c := by
  induction l generalizing x with
  | nil => rfl
  | cons a r ih => rw [List.foldl_cons, ih, h]

@[simp] theorem Ctx.onlyIf_c (p : Bool) (f : Ctx → Ctx) (x : Ctx) (h : (f x).c = x.c) : (onlyIf p f x).c = x.c := by
  unfold onlyIf; split <;> simp [h]

@[simp] theorem Ctx.ite_now (p : Prop) [Decidable p] (x y : Ctx) : (if p then x else y).now = if p then x.now else y.now := by split <;> rfl
@[simp] theorem Ctx.foldl_now {α : Type} (g : Ctx → α → Ctx) (h : ∀ x a, (g x a).now = x.now) (l : List α) (x : Ctx) :
    (l.foldl g x).now = x.now := by
  induction l generalizing x with
  | nil => rfl
  | cons a r ih => rw [List.foldl_cons, ih, h]

@[simp] theorem Ctx.onlyIf_now (p : Bool) (f : Ctx → Ctx) (x : Ctx) (h : (f x).now = x.now) : (onlyIf p f x).now = x.now := by
  unfold onlyIf; split <;> simp [h]

@[simp] theorem Ctx.pair_boot {α β : Type} (g : Ctx × β → α → Ctx × β) (h : ∀ a e, (g a e).1.chip.boot = a.1.chip.boot) (l : List α)
    (a : Ctx × β) : (l.foldl g a).1.chip.boot = a.1.chip.boot := by
  induction l generalizing a with
  | nil => rfl
  | cons e r ih => rw [List.foldl_cons, ih, h]

@[simp] theorem Ctx.pair_bar {α β : Type} (g : Ctx × β → α → Ctx × β) (h : ∀ a e, (g a e).1.chip.bar = a.1.chip.bar) (l : List α)
    (a : Ctx × β) : (l.foldl g a).1.chip.bar = a.1.chip.bar := by
  induction l generalizing a with
  | nil => rfl
  | cons e r ih => rw [List.foldl_cons, ih, h]

@[simp] theorem Ctx.pair_stew {α β : Type} (g : Ctx × β → α → Ctx × β) (h : ∀ a e, (g a e).1.chip.stew = a.1.chip.stew) (l : List α)
    (a : Ctx × β) : (l.foldl g a).1.chip.stew = a.1.chip.stew := by
  induction l generalizing a with
  | nil => rfl
  | cons e r ih => rw [List.foldl_cons, ih, h]

@[simp] theorem Ctx.pair_config {α β : Type} (g : Ctx × β → α → Ctx × β) (h : ∀ a e, (g a e).1.chip.config = a.1.chip.config) (l : List α)
    (a : Ctx × β) : (l.foldl g a).1.chip.config = a.1.chip.config := by
  induction l generalizing a with
  | nil => rfl
  | cons e r ih => rw [List.foldl_cons, ih, h]

@[simp] theorem Ctx.pair_serve {α β : Type} (g : Ctx × β → α → Ctx × β) (h : ∀ a e, (g a e).1.chip.serve = a.1.chip.serve) (l : List α)
    (a : Ctx × β) : (l.foldl g a).1.chip.serve = a.1.chip.serve := by
  induction l generalizing a with
  | nil => rfl
  | cons e r ih => rw [List.foldl_cons, ih, h]

@[simp] theorem Ctx.pair_eng {α β : Type} (g : Ctx × β → α → Ctx × β) (h : ∀ a e, (g a e).1.chip.eng = a.1.chip.eng) (l : List α)
    (a : Ctx × β) : (l.foldl g a).1.chip.eng = a.1.chip.eng := by
  induction l generalizing a with
  | nil => rfl
  | cons e r ih => rw [List.foldl_cons, ih, h]

@[simp] theorem Ctx.pair_mem {α β : Type} (g : Ctx × β → α → Ctx × β) (h : ∀ a e, (g a e).1.chip.mem = a.1.chip.mem) (l : List α)
    (a : Ctx × β) : (l.foldl g a).1.chip.mem = a.1.chip.mem := by
  induction l generalizing a with
  | nil => rfl
  | cons e r ih => rw [List.foldl_cons, ih, h]

@[simp] theorem Ctx.pair_fab {α β : Type} (g : Ctx × β → α → Ctx × β) (h : ∀ a e, (g a e).1.chip.fab = a.1.chip.fab) (l : List α)
    (a : Ctx × β) : (l.foldl g a).1.chip.fab = a.1.chip.fab := by
  induction l generalizing a with
  | nil => rfl
  | cons e r ih => rw [List.foldl_cons, ih, h]

@[simp] theorem Ctx.pair_power {α β : Type} (g : Ctx × β → α → Ctx × β) (h : ∀ a e, (g a e).1.chip.power = a.1.chip.power) (l : List α)
    (a : Ctx × β) : (l.foldl g a).1.chip.power = a.1.chip.power := by
  induction l generalizing a with
  | nil => rfl
  | cons e r ih => rw [List.foldl_cons, ih, h]

@[simp] theorem Ctx.pair_obs {α β : Type} (g : Ctx × β → α → Ctx × β) (h : ∀ a e, (g a e).1.chip.obs = a.1.chip.obs) (l : List α)
    (a : Ctx × β) : (l.foldl g a).1.chip.obs = a.1.chip.obs := by
  induction l generalizing a with
  | nil => rfl
  | cons e r ih => rw [List.foldl_cons, ih, h]

@[simp] theorem Ctx.pair_ledger {α β : Type} (g : Ctx × β → α → Ctx × β) (h : ∀ a e, (g a e).1.chip.ledger = a.1.chip.ledger) (l : List α)
    (a : Ctx × β) : (l.foldl g a).1.chip.ledger = a.1.chip.ledger := by
  induction l generalizing a with
  | nil => rfl
  | cons e r ih => rw [List.foldl_cons, ih, h]

@[simp] theorem Ctx.pair_c {α β : Type} (g : Ctx × β → α → Ctx × β) (h : ∀ a e, (g a e).1.c = a.1.c) (l : List α)
    (a : Ctx × β) : (l.foldl g a).1.c = a.1.c := by
  induction l generalizing a with
  | nil => rfl
  | cons e r ih => rw [List.foldl_cons, ih, h]

@[simp] theorem Ctx.pair_now {α β : Type} (g : Ctx × β → α → Ctx × β) (h : ∀ a e, (g a e).1.now = a.1.now) (l : List α)
    (a : Ctx × β) : (l.foldl g a).1.now = a.1.now := by
  induction l generalizing a with
  | nil => rfl
  | cons e r ih => rw [List.foldl_cons, ih, h]

end Sys2Proof.Machine
end

