-- ==== Sys2Proof/Laws/FrameOps.lean ====
section
/-! SUPPORT. What the operations of Machine/Ops.lean leave unchanged of a chip. -/
namespace Sys2Proof.Machine

@[simp] theorem Ctx.setQp_keeps (x : Ctx) (q : Nat) (p : QPair) :
    (x.setQp q p).chip.boot = x.chip.boot ∧ (x.setQp q p).chip.bar = x.chip.bar ∧ (x.setQp q p).chip.config = x.chip.config ∧
    (x.setQp q p).chip.serve = x.chip.serve ∧ (x.setQp q p).chip.eng = x.chip.eng ∧ (x.setQp q p).chip.mem = x.chip.mem ∧
    (x.setQp q p).chip.fab = x.chip.fab ∧ (x.setQp q p).chip.power = x.chip.power ∧ (x.setQp q p).chip.obs = x.chip.obs ∧
    (x.setQp q p).chip.ledger = x.chip.ledger ∧ (x.setQp q p).c = x.c ∧ (x.setQp q p).now = x.now := by
  unfold Ctx.setQp; simp

@[simp] theorem Ctx.poisonedTlp_keeps (x : Ctx) :
    (x.poisonedTlp).chip.boot = x.chip.boot ∧ (x.poisonedTlp).chip.bar = x.chip.bar ∧ (x.poisonedTlp).chip.stew = x.chip.stew ∧
    (x.poisonedTlp).chip.config = x.chip.config ∧ (x.poisonedTlp).chip.serve = x.chip.serve ∧
    (x.poisonedTlp).chip.eng = x.chip.eng ∧ (x.poisonedTlp).chip.mem = x.chip.mem ∧ (x.poisonedTlp).chip.fab = x.chip.fab ∧
    (x.poisonedTlp).chip.power = x.chip.power ∧ (x.poisonedTlp).chip.obs = x.chip.obs ∧ (x.poisonedTlp).c = x.c ∧
    (x.poisonedTlp).now = x.now := by
  unfold Ctx.poisonedTlp; simp

@[simp] theorem Ctx.readFails_keeps (x : Ctx) :
    (x.readFails).chip.boot = x.chip.boot ∧ (x.readFails).chip.bar = x.chip.bar ∧ (x.readFails).chip.stew = x.chip.stew ∧
    (x.readFails).chip.config = x.chip.config ∧ (x.readFails).chip.serve = x.chip.serve ∧
    (x.readFails).chip.eng = x.chip.eng ∧ (x.readFails).chip.mem = x.chip.mem ∧ (x.readFails).chip.fab = x.chip.fab ∧
    (x.readFails).chip.power = x.chip.power ∧ (x.readFails).chip.obs = x.chip.obs ∧ (x.readFails).c = x.c ∧
    (x.readFails).now = x.now := by
  unfold Ctx.readFails; dsimp only; split <;> simp

@[simp] theorem Ctx.hostError_keeps (x : Ctx) (e : SrcErr) :
    (x.hostError e).chip.boot = x.chip.boot ∧ (x.hostError e).chip.bar = x.chip.bar ∧ (x.hostError e).chip.stew = x.chip.stew ∧
    (x.hostError e).chip.config = x.chip.config ∧ (x.hostError e).chip.serve = x.chip.serve ∧
    (x.hostError e).chip.eng = x.chip.eng ∧ (x.hostError e).chip.mem = x.chip.mem ∧ (x.hostError e).chip.fab = x.chip.fab ∧
    (x.hostError e).chip.power = x.chip.power ∧ (x.hostError e).chip.obs = x.chip.obs ∧ (x.hostError e).c = x.c ∧
    (x.hostError e).now = x.now := by
  unfold Ctx.hostError; split <;> simp

@[simp] theorem Ctx.postWrite_keeps (x : Ctx) (relaxed : Bool) (addr : Nat) (data : Bytes) :
    (x.postWrite relaxed addr data).chip.boot = x.chip.boot ∧ (x.postWrite relaxed addr data).chip.bar = x.chip.bar ∧
    (x.postWrite relaxed addr data).chip.stew = x.chip.stew ∧ (x.postWrite relaxed addr data).chip.config = x.chip.config ∧
    (x.postWrite relaxed addr data).chip.serve = x.chip.serve ∧ (x.postWrite relaxed addr data).chip.eng = x.chip.eng ∧
    (x.postWrite relaxed addr data).chip.mem = x.chip.mem ∧ (x.postWrite relaxed addr data).chip.fab = x.chip.fab ∧
    (x.postWrite relaxed addr data).chip.power = x.chip.power ∧ (x.postWrite relaxed addr data).chip.obs = x.chip.obs ∧
    (x.postWrite relaxed addr data).c = x.c ∧ (x.postWrite relaxed addr data).now = x.now := by
  unfold Ctx.postWrite; simp

@[simp] theorem Ctx.hostWrite_keeps (x : Ctx) (addr : Nat) (data : Bytes) :
    (x.hostWrite addr data).chip.boot = x.chip.boot ∧ (x.hostWrite addr data).chip.bar = x.chip.bar ∧
    (x.hostWrite addr data).chip.stew = x.chip.stew ∧ (x.hostWrite addr data).chip.config = x.chip.config ∧
    (x.hostWrite addr data).chip.serve = x.chip.serve ∧ (x.hostWrite addr data).chip.eng = x.chip.eng ∧
    (x.hostWrite addr data).chip.mem = x.chip.mem ∧ (x.hostWrite addr data).chip.fab = x.chip.fab ∧
    (x.hostWrite addr data).chip.power = x.chip.power ∧ (x.hostWrite addr data).chip.obs = x.chip.obs ∧
    (x.hostWrite addr data).c = x.c ∧ (x.hostWrite addr data).now = x.now := by
  unfold Ctx.hostWrite; simp

@[simp] theorem Ctx.resultWrite_keeps (x : Ctx) (addr : Nat) (data : Bytes) :
    (x.resultWrite addr data).chip.boot = x.chip.boot ∧ (x.resultWrite addr data).chip.bar = x.chip.bar ∧
    (x.resultWrite addr data).chip.stew = x.chip.stew ∧ (x.resultWrite addr data).chip.config = x.chip.config ∧
    (x.resultWrite addr data).chip.serve = x.chip.serve ∧ (x.resultWrite addr data).chip.eng = x.chip.eng ∧
    (x.resultWrite addr data).chip.mem = x.chip.mem ∧ (x.resultWrite addr data).chip.fab = x.chip.fab ∧
    (x.resultWrite addr data).chip.power = x.chip.power ∧ (x.resultWrite addr data).chip.obs = x.chip.obs ∧
    (x.resultWrite addr data).c = x.c ∧ (x.resultWrite addr data).now = x.now := by
  unfold Ctx.resultWrite; simp

@[simp] theorem Ctx.count_keeps (x : Ctx) (block : Nat) (inst : Nat) (val : Nat) (n : Nat) :
    (x.count block inst val n).chip.boot = x.chip.boot ∧ (x.count block inst val n).chip.bar = x.chip.bar ∧
    (x.count block inst val n).chip.stew = x.chip.stew ∧ (x.count block inst val n).chip.config = x.chip.config ∧
    (x.count block inst val n).chip.serve = x.chip.serve ∧ (x.count block inst val n).chip.eng = x.chip.eng ∧
    (x.count block inst val n).chip.mem = x.chip.mem ∧ (x.count block inst val n).chip.fab = x.chip.fab ∧
    (x.count block inst val n).chip.power = x.chip.power ∧ (x.count block inst val n).chip.ledger = x.chip.ledger ∧
    (x.count block inst val n).c = x.c ∧ (x.count block inst val n).now = x.now := by
  unfold Ctx.count; simp

@[simp] theorem Ctx.counts_keeps (x : Ctx) (l : List (Nat × Nat × Nat × Nat)) :
    (x.counts l).chip.boot = x.chip.boot ∧ (x.counts l).chip.bar = x.chip.bar ∧ (x.counts l).chip.stew = x.chip.stew ∧
    (x.counts l).chip.config = x.chip.config ∧ (x.counts l).chip.serve = x.chip.serve ∧ (x.counts l).chip.eng = x.chip.eng ∧
    (x.counts l).chip.mem = x.chip.mem ∧ (x.counts l).chip.fab = x.chip.fab ∧ (x.counts l).chip.power = x.chip.power ∧
    (x.counts l).chip.ledger = x.chip.ledger ∧ (x.counts l).c = x.c ∧ (x.counts l).now = x.now := by
  unfold Ctx.counts; simp

@[simp] theorem Ctx.queueAdd_keeps (x : Ctx) (k : Nat) (n : Nat) :
    (x.queueAdd k n).chip.boot = x.chip.boot ∧ (x.queueAdd k n).chip.bar = x.chip.bar ∧
    (x.queueAdd k n).chip.stew = x.chip.stew ∧ (x.queueAdd k n).chip.config = x.chip.config ∧
    (x.queueAdd k n).chip.serve = x.chip.serve ∧ (x.queueAdd k n).chip.eng = x.chip.eng ∧
    (x.queueAdd k n).chip.mem = x.chip.mem ∧ (x.queueAdd k n).chip.fab = x.chip.fab ∧
    (x.queueAdd k n).chip.power = x.chip.power ∧ (x.queueAdd k n).chip.ledger = x.chip.ledger ∧ (x.queueAdd k n).c = x.c ∧
    (x.queueAdd k n).now = x.now := by
  unfold Ctx.queueAdd; simp

@[simp] theorem Ctx.queueIn_keeps (x : Ctx) (k : Nat) (n : Nat) :
    (x.queueIn k n).chip.boot = x.chip.boot ∧ (x.queueIn k n).chip.bar = x.chip.bar ∧ (x.queueIn k n).chip.stew = x.chip.stew ∧
    (x.queueIn k n).chip.config = x.chip.config ∧ (x.queueIn k n).chip.serve = x.chip.serve ∧
    (x.queueIn k n).chip.eng = x.chip.eng ∧ (x.queueIn k n).chip.mem = x.chip.mem ∧ (x.queueIn k n).chip.fab = x.chip.fab ∧
    (x.queueIn k n).chip.power = x.chip.power ∧ (x.queueIn k n).chip.ledger = x.chip.ledger ∧ (x.queueIn k n).c = x.c ∧
    (x.queueIn k n).now = x.now := by
  unfold Ctx.queueIn; simp

@[simp] theorem Ctx.queueOut_keeps (x : Ctx) (k : Nat) (n : Nat) :
    (x.queueOut k n).chip.boot = x.chip.boot ∧ (x.queueOut k n).chip.bar = x.chip.bar ∧
    (x.queueOut k n).chip.stew = x.chip.stew ∧ (x.queueOut k n).chip.config = x.chip.config ∧
    (x.queueOut k n).chip.serve = x.chip.serve ∧ (x.queueOut k n).chip.eng = x.chip.eng ∧
    (x.queueOut k n).chip.mem = x.chip.mem ∧ (x.queueOut k n).chip.fab = x.chip.fab ∧
    (x.queueOut k n).chip.power = x.chip.power ∧ (x.queueOut k n).chip.ledger = x.chip.ledger ∧ (x.queueOut k n).c = x.c ∧
    (x.queueOut k n).now = x.now := by
  unfold Ctx.queueOut; simp

@[simp] theorem Ctx.crossDie_keeps (x : Ctx) (d : Nat) (dir : Nat) (n : Nat) :
    (x.crossDie d dir n).chip.boot = x.chip.boot ∧ (x.crossDie d dir n).chip.bar = x.chip.bar ∧
    (x.crossDie d dir n).chip.stew = x.chip.stew ∧ (x.crossDie d dir n).chip.config = x.chip.config ∧
    (x.crossDie d dir n).chip.serve = x.chip.serve ∧ (x.crossDie d dir n).chip.eng = x.chip.eng ∧
    (x.crossDie d dir n).chip.mem = x.chip.mem ∧ (x.crossDie d dir n).chip.fab = x.chip.fab ∧
    (x.crossDie d dir n).chip.power = x.chip.power ∧ (x.crossDie d dir n).chip.ledger = x.chip.ledger ∧
    (x.crossDie d dir n).c = x.c ∧ (x.crossDie d dir n).now = x.now := by
  unfold Ctx.crossDie; simp

@[simp] theorem Ctx.traceRaw_keeps (x : Ctx) (source : Nat) (rec : Bytes) :
    (x.traceRaw source rec).chip.boot = x.chip.boot ∧ (x.traceRaw source rec).chip.bar = x.chip.bar ∧
    (x.traceRaw source rec).chip.stew = x.chip.stew ∧ (x.traceRaw source rec).chip.config = x.chip.config ∧
    (x.traceRaw source rec).chip.serve = x.chip.serve ∧ (x.traceRaw source rec).chip.eng = x.chip.eng ∧
    (x.traceRaw source rec).chip.mem = x.chip.mem ∧ (x.traceRaw source rec).chip.fab = x.chip.fab ∧
    (x.traceRaw source rec).chip.power = x.chip.power ∧ (x.traceRaw source rec).chip.ledger = x.chip.ledger ∧
    (x.traceRaw source rec).c = x.c ∧ (x.traceRaw source rec).now = x.now := by
  unfold Ctx.traceRaw; simp

@[simp] theorem Ctx.trace_keeps (x : Ctx) (type : Nat) (source : Nat) (super : Option Nat) (stream : Option Nat) (code : Nat) (flags : Nat) (data0 : Nat) (data1 : Nat) :
    (x.trace type source super stream code flags data0 data1).chip.boot = x.chip.boot ∧
    (x.trace type source super stream code flags data0 data1).chip.bar = x.chip.bar ∧
    (x.trace type source super stream code flags data0 data1).chip.stew = x.chip.stew ∧
    (x.trace type source super stream code flags data0 data1).chip.config = x.chip.config ∧
    (x.trace type source super stream code flags data0 data1).chip.serve = x.chip.serve ∧
    (x.trace type source super stream code flags data0 data1).chip.eng = x.chip.eng ∧
    (x.trace type source super stream code flags data0 data1).chip.mem = x.chip.mem ∧
    (x.trace type source super stream code flags data0 data1).chip.fab = x.chip.fab ∧
    (x.trace type source super stream code flags data0 data1).chip.power = x.chip.power ∧
    (x.trace type source super stream code flags data0 data1).chip.ledger = x.chip.ledger ∧
    (x.trace type source super stream code flags data0 data1).c = x.c ∧
    (x.trace type source super stream code flags data0 data1).now = x.now := by
  unfold Ctx.trace; simp

@[simp] theorem Ctx.ras_keeps (x : Ctx) (cls : Nat) (unit : Nat) (index : Nat) (code : Nat) (super : Option Nat) (addr : Nat) (detail : Nat) :
    (x.ras cls unit index code super addr detail).chip.boot = x.chip.boot ∧
    (x.ras cls unit index code super addr detail).chip.bar = x.chip.bar ∧
    (x.ras cls unit index code super addr detail).chip.stew = x.chip.stew ∧
    (x.ras cls unit index code super addr detail).chip.config = x.chip.config ∧
    (x.ras cls unit index code super addr detail).chip.serve = x.chip.serve ∧
    (x.ras cls unit index code super addr detail).chip.eng = x.chip.eng ∧
    (x.ras cls unit index code super addr detail).chip.mem = x.chip.mem ∧
    (x.ras cls unit index code super addr detail).chip.fab = x.chip.fab ∧
    (x.ras cls unit index code super addr detail).chip.power = x.chip.power ∧
    (x.ras cls unit index code super addr detail).chip.ledger = x.chip.ledger ∧
    (x.ras cls unit index code super addr detail).c = x.c ∧ (x.ras cls unit index code super addr detail).now = x.now := by
  unfold Ctx.ras; simp

@[simp] theorem Ctx.raise_keeps (x : Ctx) (v : Nat) :
    (x.raise v).chip.boot = x.chip.boot ∧ (x.raise v).chip.stew = x.chip.stew ∧ (x.raise v).chip.config = x.chip.config ∧
    (x.raise v).chip.serve = x.chip.serve ∧ (x.raise v).chip.eng = x.chip.eng ∧ (x.raise v).chip.mem = x.chip.mem ∧
    (x.raise v).chip.fab = x.chip.fab ∧ (x.raise v).chip.power = x.chip.power ∧ (x.raise v).chip.obs = x.chip.obs ∧
    (x.raise v).c = x.c ∧ (x.raise v).now = x.now := by
  unfold Ctx.raise; simp

@[simp] theorem Ctx.writeEntry_keeps (x : Ctx) (k : Cpl) :
    (x.writeEntry k).chip.boot = x.chip.boot ∧ (x.writeEntry k).chip.bar = x.chip.bar ∧
    (x.writeEntry k).chip.config = x.chip.config ∧ (x.writeEntry k).chip.serve = x.chip.serve ∧
    (x.writeEntry k).chip.eng = x.chip.eng ∧ (x.writeEntry k).chip.mem = x.chip.mem ∧ (x.writeEntry k).chip.fab = x.chip.fab ∧
    (x.writeEntry k).chip.power = x.chip.power ∧ (x.writeEntry k).chip.obs = x.chip.obs ∧ (x.writeEntry k).c = x.c ∧
    (x.writeEntry k).now = x.now := by
  unfold Ctx.writeEntry; simp

@[simp] theorem Ctx.signal_keeps (x : Ctx) (q : Nat) (quiet : Bool) :
    (x.signal q quiet).chip.boot = x.chip.boot ∧ (x.signal q quiet).chip.config = x.chip.config ∧
    (x.signal q quiet).chip.serve = x.chip.serve ∧ (x.signal q quiet).chip.eng = x.chip.eng ∧
    (x.signal q quiet).chip.mem = x.chip.mem ∧ (x.signal q quiet).chip.fab = x.chip.fab ∧
    (x.signal q quiet).chip.power = x.chip.power ∧ (x.signal q quiet).chip.obs = x.chip.obs ∧ (x.signal q quiet).c = x.c ∧
    (x.signal q quiet).now = x.now := by
  unfold Ctx.signal; simp

@[simp] theorem Ctx.post_keeps (x : Ctx) (k : Cpl) :
    (x.post k).chip.boot = x.chip.boot ∧ (x.post k).chip.config = x.chip.config ∧ (x.post k).chip.serve = x.chip.serve ∧
    (x.post k).chip.eng = x.chip.eng ∧ (x.post k).chip.mem = x.chip.mem ∧ (x.post k).chip.fab = x.chip.fab ∧
    (x.post k).chip.power = x.chip.power ∧ (x.post k).chip.obs = x.chip.obs ∧ (x.post k).c = x.c ∧ (x.post k).now = x.now := by
  unfold Ctx.post; simp

@[simp] theorem Ctx.postEvent_keeps (x : Ctx) (e : EvRec) :
    (x.postEvent e).chip.boot = x.chip.boot ∧ (x.postEvent e).chip.config = x.chip.config ∧
    (x.postEvent e).chip.serve = x.chip.serve ∧ (x.postEvent e).chip.eng = x.chip.eng ∧ (x.postEvent e).chip.mem = x.chip.mem ∧
    (x.postEvent e).chip.fab = x.chip.fab ∧ (x.postEvent e).chip.power = x.chip.power ∧ (x.postEvent e).c = x.c ∧
    (x.postEvent e).now = x.now := by
  unfold Ctx.postEvent; simp

@[simp] theorem Ctx.postEvents_keeps (x : Ctx) :
    (x.postEvents).chip.boot = x.chip.boot ∧ (x.postEvents).chip.config = x.chip.config ∧
    (x.postEvents).chip.serve = x.chip.serve ∧ (x.postEvents).chip.eng = x.chip.eng ∧ (x.postEvents).chip.mem = x.chip.mem ∧
    (x.postEvents).chip.fab = x.chip.fab ∧ (x.postEvents).chip.power = x.chip.power ∧ (x.postEvents).c = x.c ∧
    (x.postEvents).now = x.now := by
  unfold Ctx.postEvents; simp

@[simp] theorem Ctx.event_keeps (x : Ctx) (code : Nat) (source : Nat) (detail : Nat) :
    (x.event code source detail).chip.boot = x.chip.boot ∧ (x.event code source detail).chip.config = x.chip.config ∧
    (x.event code source detail).chip.serve = x.chip.serve ∧ (x.event code source detail).chip.eng = x.chip.eng ∧
    (x.event code source detail).chip.mem = x.chip.mem ∧ (x.event code source detail).chip.fab = x.chip.fab ∧
    (x.event code source detail).chip.power = x.chip.power ∧ (x.event code source detail).c = x.c ∧
    (x.event code source detail).now = x.now := by
  unfold Ctx.event; dsimp only; (repeat' split) <;> simp

@[simp] theorem Ctx.dropCmd_keeps (x : Ctx) (id : Nat) :
    (x.dropCmd id).chip.boot = x.chip.boot ∧ (x.dropCmd id).chip.bar = x.chip.bar ∧
    (x.dropCmd id).chip.config = x.chip.config ∧ (x.dropCmd id).chip.serve = x.chip.serve ∧
    (x.dropCmd id).chip.eng = x.chip.eng ∧ (x.dropCmd id).chip.mem = x.chip.mem ∧ (x.dropCmd id).chip.fab = x.chip.fab ∧
    (x.dropCmd id).chip.power = x.chip.power ∧ (x.dropCmd id).chip.obs = x.chip.obs ∧
    (x.dropCmd id).chip.ledger = x.chip.ledger ∧ (x.dropCmd id).c = x.c ∧ (x.dropCmd id).now = x.now := by
  unfold Ctx.dropCmd; simp

@[simp] theorem Ctx.setPhase_keeps (x : Ctx) (id : Nat) (ph : CmdPhase) :
    (x.setPhase id ph).chip.boot = x.chip.boot ∧ (x.setPhase id ph).chip.bar = x.chip.bar ∧
    (x.setPhase id ph).chip.config = x.chip.config ∧ (x.setPhase id ph).chip.serve = x.chip.serve ∧
    (x.setPhase id ph).chip.eng = x.chip.eng ∧ (x.setPhase id ph).chip.mem = x.chip.mem ∧
    (x.setPhase id ph).chip.fab = x.chip.fab ∧ (x.setPhase id ph).chip.power = x.chip.power ∧
    (x.setPhase id ph).chip.obs = x.chip.obs ∧ (x.setPhase id ph).chip.ledger = x.chip.ledger ∧ (x.setPhase id ph).c = x.c ∧
    (x.setPhase id ph).now = x.now := by
  unfold Ctx.setPhase; simp

@[simp] theorem Ctx.logStatus_keeps (x : Ctx) (k : Cmd) (status : Nat) (r0 : Nat) (r1 : Nat) :
    (x.logStatus k status r0 r1).chip.boot = x.chip.boot ∧ (x.logStatus k status r0 r1).chip.bar = x.chip.bar ∧
    (x.logStatus k status r0 r1).chip.stew = x.chip.stew ∧ (x.logStatus k status r0 r1).chip.config = x.chip.config ∧
    (x.logStatus k status r0 r1).chip.serve = x.chip.serve ∧ (x.logStatus k status r0 r1).chip.eng = x.chip.eng ∧
    (x.logStatus k status r0 r1).chip.mem = x.chip.mem ∧ (x.logStatus k status r0 r1).chip.fab = x.chip.fab ∧
    (x.logStatus k status r0 r1).chip.power = x.chip.power ∧ (x.logStatus k status r0 r1).chip.ledger = x.chip.ledger ∧
    (x.logStatus k status r0 r1).c = x.c ∧ (x.logStatus k status r0 r1).now = x.now := by
  unfold Ctx.logStatus; (repeat' split) <;> simp_all

@[simp] theorem Ctx.endCmd_keeps (x : Ctx) (k : Cmd) (late : Bool) (status : Nat) (r0 : Nat) (r1 : Nat) :
    (x.endCmd k late status r0 r1).chip.boot = x.chip.boot ∧ (x.endCmd k late status r0 r1).chip.config = x.chip.config ∧
    (x.endCmd k late status r0 r1).chip.serve = x.chip.serve ∧ (x.endCmd k late status r0 r1).chip.eng = x.chip.eng ∧
    (x.endCmd k late status r0 r1).chip.mem = x.chip.mem ∧ (x.endCmd k late status r0 r1).chip.fab = x.chip.fab ∧
    (x.endCmd k late status r0 r1).chip.power = x.chip.power ∧ (x.endCmd k late status r0 r1).chip.obs = x.chip.obs ∧
    (x.endCmd k late status r0 r1).c = x.c ∧ (x.endCmd k late status r0 r1).now = x.now := by
  unfold Ctx.endCmd; simp

@[simp] theorem Ctx.settleDelete_keeps (x : Ctx) (k : Cmd) :
    (x.settleDelete k).chip.boot = x.chip.boot ∧ (x.settleDelete k).chip.config = x.chip.config ∧
    (x.settleDelete k).chip.serve = x.chip.serve ∧ (x.settleDelete k).chip.eng = x.chip.eng ∧
    (x.settleDelete k).chip.mem = x.chip.mem ∧ (x.settleDelete k).chip.fab = x.chip.fab ∧
    (x.settleDelete k).chip.power = x.chip.power ∧ (x.settleDelete k).chip.obs = x.chip.obs ∧ (x.settleDelete k).c = x.c ∧
    (x.settleDelete k).now = x.now := by
  unfold Ctx.settleDelete; simp

@[simp] theorem Ctx.settle_keeps (x : Ctx) :
    (x.settle).chip.boot = x.chip.boot ∧ (x.settle).chip.config = x.chip.config ∧ (x.settle).chip.serve = x.chip.serve ∧
    (x.settle).chip.eng = x.chip.eng ∧ (x.settle).chip.mem = x.chip.mem ∧ (x.settle).chip.fab = x.chip.fab ∧
    (x.settle).chip.power = x.chip.power ∧ (x.settle).chip.obs = x.chip.obs ∧ (x.settle).c = x.c ∧ (x.settle).now = x.now := by
  unfold Ctx.settle; simp

@[simp] theorem Ctx.finishLogged_keeps (x : Ctx) (k : Cmd) (late : Bool) (status : Nat) (r0 : Nat) (r1 : Nat) (output : Bytes) :
    (x.finishLogged k late status r0 r1 output).chip.boot = x.chip.boot ∧
    (x.finishLogged k late status r0 r1 output).chip.config = x.chip.config ∧
    (x.finishLogged k late status r0 r1 output).chip.serve = x.chip.serve ∧
    (x.finishLogged k late status r0 r1 output).chip.eng = x.chip.eng ∧
    (x.finishLogged k late status r0 r1 output).chip.mem = x.chip.mem ∧
    (x.finishLogged k late status r0 r1 output).chip.fab = x.chip.fab ∧
    (x.finishLogged k late status r0 r1 output).chip.power = x.chip.power ∧
    (x.finishLogged k late status r0 r1 output).chip.obs = x.chip.obs ∧ (x.finishLogged k late status r0 r1 output).c = x.c ∧
    (x.finishLogged k late status r0 r1 output).now = x.now := by
  unfold Ctx.finishLogged; dsimp only; split <;> simp

@[simp] theorem Ctx.finishLate_keeps (x : Ctx) (k : Cmd) (late : Bool) (status : Nat) (r0 : Nat) (r1 : Nat) (output : Bytes) :
    (x.finishLate k late status r0 r1 output).chip.boot = x.chip.boot ∧
    (x.finishLate k late status r0 r1 output).chip.config = x.chip.config ∧
    (x.finishLate k late status r0 r1 output).chip.serve = x.chip.serve ∧
    (x.finishLate k late status r0 r1 output).chip.eng = x.chip.eng ∧
    (x.finishLate k late status r0 r1 output).chip.mem = x.chip.mem ∧
    (x.finishLate k late status r0 r1 output).chip.fab = x.chip.fab ∧
    (x.finishLate k late status r0 r1 output).chip.power = x.chip.power ∧ (x.finishLate k late status r0 r1 output).c = x.c ∧
    (x.finishLate k late status r0 r1 output).now = x.now := by
  unfold Ctx.finishLate; simp

@[simp] theorem Ctx.finish_keeps (x : Ctx) (k : Cmd) (status : Nat) (r0 : Nat) (r1 : Nat) (output : Bytes) :
    (x.finish k status r0 r1 output).chip.boot = x.chip.boot ∧ (x.finish k status r0 r1 output).chip.config = x.chip.config ∧
    (x.finish k status r0 r1 output).chip.serve = x.chip.serve ∧ (x.finish k status r0 r1 output).chip.eng = x.chip.eng ∧
    (x.finish k status r0 r1 output).chip.mem = x.chip.mem ∧ (x.finish k status r0 r1 output).chip.fab = x.chip.fab ∧
    (x.finish k status r0 r1 output).chip.power = x.chip.power ∧ (x.finish k status r0 r1 output).c = x.c ∧
    (x.finish k status r0 r1 output).now = x.now := by
  unfold Ctx.finish; simp

@[simp] theorem Ctx.refuse_keeps (x : Ctx) (k : Cmd) (status : Nat) (r0 : Nat) (r1 : Nat) :
    (x.refuse k status r0 r1).chip.boot = x.chip.boot ∧ (x.refuse k status r0 r1).chip.config = x.chip.config ∧
    (x.refuse k status r0 r1).chip.serve = x.chip.serve ∧ (x.refuse k status r0 r1).chip.eng = x.chip.eng ∧
    (x.refuse k status r0 r1).chip.mem = x.chip.mem ∧ (x.refuse k status r0 r1).chip.fab = x.chip.fab ∧
    (x.refuse k status r0 r1).chip.power = x.chip.power ∧ (x.refuse k status r0 r1).c = x.c ∧
    (x.refuse k status r0 r1).now = x.now := by
  unfold Ctx.refuse; simp

@[simp] theorem Ctx.done_keeps (x : Ctx) (k : Cmd) (status : Nat) (r0 : Nat) (r1 : Nat) :
    (x.done k status r0 r1).chip.boot = x.chip.boot ∧ (x.done k status r0 r1).chip.config = x.chip.config ∧
    (x.done k status r0 r1).chip.serve = x.chip.serve ∧ (x.done k status r0 r1).chip.eng = x.chip.eng ∧
    (x.done k status r0 r1).chip.mem = x.chip.mem ∧ (x.done k status r0 r1).chip.fab = x.chip.fab ∧
    (x.done k status r0 r1).chip.power = x.chip.power ∧ (x.done k status r0 r1).c = x.c ∧ (x.done k status r0 r1).now = x.now := by
  unfold Ctx.done; simp

@[simp] theorem Ctx.flush_keeps (x : Ctx) :
    (x.flush).chip.boot = x.chip.boot ∧ (x.flush).chip.config = x.chip.config ∧ (x.flush).chip.serve = x.chip.serve ∧
    (x.flush).chip.eng = x.chip.eng ∧ (x.flush).chip.mem = x.chip.mem ∧ (x.flush).chip.fab = x.chip.fab ∧
    (x.flush).chip.power = x.chip.power ∧ (x.flush).c = x.c ∧ (x.flush).now = x.now := by
  unfold Ctx.flush; simp

@[simp] theorem Ctx.wakeEvent_keeps (x : Ctx) :
    (x.wakeEvent).chip.bar = x.chip.bar ∧ (x.wakeEvent).chip.stew = x.chip.stew ∧ (x.wakeEvent).chip.config = x.chip.config ∧
    (x.wakeEvent).chip.serve = x.chip.serve ∧ (x.wakeEvent).chip.eng = x.chip.eng ∧ (x.wakeEvent).chip.mem = x.chip.mem ∧
    (x.wakeEvent).chip.power = x.chip.power ∧ (x.wakeEvent).chip.obs = x.chip.obs ∧ (x.wakeEvent).chip.ledger = x.chip.ledger ∧
    (x.wakeEvent).c = x.c ∧ (x.wakeEvent).now = x.now := by
  unfold Ctx.wakeEvent; (repeat' split) <;> simp_all

@[simp] theorem Ctx.activate_keeps (x : Ctx) :
    (x.activate).chip.bar = x.chip.bar ∧ (x.activate).chip.stew = x.chip.stew ∧ (x.activate).chip.config = x.chip.config ∧
    (x.activate).chip.serve = x.chip.serve ∧ (x.activate).chip.eng = x.chip.eng ∧ (x.activate).chip.mem = x.chip.mem ∧
    (x.activate).chip.fab = x.chip.fab ∧ (x.activate).chip.power = x.chip.power ∧ (x.activate).chip.obs = x.chip.obs ∧
    (x.activate).chip.ledger = x.chip.ledger ∧ (x.activate).c = x.c ∧ (x.activate).now = x.now := by
  unfold Ctx.activate; simp

@[simp] theorem Ctx.endGust_keeps (x : Ctx) :
    (x.endGust).chip.boot = x.chip.boot ∧ (x.endGust).chip.bar = x.chip.bar ∧ (x.endGust).chip.stew = x.chip.stew ∧
    (x.endGust).chip.config = x.chip.config ∧ (x.endGust).chip.serve = x.chip.serve ∧ (x.endGust).chip.eng = x.chip.eng ∧
    (x.endGust).chip.mem = x.chip.mem ∧ (x.endGust).chip.fab = x.chip.fab ∧ (x.endGust).chip.obs = x.chip.obs ∧
    (x.endGust).chip.ledger = x.chip.ledger ∧ (x.endGust).c = x.c ∧ (x.endGust).now = x.now := by
  unfold Ctx.endGust; (repeat' split) <;> simp_all

@[simp] theorem Ctx.onQuiet_keeps (x : Ctx) (f : QuietWin → QuietWin) :
    (x.onQuiet f).chip.boot = x.chip.boot ∧ (x.onQuiet f).chip.bar = x.chip.bar ∧ (x.onQuiet f).chip.stew = x.chip.stew ∧
    (x.onQuiet f).chip.config = x.chip.config ∧ (x.onQuiet f).chip.serve = x.chip.serve ∧ (x.onQuiet f).chip.eng = x.chip.eng ∧
    (x.onQuiet f).chip.mem = x.chip.mem ∧ (x.onQuiet f).chip.fab = x.chip.fab ∧ (x.onQuiet f).chip.obs = x.chip.obs ∧
    (x.onQuiet f).chip.ledger = x.chip.ledger ∧ (x.onQuiet f).c = x.c ∧ (x.onQuiet f).now = x.now := by
  unfold Ctx.onQuiet; simp

end Sys2Proof.Machine
end

