-- ==== Sys2Proof/Laws/FrameAdmit.lean ====
section
/-! SUPPORT. What the operations of Machine/Admit.lean leave unchanged of a chip. -/
namespace Sys2Proof.Machine

@[simp] theorem Ctx.begin_keeps (x : Ctx) (k : Cmd) :
    (x.begin k).chip.boot = x.chip.boot ∧ (x.begin k).chip.bar = x.chip.bar ∧ (x.begin k).chip.stew = x.chip.stew ∧
    (x.begin k).chip.config = x.chip.config ∧ (x.begin k).chip.serve = x.chip.serve ∧ (x.begin k).chip.eng = x.chip.eng ∧
    (x.begin k).chip.mem = x.chip.mem ∧ (x.begin k).chip.fab = x.chip.fab ∧ (x.begin k).chip.power = x.chip.power ∧
    (x.begin k).chip.obs = x.chip.obs ∧ (x.begin k).c = x.c ∧ (x.begin k).now = x.now := by
  unfold Ctx.begin; simp

@[simp] theorem Ctx.run_boot (x : Ctx) (id : Nat) (op : Nat) (sub : Cmd → Bool) (f : Cmd → Ctx → Ctx)
    (hf : ∀ y0 y1, (f y0 y1).chip.boot = y1.chip.boot) :
    (x.run id op sub f).chip.boot = x.chip.boot := by
  unfold Ctx.run; (repeat' split) <;> simp_all

@[simp] theorem Ctx.run_bar (x : Ctx) (id : Nat) (op : Nat) (sub : Cmd → Bool) (f : Cmd → Ctx → Ctx)
    (hf : ∀ y0 y1, (f y0 y1).chip.bar = y1.chip.bar) :
    (x.run id op sub f).chip.bar = x.chip.bar := by
  unfold Ctx.run; (repeat' split) <;> simp_all

@[simp] theorem Ctx.run_stew (x : Ctx) (id : Nat) (op : Nat) (sub : Cmd → Bool) (f : Cmd → Ctx → Ctx)
    (hf : ∀ y0 y1, (f y0 y1).chip.stew = y1.chip.stew) :
    (x.run id op sub f).chip.stew = x.chip.stew := by
  unfold Ctx.run; (repeat' split) <;> simp_all

@[simp] theorem Ctx.run_config (x : Ctx) (id : Nat) (op : Nat) (sub : Cmd → Bool) (f : Cmd → Ctx → Ctx)
    (hf : ∀ y0 y1, (f y0 y1).chip.config = y1.chip.config) :
    (x.run id op sub f).chip.config = x.chip.config := by
  unfold Ctx.run; (repeat' split) <;> simp_all

@[simp] theorem Ctx.run_serve (x : Ctx) (id : Nat) (op : Nat) (sub : Cmd → Bool) (f : Cmd → Ctx → Ctx)
    (hf : ∀ y0 y1, (f y0 y1).chip.serve = y1.chip.serve) :
    (x.run id op sub f).chip.serve = x.chip.serve := by
  unfold Ctx.run; (repeat' split) <;> simp_all

@[simp] theorem Ctx.run_eng (x : Ctx) (id : Nat) (op : Nat) (sub : Cmd → Bool) (f : Cmd → Ctx → Ctx)
    (hf : ∀ y0 y1, (f y0 y1).chip.eng = y1.chip.eng) :
    (x.run id op sub f).chip.eng = x.chip.eng := by
  unfold Ctx.run; (repeat' split) <;> simp_all

@[simp] theorem Ctx.run_mem (x : Ctx) (id : Nat) (op : Nat) (sub : Cmd → Bool) (f : Cmd → Ctx → Ctx)
    (hf : ∀ y0 y1, (f y0 y1).chip.mem = y1.chip.mem) :
    (x.run id op sub f).chip.mem = x.chip.mem := by
  unfold Ctx.run; (repeat' split) <;> simp_all

@[simp] theorem Ctx.run_fab (x : Ctx) (id : Nat) (op : Nat) (sub : Cmd → Bool) (f : Cmd → Ctx → Ctx)
    (hf : ∀ y0 y1, (f y0 y1).chip.fab = y1.chip.fab) :
    (x.run id op sub f).chip.fab = x.chip.fab := by
  unfold Ctx.run; (repeat' split) <;> simp_all

@[simp] theorem Ctx.run_power (x : Ctx) (id : Nat) (op : Nat) (sub : Cmd → Bool) (f : Cmd → Ctx → Ctx)
    (hf : ∀ y0 y1, (f y0 y1).chip.power = y1.chip.power) :
    (x.run id op sub f).chip.power = x.chip.power := by
  unfold Ctx.run; (repeat' split) <;> simp_all

@[simp] theorem Ctx.run_obs (x : Ctx) (id : Nat) (op : Nat) (sub : Cmd → Bool) (f : Cmd → Ctx → Ctx)
    (hf : ∀ y0 y1, (f y0 y1).chip.obs = y1.chip.obs) :
    (x.run id op sub f).chip.obs = x.chip.obs := by
  unfold Ctx.run; (repeat' split) <;> simp_all

@[simp] theorem Ctx.run_c (x : Ctx) (id : Nat) (op : Nat) (sub : Cmd → Bool) (f : Cmd → Ctx → Ctx)
    (hf : ∀ y0 y1, (f y0 y1).c = y1.c) :
    (x.run id op sub f).c = x.c := by
  unfold Ctx.run; (repeat' split) <;> simp_all

@[simp] theorem Ctx.run_now (x : Ctx) (id : Nat) (op : Nat) (sub : Cmd → Bool) (f : Cmd → Ctx → Ctx)
    (hf : ∀ y0 y1, (f y0 y1).now = y1.now) :
    (x.run id op sub f).now = x.now := by
  unfold Ctx.run; (repeat' split) <;> simp_all

end Sys2Proof.Machine
end

