-- ==== Sys2Proof/Laws/FrameSteward.lean ====
section
/-! SUPPORT. What the operations of Machine/Steward.lean leave unchanged of a chip. -/
namespace Sys2Proof.Machine

@[simp] theorem Ctx.startQp0_keeps (x : Ctx) :
    (x.startQp0).chip.boot = x.chip.boot ∧ (x.startQp0).chip.stew = x.chip.stew ∧ (x.startQp0).chip.config = x.chip.config ∧
    (x.startQp0).chip.serve = x.chip.serve ∧ (x.startQp0).chip.eng = x.chip.eng ∧ (x.startQp0).chip.mem = x.chip.mem ∧
    (x.startQp0).chip.fab = x.chip.fab ∧ (x.startQp0).chip.power = x.chip.power ∧ (x.startQp0).chip.obs = x.chip.obs ∧
    (x.startQp0).chip.ledger = x.chip.ledger ∧ (x.startQp0).c = x.c ∧ (x.startQp0).now = x.now := by
  unfold Ctx.startQp0; simp

@[simp] theorem Ctx.writeQp0Control_keeps (x : Ctx) (v : Word32) :
    (x.writeQp0Control v).chip.boot = x.chip.boot ∧ (x.writeQp0Control v).chip.stew = x.chip.stew ∧
    (x.writeQp0Control v).chip.config = x.chip.config ∧ (x.writeQp0Control v).chip.serve = x.chip.serve ∧
    (x.writeQp0Control v).chip.eng = x.chip.eng ∧ (x.writeQp0Control v).chip.mem = x.chip.mem ∧
    (x.writeQp0Control v).chip.fab = x.chip.fab ∧ (x.writeQp0Control v).chip.power = x.chip.power ∧
    (x.writeQp0Control v).chip.obs = x.chip.obs ∧ (x.writeQp0Control v).chip.ledger = x.chip.ledger ∧
    (x.writeQp0Control v).c = x.c ∧ (x.writeQp0Control v).now = x.now := by
  unfold Ctx.writeQp0Control; simp

@[simp] theorem Ctx.endEnabling_keeps (x : Ctx) :
    (x.endEnabling).chip.boot = x.chip.boot ∧ (x.endEnabling).chip.config = x.chip.config ∧
    (x.endEnabling).chip.serve = x.chip.serve ∧ (x.endEnabling).chip.eng = x.chip.eng ∧ (x.endEnabling).chip.mem = x.chip.mem ∧
    (x.endEnabling).chip.fab = x.chip.fab ∧ (x.endEnabling).chip.power = x.chip.power ∧ (x.endEnabling).c = x.c ∧
    (x.endEnabling).now = x.now := by
  unfold Ctx.endEnabling; simp

@[simp] theorem Ctx.endDisabling_keeps (x : Ctx) :
    (x.endDisabling).chip.boot = x.chip.boot ∧ (x.endDisabling).chip.config = x.chip.config ∧
    (x.endDisabling).chip.serve = x.chip.serve ∧ (x.endDisabling).chip.eng = x.chip.eng ∧
    (x.endDisabling).chip.mem = x.chip.mem ∧ (x.endDisabling).chip.fab = x.chip.fab ∧
    (x.endDisabling).chip.power = x.chip.power ∧ (x.endDisabling).chip.obs = x.chip.obs ∧
    (x.endDisabling).chip.ledger = x.chip.ledger ∧ (x.endDisabling).c = x.c ∧ (x.endDisabling).now = x.now := by
  unfold Ctx.endDisabling; simp

@[simp] theorem Ctx.badDoorbell_keeps (x : Ctx) :
    (x.badDoorbell).chip.boot = x.chip.boot ∧ (x.badDoorbell).chip.stew = x.chip.stew ∧
    (x.badDoorbell).chip.config = x.chip.config ∧ (x.badDoorbell).chip.serve = x.chip.serve ∧
    (x.badDoorbell).chip.eng = x.chip.eng ∧ (x.badDoorbell).chip.mem = x.chip.mem ∧ (x.badDoorbell).chip.fab = x.chip.fab ∧
    (x.badDoorbell).chip.power = x.chip.power ∧ (x.badDoorbell).chip.obs = x.chip.obs ∧
    (x.badDoorbell).chip.ledger = x.chip.ledger ∧ (x.badDoorbell).c = x.c ∧ (x.badDoorbell).now = x.now := by
  unfold Ctx.badDoorbell; simp

@[simp] theorem Ctx.earlyDoorbell_keeps (x : Ctx) :
    (x.earlyDoorbell).chip.boot = x.chip.boot ∧ (x.earlyDoorbell).chip.stew = x.chip.stew ∧
    (x.earlyDoorbell).chip.config = x.chip.config ∧ (x.earlyDoorbell).chip.serve = x.chip.serve ∧
    (x.earlyDoorbell).chip.eng = x.chip.eng ∧ (x.earlyDoorbell).chip.mem = x.chip.mem ∧
    (x.earlyDoorbell).chip.fab = x.chip.fab ∧ (x.earlyDoorbell).chip.power = x.chip.power ∧
    (x.earlyDoorbell).chip.obs = x.chip.obs ∧ (x.earlyDoorbell).chip.ledger = x.chip.ledger ∧ (x.earlyDoorbell).c = x.c ∧
    (x.earlyDoorbell).now = x.now := by
  unfold Ctx.earlyDoorbell; simp

@[simp] theorem Ctx.storeDoorbell_keeps (x : Ctx) (k : Nat) (v : Nat) :
    (x.storeDoorbell k v).chip.boot = x.chip.boot ∧ (x.storeDoorbell k v).chip.stew = x.chip.stew ∧
    (x.storeDoorbell k v).chip.config = x.chip.config ∧ (x.storeDoorbell k v).chip.serve = x.chip.serve ∧
    (x.storeDoorbell k v).chip.eng = x.chip.eng ∧ (x.storeDoorbell k v).chip.mem = x.chip.mem ∧
    (x.storeDoorbell k v).chip.fab = x.chip.fab ∧ (x.storeDoorbell k v).chip.power = x.chip.power ∧
    (x.storeDoorbell k v).chip.obs = x.chip.obs ∧ (x.storeDoorbell k v).chip.ledger = x.chip.ledger ∧
    (x.storeDoorbell k v).c = x.c ∧ (x.storeDoorbell k v).now = x.now := by
  unfold Ctx.storeDoorbell; simp

@[simp] theorem Ctx.sqTail_keeps (x : Ctx) (q : Nat) (v : Word32) (opcodes : List Byte) :
    (x.sqTail q v opcodes).chip.config = x.chip.config ∧ (x.sqTail q v opcodes).chip.serve = x.chip.serve ∧
    (x.sqTail q v opcodes).chip.eng = x.chip.eng ∧ (x.sqTail q v opcodes).chip.mem = x.chip.mem ∧
    (x.sqTail q v opcodes).chip.power = x.chip.power ∧ (x.sqTail q v opcodes).chip.obs = x.chip.obs ∧
    (x.sqTail q v opcodes).chip.ledger = x.chip.ledger ∧ (x.sqTail q v opcodes).c = x.c ∧ (x.sqTail q v opcodes).now = x.now := by
  unfold Ctx.sqTail; simp

@[simp] theorem Ctx.cqHead_keeps (x : Ctx) (q : Nat) (v : Word32) :
    (x.cqHead q v).chip.boot = x.chip.boot ∧ (x.cqHead q v).chip.config = x.chip.config ∧
    (x.cqHead q v).chip.serve = x.chip.serve ∧ (x.cqHead q v).chip.eng = x.chip.eng ∧ (x.cqHead q v).chip.mem = x.chip.mem ∧
    (x.cqHead q v).chip.fab = x.chip.fab ∧ (x.cqHead q v).chip.power = x.chip.power ∧ (x.cqHead q v).c = x.c ∧
    (x.cqHead q v).now = x.now := by
  unfold Ctx.cqHead; simp

@[simp] theorem Ctx.readEarly_keeps (x : Ctx) :
    (x.readEarly).chip.boot = x.chip.boot ∧ (x.readEarly).chip.stew = x.chip.stew ∧ (x.readEarly).chip.config = x.chip.config ∧
    (x.readEarly).chip.serve = x.chip.serve ∧ (x.readEarly).chip.eng = x.chip.eng ∧ (x.readEarly).chip.mem = x.chip.mem ∧
    (x.readEarly).chip.fab = x.chip.fab ∧ (x.readEarly).chip.power = x.chip.power ∧ (x.readEarly).chip.obs = x.chip.obs ∧
    (x.readEarly).c = x.c ∧ (x.readEarly).now = x.now := by
  unfold Ctx.readEarly; simp

@[simp] theorem Ctx.readBad_keeps (x : Ctx) :
    (x.readBad).chip.boot = x.chip.boot ∧ (x.readBad).chip.stew = x.chip.stew ∧ (x.readBad).chip.config = x.chip.config ∧
    (x.readBad).chip.serve = x.chip.serve ∧ (x.readBad).chip.eng = x.chip.eng ∧ (x.readBad).chip.mem = x.chip.mem ∧
    (x.readBad).chip.fab = x.chip.fab ∧ (x.readBad).chip.power = x.chip.power ∧ (x.readBad).chip.obs = x.chip.obs ∧
    (x.readBad).c = x.c ∧ (x.readBad).now = x.now := by
  unfold Ctx.readBad; simp

@[simp] theorem Ctx.sendPending_keeps (x : Ctx) :
    (x.sendPending).chip.boot = x.chip.boot ∧ (x.sendPending).chip.stew = x.chip.stew ∧
    (x.sendPending).chip.config = x.chip.config ∧ (x.sendPending).chip.serve = x.chip.serve ∧
    (x.sendPending).chip.eng = x.chip.eng ∧ (x.sendPending).chip.mem = x.chip.mem ∧ (x.sendPending).chip.fab = x.chip.fab ∧
    (x.sendPending).chip.power = x.chip.power ∧ (x.sendPending).chip.obs = x.chip.obs ∧ (x.sendPending).c = x.c ∧
    (x.sendPending).now = x.now := by
  unfold Ctx.sendPending; simp

@[simp] theorem Ctx.setMsix_keeps (x : Ctx) (v : Nat) (f : Msix → Msix) :
    (x.setMsix v f).chip.boot = x.chip.boot ∧ (x.setMsix v f).chip.stew = x.chip.stew ∧
    (x.setMsix v f).chip.config = x.chip.config ∧ (x.setMsix v f).chip.serve = x.chip.serve ∧
    (x.setMsix v f).chip.eng = x.chip.eng ∧ (x.setMsix v f).chip.mem = x.chip.mem ∧ (x.setMsix v f).chip.fab = x.chip.fab ∧
    (x.setMsix v f).chip.power = x.chip.power ∧ (x.setMsix v f).chip.obs = x.chip.obs ∧ (x.setMsix v f).c = x.c ∧
    (x.setMsix v f).now = x.now := by
  unfold Ctx.setMsix; simp

@[simp] theorem Ctx.unmask_keeps (x : Ctx) (z0 : Unmask) :
    (x.unmask z0).chip.boot = x.chip.boot ∧ (x.unmask z0).chip.stew = x.chip.stew ∧ (x.unmask z0).chip.config = x.chip.config ∧
    (x.unmask z0).chip.serve = x.chip.serve ∧ (x.unmask z0).chip.eng = x.chip.eng ∧ (x.unmask z0).chip.mem = x.chip.mem ∧
    (x.unmask z0).chip.fab = x.chip.fab ∧ (x.unmask z0).chip.power = x.chip.power ∧ (x.unmask z0).chip.obs = x.chip.obs ∧
    (x.unmask z0).c = x.c ∧ (x.unmask z0).now = x.now := by
  unfold Ctx.unmask; (repeat' split) <;> simp_all

@[simp] theorem Ctx.irqTime_keeps (x : Ctx) (q : Nat) :
    (x.irqTime q).chip.boot = x.chip.boot ∧ (x.irqTime q).chip.config = x.chip.config ∧
    (x.irqTime q).chip.serve = x.chip.serve ∧ (x.irqTime q).chip.eng = x.chip.eng ∧ (x.irqTime q).chip.mem = x.chip.mem ∧
    (x.irqTime q).chip.fab = x.chip.fab ∧ (x.irqTime q).chip.power = x.chip.power ∧ (x.irqTime q).chip.obs = x.chip.obs ∧
    (x.irqTime q).c = x.c ∧ (x.irqTime q).now = x.now := by
  unfold Ctx.irqTime; simp

@[simp] theorem Ctx.writeMsix_keeps (x : Ctx) (d : Nat) (v : Word32) :
    (x.writeMsix d v).chip.boot = x.chip.boot ∧ (x.writeMsix d v).chip.stew = x.chip.stew ∧
    (x.writeMsix d v).chip.config = x.chip.config ∧ (x.writeMsix d v).chip.serve = x.chip.serve ∧
    (x.writeMsix d v).chip.eng = x.chip.eng ∧ (x.writeMsix d v).chip.mem = x.chip.mem ∧
    (x.writeMsix d v).chip.fab = x.chip.fab ∧ (x.writeMsix d v).chip.power = x.chip.power ∧
    (x.writeMsix d v).chip.obs = x.chip.obs ∧ (x.writeMsix d v).c = x.c ∧ (x.writeMsix d v).now = x.now := by
  unfold Ctx.writeMsix; dsimp only; (repeat' split) <;> simp

@[simp] theorem Ctx.writeReg_keeps (x : Ctx) (off : Nat) (v : Word32) :
    (x.writeReg off v).chip.boot = x.chip.boot ∧ (x.writeReg off v).chip.stew = x.chip.stew ∧
    (x.writeReg off v).chip.config = x.chip.config ∧ (x.writeReg off v).chip.serve = x.chip.serve ∧
    (x.writeReg off v).chip.eng = x.chip.eng ∧ (x.writeReg off v).chip.mem = x.chip.mem ∧
    (x.writeReg off v).chip.fab = x.chip.fab ∧ (x.writeReg off v).chip.power = x.chip.power ∧
    (x.writeReg off v).chip.obs = x.chip.obs ∧ (x.writeReg off v).c = x.c ∧ (x.writeReg off v).now = x.now := by
  unfold Ctx.writeReg; simp

@[simp] theorem Ctx.oddAccess_keeps (x : Ctx) (write : Bool) (len : Nat) :
    (x.oddAccess write len).chip.boot = x.chip.boot ∧ (x.oddAccess write len).chip.bar = x.chip.bar ∧
    (x.oddAccess write len).chip.stew = x.chip.stew ∧ (x.oddAccess write len).chip.config = x.chip.config ∧
    (x.oddAccess write len).chip.serve = x.chip.serve ∧ (x.oddAccess write len).chip.eng = x.chip.eng ∧
    (x.oddAccess write len).chip.mem = x.chip.mem ∧ (x.oddAccess write len).chip.fab = x.chip.fab ∧
    (x.oddAccess write len).chip.power = x.chip.power ∧ (x.oddAccess write len).chip.obs = x.chip.obs ∧
    (x.oddAccess write len).c = x.c ∧ (x.oddAccess write len).now = x.now := by
  unfold Ctx.oddAccess; simp

@[simp] theorem Ctx.restLink_keeps (x : Ctx) :
    (x.restLink).c = x.c ∧ (x.restLink).now = x.now := by
  unfold Ctx.restLink; simp

@[simp] theorem Ctx.cfgServe_keeps (x : Ctx) (bootRom : Bool) (z1 : CfgReq) :
    (x.cfgServe bootRom z1).c = x.c ∧ (x.cfgServe bootRom z1).now = x.now := by
  unfold Ctx.cfgServe; (repeat' split) <;> simp_all

@[simp] theorem Ctx.cfgRequest_keeps (x : Ctx) (req : CfgReq) :
    (x.cfgRequest req).c = x.c ∧ (x.cfgRequest req).now = x.now := by
  unfold Ctx.cfgRequest; simp

@[simp] theorem Ctx.advance_keeps (x : Ctx) (q : Nat) :
    (x.advance q).chip.config = x.chip.config ∧ (x.advance q).chip.power = x.chip.power ∧ (x.advance q).c = x.c ∧
    (x.advance q).now = x.now := by
  unfold Ctx.advance; simp

@[simp] theorem Ctx.wakeFor_keeps (x : Ctx) (op : Nat) :
    (x.wakeFor op).chip.bar = x.chip.bar ∧ (x.wakeFor op).chip.stew = x.chip.stew ∧
    (x.wakeFor op).chip.config = x.chip.config ∧ (x.wakeFor op).chip.serve = x.chip.serve ∧
    (x.wakeFor op).chip.eng = x.chip.eng ∧ (x.wakeFor op).chip.mem = x.chip.mem ∧ (x.wakeFor op).chip.power = x.chip.power ∧
    (x.wakeFor op).chip.obs = x.chip.obs ∧ (x.wakeFor op).chip.ledger = x.chip.ledger ∧ (x.wakeFor op).c = x.c ∧
    (x.wakeFor op).now = x.now := by
  unfold Ctx.wakeFor; simp

@[simp] theorem Ctx.fetchEntry_keeps (x : Ctx) (q : Nat) (e : Bytes) :
    (x.fetchEntry q e).chip.config = x.chip.config ∧ (x.fetchEntry q e).chip.power = x.chip.power ∧
    (x.fetchEntry q e).c = x.c ∧ (x.fetchEntry q e).now = x.now := by
  unfold Ctx.fetchEntry; dsimp only; (repeat' split) <;> simp

@[simp] theorem Ctx.fetchError_keeps (x : Ctx) (q : Nat) :
    (x.fetchError q).chip.config = x.chip.config ∧ (x.fetchError q).chip.power = x.chip.power ∧ (x.fetchError q).c = x.c ∧
    (x.fetchError q).now = x.now := by
  unfold Ctx.fetchError; simp

@[simp] theorem Ctx.argumentError_keeps (x : Ctx) (id : Nat) :
    (x.argumentError id).chip.boot = x.chip.boot ∧ (x.argumentError id).chip.config = x.chip.config ∧
    (x.argumentError id).chip.serve = x.chip.serve ∧ (x.argumentError id).chip.eng = x.chip.eng ∧
    (x.argumentError id).chip.mem = x.chip.mem ∧ (x.argumentError id).chip.fab = x.chip.fab ∧
    (x.argumentError id).chip.power = x.chip.power ∧ (x.argumentError id).c = x.c ∧ (x.argumentError id).now = x.now := by
  unfold Ctx.argumentError; (repeat' split) <;> simp_all

@[simp] theorem Ctx.identify_keeps (x : Ctx) (variantU : Bool) (k : Cmd) :
    (x.identify variantU k).chip.boot = x.chip.boot ∧ (x.identify variantU k).chip.config = x.chip.config ∧
    (x.identify variantU k).chip.serve = x.chip.serve ∧ (x.identify variantU k).chip.eng = x.chip.eng ∧
    (x.identify variantU k).chip.mem = x.chip.mem ∧ (x.identify variantU k).chip.fab = x.chip.fab ∧
    (x.identify variantU k).chip.power = x.chip.power ∧ (x.identify variantU k).c = x.c ∧ (x.identify variantU k).now = x.now := by
  unfold Ctx.identify; simp

@[simp] theorem Ctx.queueCreate_keeps (x : Ctx) (k : Cmd) :
    (x.queueCreate k).chip.boot = x.chip.boot ∧ (x.queueCreate k).chip.config = x.chip.config ∧
    (x.queueCreate k).chip.serve = x.chip.serve ∧ (x.queueCreate k).chip.eng = x.chip.eng ∧
    (x.queueCreate k).chip.mem = x.chip.mem ∧ (x.queueCreate k).chip.fab = x.chip.fab ∧
    (x.queueCreate k).chip.power = x.chip.power ∧ (x.queueCreate k).c = x.c ∧ (x.queueCreate k).now = x.now := by
  unfold Ctx.queueCreate; simp

@[simp] theorem Ctx.queueDelete_keeps (x : Ctx) (k : Cmd) :
    (x.queueDelete k).chip.boot = x.chip.boot ∧ (x.queueDelete k).chip.config = x.chip.config ∧
    (x.queueDelete k).chip.serve = x.chip.serve ∧ (x.queueDelete k).chip.eng = x.chip.eng ∧
    (x.queueDelete k).chip.mem = x.chip.mem ∧ (x.queueDelete k).chip.fab = x.chip.fab ∧
    (x.queueDelete k).chip.power = x.chip.power ∧ (x.queueDelete k).c = x.c ∧ (x.queueDelete k).now = x.now := by
  unfold Ctx.queueDelete; simp

end Sys2Proof.Machine
end

