-- ==== Sys2Proof/Laws/FrameMemOps.lean ====
section
/-! SUPPORT. What the operations of Machine/MemOps.lean leave unchanged of a chip. -/
namespace Sys2Proof.Machine

@[simp] theorem Ctx.setStore_keeps (x : Ctx) (p : Spc) (s : Store) :
    (x.setStore p s).chip.boot = x.chip.boot ∧ (x.setStore p s).chip.bar = x.chip.bar ∧
    (x.setStore p s).chip.stew = x.chip.stew ∧ (x.setStore p s).chip.config = x.chip.config ∧
    (x.setStore p s).chip.serve = x.chip.serve ∧ (x.setStore p s).chip.eng = x.chip.eng ∧
    (x.setStore p s).chip.fab = x.chip.fab ∧ (x.setStore p s).chip.power = x.chip.power ∧
    (x.setStore p s).chip.obs = x.chip.obs ∧ (x.setStore p s).chip.ledger = x.chip.ledger ∧ (x.setStore p s).c = x.c ∧
    (x.setStore p s).now = x.now := by
  unfold Ctx.setStore; simp

@[simp] theorem Ctx.memEnergy_keeps (x : Ctx) (p : Spc) (n : Nat) :
    (x.memEnergy p n).chip.boot = x.chip.boot ∧ (x.memEnergy p n).chip.bar = x.chip.bar ∧
    (x.memEnergy p n).chip.stew = x.chip.stew ∧ (x.memEnergy p n).chip.config = x.chip.config ∧
    (x.memEnergy p n).chip.serve = x.chip.serve ∧ (x.memEnergy p n).chip.eng = x.chip.eng ∧
    (x.memEnergy p n).chip.mem = x.chip.mem ∧ (x.memEnergy p n).chip.fab = x.chip.fab ∧
    (x.memEnergy p n).chip.power = x.chip.power ∧ (x.memEnergy p n).chip.obs = x.chip.obs ∧ (x.memEnergy p n).c = x.c ∧
    (x.memEnergy p n).now = x.now := by
  unfold Ctx.memEnergy; (repeat' split) <;> simp_all

@[simp] theorem Ctx.ceWindow_keeps (x : Ctx) (p : Spc) (a : Nat) :
    (x.ceWindow p a).chip.boot = x.chip.boot ∧ (x.ceWindow p a).chip.config = x.chip.config ∧
    (x.ceWindow p a).chip.serve = x.chip.serve ∧ (x.ceWindow p a).chip.eng = x.chip.eng ∧
    (x.ceWindow p a).chip.fab = x.chip.fab ∧ (x.ceWindow p a).chip.power = x.chip.power ∧ (x.ceWindow p a).c = x.c ∧
    (x.ceWindow p a).now = x.now := by
  unfold Ctx.ceWindow; simp

@[simp] theorem Ctx.corrected_keeps (x : Ctx) (p : Spc) (a : Nat) :
    (x.corrected p a).chip.boot = x.chip.boot ∧ (x.corrected p a).chip.config = x.chip.config ∧
    (x.corrected p a).chip.serve = x.chip.serve ∧ (x.corrected p a).chip.eng = x.chip.eng ∧
    (x.corrected p a).chip.fab = x.chip.fab ∧ (x.corrected p a).chip.power = x.chip.power ∧ (x.corrected p a).c = x.c ∧
    (x.corrected p a).now = x.now := by
  unfold Ctx.corrected; simp

@[simp] theorem Ctx.foundUe_keeps (x : Ctx) (p : Spc) (super : Option Nat) (a : Nat) :
    (x.foundUe p super a).chip.boot = x.chip.boot ∧ (x.foundUe p super a).chip.config = x.chip.config ∧
    (x.foundUe p super a).chip.serve = x.chip.serve ∧ (x.foundUe p super a).chip.eng = x.chip.eng ∧
    (x.foundUe p super a).chip.fab = x.chip.fab ∧ (x.foundUe p super a).chip.power = x.chip.power ∧
    (x.foundUe p super a).c = x.c ∧ (x.foundUe p super a).now = x.now := by
  unfold Ctx.foundUe; dsimp only; (repeat' split) <;> simp

@[simp] theorem Ctx.poisonRead_keeps (x : Ctx) (p : Spc) (g : Nat) :
    (x.poisonRead p g).chip.boot = x.chip.boot ∧ (x.poisonRead p g).chip.bar = x.chip.bar ∧
    (x.poisonRead p g).chip.stew = x.chip.stew ∧ (x.poisonRead p g).chip.config = x.chip.config ∧
    (x.poisonRead p g).chip.serve = x.chip.serve ∧ (x.poisonRead p g).chip.eng = x.chip.eng ∧
    (x.poisonRead p g).chip.mem = x.chip.mem ∧ (x.poisonRead p g).chip.fab = x.chip.fab ∧
    (x.poisonRead p g).chip.power = x.chip.power ∧ (x.poisonRead p g).chip.ledger = x.chip.ledger ∧
    (x.poisonRead p g).c = x.c ∧ (x.poisonRead p g).now = x.now := by
  unfold Ctx.poisonRead; simp

@[simp] theorem Ctx.onDieRead_keeps (x : Ctx) (p : Spc) (a : Nat) :
    (x.onDieRead p a).chip.boot = x.chip.boot ∧ (x.onDieRead p a).chip.config = x.chip.config ∧
    (x.onDieRead p a).chip.serve = x.chip.serve ∧ (x.onDieRead p a).chip.eng = x.chip.eng ∧
    (x.onDieRead p a).chip.fab = x.chip.fab ∧ (x.onDieRead p a).chip.power = x.chip.power ∧ (x.onDieRead p a).c = x.c ∧
    (x.onDieRead p a).now = x.now := by
  unfold Ctx.onDieRead; simp

@[simp] theorem Ctx.inspect_keeps (x : Ctx) (p : Spc) (super : Option Nat) (a : Nat) (n : Nat) :
    (x.inspect p super a n).1.chip.boot = x.chip.boot ∧ (x.inspect p super a n).1.chip.config = x.chip.config ∧
    (x.inspect p super a n).1.chip.serve = x.chip.serve ∧ (x.inspect p super a n).1.chip.eng = x.chip.eng ∧
    (x.inspect p super a n).1.chip.fab = x.chip.fab ∧ (x.inspect p super a n).1.chip.power = x.chip.power ∧
    (x.inspect p super a n).1.c = x.c ∧ (x.inspect p super a n).1.now = x.now := by
  unfold Ctx.inspect; dsimp only; (repeat' split) <;> simp

@[simp] theorem Ctx.dropTags_keeps (x : Ctx) (d : Nat) (a : Nat) (n : Nat) :
    (x.dropTags d a n).chip.boot = x.chip.boot ∧ (x.dropTags d a n).chip.bar = x.chip.bar ∧
    (x.dropTags d a n).chip.stew = x.chip.stew ∧ (x.dropTags d a n).chip.config = x.chip.config ∧
    (x.dropTags d a n).chip.serve = x.chip.serve ∧ (x.dropTags d a n).chip.mem = x.chip.mem ∧
    (x.dropTags d a n).chip.fab = x.chip.fab ∧ (x.dropTags d a n).chip.power = x.chip.power ∧
    (x.dropTags d a n).chip.obs = x.chip.obs ∧ (x.dropTags d a n).chip.ledger = x.chip.ledger ∧ (x.dropTags d a n).c = x.c ∧
    (x.dropTags d a n).now = x.now := by
  unfold Ctx.dropTags; simp

@[simp] theorem Ctx.overwrite_keeps (x : Ctx) (p : Spc) (super : Option Nat) (a : Nat) (n : Nat) (f : Store → Store) :
    (x.overwrite p super a n f).chip.boot = x.chip.boot ∧ (x.overwrite p super a n f).chip.config = x.chip.config ∧
    (x.overwrite p super a n f).chip.serve = x.chip.serve ∧ (x.overwrite p super a n f).chip.fab = x.chip.fab ∧
    (x.overwrite p super a n f).chip.power = x.chip.power ∧ (x.overwrite p super a n f).c = x.c ∧
    (x.overwrite p super a n f).now = x.now := by
  unfold Ctx.overwrite; dsimp only; (repeat' split) <;> simp

@[simp] theorem Ctx.put_keeps (x : Ctx) (p : Spc) (super : Option Nat) (a : Nat) (bs : Bytes) :
    (x.put p super a bs).chip.boot = x.chip.boot ∧ (x.put p super a bs).chip.config = x.chip.config ∧
    (x.put p super a bs).chip.serve = x.chip.serve ∧ (x.put p super a bs).chip.fab = x.chip.fab ∧
    (x.put p super a bs).chip.power = x.chip.power ∧ (x.put p super a bs).c = x.c ∧ (x.put p super a bs).now = x.now := by
  unfold Ctx.put; simp

@[simp] theorem Ctx.putOpen_keeps (x : Ctx) (p : Spc) (super : Option Nat) (a : Nat) (n : Nat) :
    (x.putOpen p super a n).chip.boot = x.chip.boot ∧ (x.putOpen p super a n).chip.config = x.chip.config ∧
    (x.putOpen p super a n).chip.serve = x.chip.serve ∧ (x.putOpen p super a n).chip.fab = x.chip.fab ∧
    (x.putOpen p super a n).chip.power = x.chip.power ∧ (x.putOpen p super a n).c = x.c ∧ (x.putOpen p super a n).now = x.now := by
  unfold Ctx.putOpen; simp

@[simp] theorem Ctx.poisonGranule_keeps (x : Ctx) (p : Spc) (g : Nat) :
    (x.poisonGranule p g).chip.boot = x.chip.boot ∧ (x.poisonGranule p g).chip.bar = x.chip.bar ∧
    (x.poisonGranule p g).chip.stew = x.chip.stew ∧ (x.poisonGranule p g).chip.config = x.chip.config ∧
    (x.poisonGranule p g).chip.serve = x.chip.serve ∧ (x.poisonGranule p g).chip.eng = x.chip.eng ∧
    (x.poisonGranule p g).chip.fab = x.chip.fab ∧ (x.poisonGranule p g).chip.power = x.chip.power ∧
    (x.poisonGranule p g).chip.obs = x.chip.obs ∧ (x.poisonGranule p g).chip.ledger = x.chip.ledger ∧
    (x.poisonGranule p g).c = x.c ∧ (x.poisonGranule p g).now = x.now := by
  unfold Ctx.poisonGranule; simp

@[simp] theorem Ctx.poisonRange_keeps (x : Ctx) (p : Spc) (a : Nat) (n : Nat) :
    (x.poisonRange p a n).chip.boot = x.chip.boot ∧ (x.poisonRange p a n).chip.bar = x.chip.bar ∧
    (x.poisonRange p a n).chip.stew = x.chip.stew ∧ (x.poisonRange p a n).chip.config = x.chip.config ∧
    (x.poisonRange p a n).chip.serve = x.chip.serve ∧ (x.poisonRange p a n).chip.eng = x.chip.eng ∧
    (x.poisonRange p a n).chip.fab = x.chip.fab ∧ (x.poisonRange p a n).chip.power = x.chip.power ∧
    (x.poisonRange p a n).chip.obs = x.chip.obs ∧ (x.poisonRange p a n).chip.ledger = x.chip.ledger ∧
    (x.poisonRange p a n).c = x.c ∧ (x.poisonRange p a n).now = x.now := by
  unfold Ctx.poisonRange; simp

@[simp] theorem Ctx.blur_keeps (x : Ctx) (p : Spc) (a : Nat) (n : Nat) :
    (x.blur p a n).chip.boot = x.chip.boot ∧ (x.blur p a n).chip.bar = x.chip.bar ∧ (x.blur p a n).chip.stew = x.chip.stew ∧
    (x.blur p a n).chip.config = x.chip.config ∧ (x.blur p a n).chip.serve = x.chip.serve ∧
    (x.blur p a n).chip.fab = x.chip.fab ∧ (x.blur p a n).chip.power = x.chip.power ∧ (x.blur p a n).chip.obs = x.chip.obs ∧
    (x.blur p a n).chip.ledger = x.chip.ledger ∧ (x.blur p a n).c = x.c ∧ (x.blur p a n).now = x.now := by
  unfold Ctx.blur; dsimp only; (repeat' split) <;> simp

@[simp] theorem Ctx.loseRing_keeps (x : Ctx) (key : Nat) :
    (x.loseRing key).chip.boot = x.chip.boot ∧ (x.loseRing key).chip.bar = x.chip.bar ∧
    (x.loseRing key).chip.stew = x.chip.stew ∧ (x.loseRing key).chip.config = x.chip.config ∧
    (x.loseRing key).chip.serve = x.chip.serve ∧ (x.loseRing key).chip.eng = x.chip.eng ∧
    (x.loseRing key).chip.mem = x.chip.mem ∧ (x.loseRing key).chip.fab = x.chip.fab ∧
    (x.loseRing key).chip.power = x.chip.power ∧ (x.loseRing key).chip.ledger = x.chip.ledger ∧ (x.loseRing key).c = x.c ∧
    (x.loseRing key).now = x.now := by
  unfold Ctx.loseRing; simp

@[simp] theorem Ctx.readRing_keeps (x : Ctx) (n : Nat) :
    (x.readRing n).1.chip.boot = x.chip.boot ∧ (x.readRing n).1.chip.config = x.chip.config ∧
    (x.readRing n).1.chip.serve = x.chip.serve ∧ (x.readRing n).1.chip.eng = x.chip.eng ∧
    (x.readRing n).1.chip.fab = x.chip.fab ∧ (x.readRing n).1.chip.power = x.chip.power ∧ (x.readRing n).1.c = x.c ∧
    (x.readRing n).1.now = x.now := by
  unfold Ctx.readRing; dsimp only; (repeat' split) <;> simp

@[simp] theorem Ctx.scrubOn_keeps (x : Ctx) (p : Spc) (g : Nat) :
    (x.scrubOn p g).chip.boot = x.chip.boot ∧ (x.scrubOn p g).chip.bar = x.chip.bar ∧ (x.scrubOn p g).chip.stew = x.chip.stew ∧
    (x.scrubOn p g).chip.config = x.chip.config ∧ (x.scrubOn p g).chip.serve = x.chip.serve ∧
    (x.scrubOn p g).chip.eng = x.chip.eng ∧ (x.scrubOn p g).chip.fab = x.chip.fab ∧ (x.scrubOn p g).chip.power = x.chip.power ∧
    (x.scrubOn p g).chip.ledger = x.chip.ledger ∧ (x.scrubOn p g).c = x.c ∧ (x.scrubOn p g).now = x.now := by
  unfold Ctx.scrubOn; dsimp only; (repeat' split) <;> simp

@[simp] theorem Ctx.scrub_keeps (x : Ctx) (p : Spc) (a : Nat) (size : Nat) :
    (x.scrub p a size).chip.boot = x.chip.boot ∧ (x.scrub p a size).chip.config = x.chip.config ∧
    (x.scrub p a size).chip.serve = x.chip.serve ∧ (x.scrub p a size).chip.eng = x.chip.eng ∧
    (x.scrub p a size).chip.fab = x.chip.fab ∧ (x.scrub p a size).chip.power = x.chip.power ∧ (x.scrub p a size).c = x.c ∧
    (x.scrub p a size).now = x.now := by
  unfold Ctx.scrub; simp

@[simp] theorem Ctx.writeBack_keeps (x : Ctx) (p : Spc) (a : Nat) :
    (x.writeBack p a).chip.boot = x.chip.boot ∧ (x.writeBack p a).chip.config = x.chip.config ∧
    (x.writeBack p a).chip.serve = x.chip.serve ∧ (x.writeBack p a).chip.eng = x.chip.eng ∧
    (x.writeBack p a).chip.fab = x.chip.fab ∧ (x.writeBack p a).chip.power = x.chip.power ∧ (x.writeBack p a).c = x.c ∧
    (x.writeBack p a).now = x.now := by
  unfold Ctx.writeBack; simp

@[simp] theorem Ctx.bar2Outside_keeps (x : Ctx) :
    (x.bar2Outside).chip.boot = x.chip.boot ∧ (x.bar2Outside).chip.bar = x.chip.bar ∧ (x.bar2Outside).chip.stew = x.chip.stew ∧
    (x.bar2Outside).chip.config = x.chip.config ∧ (x.bar2Outside).chip.serve = x.chip.serve ∧
    (x.bar2Outside).chip.eng = x.chip.eng ∧ (x.bar2Outside).chip.mem = x.chip.mem ∧ (x.bar2Outside).chip.fab = x.chip.fab ∧
    (x.bar2Outside).chip.power = x.chip.power ∧ (x.bar2Outside).c = x.c ∧ (x.bar2Outside).now = x.now := by
  unfold Ctx.bar2Outside; simp

@[simp] theorem Ctx.bar2Read_keeps (x : Ctx) (off : Nat) (len : Nat) :
    (x.bar2Read off len).chip.boot = x.chip.boot ∧ (x.bar2Read off len).chip.config = x.chip.config ∧
    (x.bar2Read off len).chip.serve = x.chip.serve ∧ (x.bar2Read off len).chip.eng = x.chip.eng ∧
    (x.bar2Read off len).chip.fab = x.chip.fab ∧ (x.bar2Read off len).chip.power = x.chip.power ∧
    (x.bar2Read off len).c = x.c ∧ (x.bar2Read off len).now = x.now := by
  unfold Ctx.bar2Read; dsimp only; (repeat' split) <;> simp

@[simp] theorem Ctx.bar2Write_keeps (x : Ctx) (off : Nat) (data : Bytes) :
    (x.bar2Write off data).chip.boot = x.chip.boot ∧ (x.bar2Write off data).chip.config = x.chip.config ∧
    (x.bar2Write off data).chip.serve = x.chip.serve ∧ (x.bar2Write off data).chip.fab = x.chip.fab ∧
    (x.bar2Write off data).chip.power = x.chip.power ∧ (x.bar2Write off data).c = x.c ∧ (x.bar2Write off data).now = x.now := by
  unfold Ctx.bar2Write; (repeat' split) <;> simp_all

end Sys2Proof.Machine
end

