-- ==== Sys2Proof/Laws/FrameStreams.lean ====
section
/-! SUPPORT. What the operations of Machine/Streams.lean leave unchanged of a chip. -/
namespace Sys2Proof.Machine

@[simp] theorem Ctx.setStream_keeps (x : Ctx) (i : Nat) (t : Stream) :
    (x.setStream i t).chip.boot = x.chip.boot ∧ (x.setStream i t).chip.bar = x.chip.bar ∧
    (x.setStream i t).chip.stew = x.chip.stew ∧ (x.setStream i t).chip.config = x.chip.config ∧
    (x.setStream i t).chip.eng = x.chip.eng ∧ (x.setStream i t).chip.mem = x.chip.mem ∧
    (x.setStream i t).chip.fab = x.chip.fab ∧ (x.setStream i t).chip.power = x.chip.power ∧
    (x.setStream i t).chip.obs = x.chip.obs ∧ (x.setStream i t).chip.ledger = x.chip.ledger ∧ (x.setStream i t).c = x.c ∧
    (x.setStream i t).now = x.now := by
  unfold Ctx.setStream; simp

@[simp] theorem Ctx.setModel_keeps (x : Ctx) (m : Nat) (d : Model) :
    (x.setModel m d).chip.boot = x.chip.boot ∧ (x.setModel m d).chip.bar = x.chip.bar ∧
    (x.setModel m d).chip.stew = x.chip.stew ∧ (x.setModel m d).chip.config = x.chip.config ∧
    (x.setModel m d).chip.eng = x.chip.eng ∧ (x.setModel m d).chip.mem = x.chip.mem ∧ (x.setModel m d).chip.fab = x.chip.fab ∧
    (x.setModel m d).chip.power = x.chip.power ∧ (x.setModel m d).chip.obs = x.chip.obs ∧
    (x.setModel m d).chip.ledger = x.chip.ledger ∧ (x.setModel m d).c = x.c ∧ (x.setModel m d).now = x.now := by
  unfold Ctx.setModel; simp

@[simp] theorem Ctx.addRef_keeps (x : Ctx) (s : Nat) (k : Nat) :
    (x.addRef s k).chip.boot = x.chip.boot ∧ (x.addRef s k).chip.bar = x.chip.bar ∧ (x.addRef s k).chip.stew = x.chip.stew ∧
    (x.addRef s k).chip.config = x.chip.config ∧ (x.addRef s k).chip.eng = x.chip.eng ∧ (x.addRef s k).chip.mem = x.chip.mem ∧
    (x.addRef s k).chip.fab = x.chip.fab ∧ (x.addRef s k).chip.power = x.chip.power ∧ (x.addRef s k).chip.obs = x.chip.obs ∧
    (x.addRef s k).chip.ledger = x.chip.ledger ∧ (x.addRef s k).c = x.c ∧ (x.addRef s k).now = x.now := by
  unfold Ctx.addRef; simp

@[simp] theorem Ctx.takeFrame_keeps (x : Ctx) (s : Nat) :
    (x.takeFrame s).1.chip.boot = x.chip.boot ∧ (x.takeFrame s).1.chip.bar = x.chip.bar ∧
    (x.takeFrame s).1.chip.stew = x.chip.stew ∧ (x.takeFrame s).1.chip.config = x.chip.config ∧
    (x.takeFrame s).1.chip.eng = x.chip.eng ∧ (x.takeFrame s).1.chip.mem = x.chip.mem ∧
    (x.takeFrame s).1.chip.fab = x.chip.fab ∧ (x.takeFrame s).1.chip.power = x.chip.power ∧
    (x.takeFrame s).1.chip.obs = x.chip.obs ∧ (x.takeFrame s).1.chip.ledger = x.chip.ledger ∧ (x.takeFrame s).1.c = x.c ∧
    (x.takeFrame s).1.now = x.now := by
  unfold Ctx.takeFrame; simp

@[simp] theorem Ctx.takeFrames_keeps (x : Ctx) (s : Nat) (z1 : Nat) :
    (x.takeFrames s z1).1.chip.boot = x.chip.boot ∧ (x.takeFrames s z1).1.chip.bar = x.chip.bar ∧
    (x.takeFrames s z1).1.chip.stew = x.chip.stew ∧ (x.takeFrames s z1).1.chip.config = x.chip.config ∧
    (x.takeFrames s z1).1.chip.eng = x.chip.eng ∧ (x.takeFrames s z1).1.chip.mem = x.chip.mem ∧
    (x.takeFrames s z1).1.chip.fab = x.chip.fab ∧ (x.takeFrames s z1).1.chip.power = x.chip.power ∧
    (x.takeFrames s z1).1.chip.obs = x.chip.obs ∧ (x.takeFrames s z1).1.chip.ledger = x.chip.ledger ∧
    (x.takeFrames s z1).1.c = x.c ∧ (x.takeFrames s z1).1.now = x.now := by
  induction z1 generalizing x s <;> simp_all [Ctx.takeFrames]

@[simp] theorem Ctx.growTable_keeps (x : Ctx) (s : Nat) (layers : Nat) (n : Nat) (table : List (List Nat)) :
    (x.growTable s layers n table).1.chip.boot = x.chip.boot ∧ (x.growTable s layers n table).1.chip.bar = x.chip.bar ∧
    (x.growTable s layers n table).1.chip.stew = x.chip.stew ∧ (x.growTable s layers n table).1.chip.config = x.chip.config ∧
    (x.growTable s layers n table).1.chip.eng = x.chip.eng ∧ (x.growTable s layers n table).1.chip.mem = x.chip.mem ∧
    (x.growTable s layers n table).1.chip.fab = x.chip.fab ∧ (x.growTable s layers n table).1.chip.power = x.chip.power ∧
    (x.growTable s layers n table).1.chip.obs = x.chip.obs ∧ (x.growTable s layers n table).1.chip.ledger = x.chip.ledger ∧
    (x.growTable s layers n table).1.c = x.c ∧ (x.growTable s layers n table).1.now = x.now := by
  induction n generalizing x s layers table <;> simp_all [Ctx.growTable]

@[simp] theorem Ctx.dropRef_keeps (x : Ctx) (s : Nat) (k : Nat) :
    (x.dropRef s k).chip.boot = x.chip.boot ∧ (x.dropRef s k).chip.bar = x.chip.bar ∧ (x.dropRef s k).chip.stew = x.chip.stew ∧
    (x.dropRef s k).chip.config = x.chip.config ∧ (x.dropRef s k).chip.fab = x.chip.fab ∧
    (x.dropRef s k).chip.power = x.chip.power ∧ (x.dropRef s k).chip.obs = x.chip.obs ∧
    (x.dropRef s k).chip.ledger = x.chip.ledger ∧ (x.dropRef s k).c = x.c ∧ (x.dropRef s k).now = x.now := by
  unfold Ctx.dropRef; simp

@[simp] theorem Ctx.cutTable_keeps (x : Ctx) (s : Nat) (i : Nat) (n : Nat) :
    (x.cutTable s i n).chip.boot = x.chip.boot ∧ (x.cutTable s i n).chip.bar = x.chip.bar ∧
    (x.cutTable s i n).chip.stew = x.chip.stew ∧ (x.cutTable s i n).chip.config = x.chip.config ∧
    (x.cutTable s i n).chip.fab = x.chip.fab ∧ (x.cutTable s i n).chip.power = x.chip.power ∧
    (x.cutTable s i n).chip.obs = x.chip.obs ∧ (x.cutTable s i n).chip.ledger = x.chip.ledger ∧ (x.cutTable s i n).c = x.c ∧
    (x.cutTable s i n).now = x.now := by
  unfold Ctx.cutTable; simp

@[simp] theorem Ctx.dropTent_keeps (x : Ctx) (s : Nat) (i : Nat) (frames : Bool) :
    (x.dropTent s i frames).chip.boot = x.chip.boot ∧ (x.dropTent s i frames).chip.bar = x.chip.bar ∧
    (x.dropTent s i frames).chip.stew = x.chip.stew ∧ (x.dropTent s i frames).chip.config = x.chip.config ∧
    (x.dropTent s i frames).chip.fab = x.chip.fab ∧ (x.dropTent s i frames).chip.power = x.chip.power ∧
    (x.dropTent s i frames).chip.ledger = x.chip.ledger ∧ (x.dropTent s i frames).c = x.c ∧ (x.dropTent s i frames).now = x.now := by
  unfold Ctx.dropTent; dsimp only; (repeat' split) <;> simp

@[simp] theorem Ctx.onStreamCmd_boot (x : Ctx) (k : Cmd) (copies : Bool) (states : List StreamState) (f : Nat → Nat → Ctx)
    (hf : ∀ y0 y1, (f y0 y1).chip.boot = x.chip.boot) :
    (x.onStreamCmd k copies states f).chip.boot = x.chip.boot := by
  unfold Ctx.onStreamCmd; dsimp only; (repeat' split) <;> simp_all

@[simp] theorem Ctx.onStreamCmd_config (x : Ctx) (k : Cmd) (copies : Bool) (states : List StreamState) (f : Nat → Nat → Ctx)
    (hf : ∀ y0 y1, (f y0 y1).chip.config = x.chip.config) :
    (x.onStreamCmd k copies states f).chip.config = x.chip.config := by
  unfold Ctx.onStreamCmd; dsimp only; (repeat' split) <;> simp_all

@[simp] theorem Ctx.onStreamCmd_serve (x : Ctx) (k : Cmd) (copies : Bool) (states : List StreamState) (f : Nat → Nat → Ctx)
    (hf : ∀ y0 y1, (f y0 y1).chip.serve = x.chip.serve) :
    (x.onStreamCmd k copies states f).chip.serve = x.chip.serve := by
  unfold Ctx.onStreamCmd; dsimp only; (repeat' split) <;> simp_all

@[simp] theorem Ctx.onStreamCmd_eng (x : Ctx) (k : Cmd) (copies : Bool) (states : List StreamState) (f : Nat → Nat → Ctx)
    (hf : ∀ y0 y1, (f y0 y1).chip.eng = x.chip.eng) :
    (x.onStreamCmd k copies states f).chip.eng = x.chip.eng := by
  unfold Ctx.onStreamCmd; dsimp only; (repeat' split) <;> simp_all

@[simp] theorem Ctx.onStreamCmd_mem (x : Ctx) (k : Cmd) (copies : Bool) (states : List StreamState) (f : Nat → Nat → Ctx)
    (hf : ∀ y0 y1, (f y0 y1).chip.mem = x.chip.mem) :
    (x.onStreamCmd k copies states f).chip.mem = x.chip.mem := by
  unfold Ctx.onStreamCmd; dsimp only; (repeat' split) <;> simp_all

@[simp] theorem Ctx.onStreamCmd_fab (x : Ctx) (k : Cmd) (copies : Bool) (states : List StreamState) (f : Nat → Nat → Ctx)
    (hf : ∀ y0 y1, (f y0 y1).chip.fab = x.chip.fab) :
    (x.onStreamCmd k copies states f).chip.fab = x.chip.fab := by
  unfold Ctx.onStreamCmd; dsimp only; (repeat' split) <;> simp_all

@[simp] theorem Ctx.onStreamCmd_power (x : Ctx) (k : Cmd) (copies : Bool) (states : List StreamState) (f : Nat → Nat → Ctx)
    (hf : ∀ y0 y1, (f y0 y1).chip.power = x.chip.power) :
    (x.onStreamCmd k copies states f).chip.power = x.chip.power := by
  unfold Ctx.onStreamCmd; dsimp only; (repeat' split) <;> simp_all

@[simp] theorem Ctx.onStreamCmd_c (x : Ctx) (k : Cmd) (copies : Bool) (states : List StreamState) (f : Nat → Nat → Ctx)
    (hf : ∀ y0 y1, (f y0 y1).c = x.c) :
    (x.onStreamCmd k copies states f).c = x.c := by
  unfold Ctx.onStreamCmd; dsimp only; (repeat' split) <;> simp_all

@[simp] theorem Ctx.onStreamCmd_now (x : Ctx) (k : Cmd) (copies : Bool) (states : List StreamState) (f : Nat → Nat → Ctx)
    (hf : ∀ y0 y1, (f y0 y1).now = x.now) :
    (x.onStreamCmd k copies states f).now = x.now := by
  unfold Ctx.onStreamCmd; dsimp only; (repeat' split) <;> simp_all

@[simp] theorem Ctx.streamOpen_keeps (x : Ctx) (k : Cmd) :
    (x.streamOpen k).chip.boot = x.chip.boot ∧ (x.streamOpen k).chip.config = x.chip.config ∧
    (x.streamOpen k).chip.eng = x.chip.eng ∧ (x.streamOpen k).chip.mem = x.chip.mem ∧ (x.streamOpen k).chip.fab = x.chip.fab ∧
    (x.streamOpen k).chip.power = x.chip.power ∧ (x.streamOpen k).c = x.c ∧ (x.streamOpen k).now = x.now := by
  unfold Ctx.streamOpen; dsimp only; (repeat' split) <;> simp

@[simp] theorem Ctx.streamClose_keeps (x : Ctx) (k : Cmd) :
    (x.streamClose k).chip.boot = x.chip.boot ∧ (x.streamClose k).chip.config = x.chip.config ∧
    (x.streamClose k).chip.fab = x.chip.fab ∧ (x.streamClose k).chip.power = x.chip.power ∧ (x.streamClose k).c = x.c ∧
    (x.streamClose k).now = x.now := by
  unfold Ctx.streamClose; simp

@[simp] theorem Ctx.streamCloseFree_keeps (x : Ctx) (k : Cmd) :
    (x.streamCloseFree k).chip.boot = x.chip.boot ∧ (x.streamCloseFree k).chip.config = x.chip.config ∧
    (x.streamCloseFree k).chip.fab = x.chip.fab ∧ (x.streamCloseFree k).chip.power = x.chip.power ∧
    (x.streamCloseFree k).c = x.c ∧ (x.streamCloseFree k).now = x.now := by
  unfold Ctx.streamCloseFree; simp

@[simp] theorem Ctx.markLate_keeps (x : Ctx) (i : Nat) (gen : Nat) :
    (x.markLate i gen).chip.boot = x.chip.boot ∧ (x.markLate i gen).chip.bar = x.chip.bar ∧
    (x.markLate i gen).chip.stew = x.chip.stew ∧ (x.markLate i gen).chip.config = x.chip.config ∧
    (x.markLate i gen).chip.eng = x.chip.eng ∧ (x.markLate i gen).chip.mem = x.chip.mem ∧
    (x.markLate i gen).chip.fab = x.chip.fab ∧ (x.markLate i gen).chip.power = x.chip.power ∧
    (x.markLate i gen).chip.obs = x.chip.obs ∧ (x.markLate i gen).chip.ledger = x.chip.ledger ∧ (x.markLate i gen).c = x.c ∧
    (x.markLate i gen).now = x.now := by
  unfold Ctx.markLate; simp

@[simp] theorem Ctx.streamCancel_keeps (x : Ctx) (k : Cmd) :
    (x.streamCancel k).chip.boot = x.chip.boot ∧ (x.streamCancel k).chip.config = x.chip.config ∧
    (x.streamCancel k).chip.fab = x.chip.fab ∧ (x.streamCancel k).chip.power = x.chip.power ∧ (x.streamCancel k).c = x.c ∧
    (x.streamCancel k).now = x.now := by
  unfold Ctx.streamCancel
  refine ⟨?_, ?_, ?_, ?_, ?_, ?_⟩
  · apply Ctx.onStreamCmd_boot; intros; dsimp only; (repeat' split) <;> simp
  · apply Ctx.onStreamCmd_config; intros; dsimp only; (repeat' split) <;> simp
  · apply Ctx.onStreamCmd_fab; intros; dsimp only; (repeat' split) <;> simp
  · apply Ctx.onStreamCmd_power; intros; dsimp only; (repeat' split) <;> simp
  · apply Ctx.onStreamCmd_c; intros; dsimp only; (repeat' split) <;> simp
  · apply Ctx.onStreamCmd_now; intros; dsimp only; (repeat' split) <;> simp

@[simp] theorem Ctx.frameMapFresh_keeps (x : Ctx) (k : Cmd) :
    (x.frameMapFresh k).chip.boot = x.chip.boot ∧ (x.frameMapFresh k).chip.config = x.chip.config ∧
    (x.frameMapFresh k).chip.eng = x.chip.eng ∧ (x.frameMapFresh k).chip.mem = x.chip.mem ∧
    (x.frameMapFresh k).chip.fab = x.chip.fab ∧ (x.frameMapFresh k).chip.power = x.chip.power ∧ (x.frameMapFresh k).c = x.c ∧
    (x.frameMapFresh k).now = x.now := by
  unfold Ctx.frameMapFresh; simp

@[simp] theorem Ctx.frameMapShare_keeps (x : Ctx) (k : Cmd) :
    (x.frameMapShare k).chip.boot = x.chip.boot ∧ (x.frameMapShare k).chip.config = x.chip.config ∧
    (x.frameMapShare k).chip.eng = x.chip.eng ∧ (x.frameMapShare k).chip.mem = x.chip.mem ∧
    (x.frameMapShare k).chip.fab = x.chip.fab ∧ (x.frameMapShare k).chip.power = x.chip.power ∧ (x.frameMapShare k).c = x.c ∧
    (x.frameMapShare k).now = x.now := by
  unfold Ctx.frameMapShare; split
  · simp
  refine ⟨?_, ?_, ?_, ?_, ?_, ?_, ?_, ?_⟩
  · apply Ctx.onStreamCmd_boot; intros; dsimp only; (repeat' split) <;> simp
  · apply Ctx.onStreamCmd_config; intros; dsimp only; (repeat' split) <;> simp
  · apply Ctx.onStreamCmd_eng; intros; dsimp only; (repeat' split) <;> simp
  · apply Ctx.onStreamCmd_mem; intros; dsimp only; (repeat' split) <;> simp
  · apply Ctx.onStreamCmd_fab; intros; dsimp only; (repeat' split) <;> simp
  · apply Ctx.onStreamCmd_power; intros; dsimp only; (repeat' split) <;> simp
  · apply Ctx.onStreamCmd_c; intros; dsimp only; (repeat' split) <;> simp
  · apply Ctx.onStreamCmd_now; intros; dsimp only; (repeat' split) <;> simp

@[simp] theorem Ctx.frameRelease_keeps (x : Ctx) (k : Cmd) :
    (x.frameRelease k).chip.boot = x.chip.boot ∧ (x.frameRelease k).chip.config = x.chip.config ∧
    (x.frameRelease k).chip.fab = x.chip.fab ∧ (x.frameRelease k).chip.power = x.chip.power ∧ (x.frameRelease k).c = x.c ∧
    (x.frameRelease k).now = x.now := by
  unfold Ctx.frameRelease; simp

end Sys2Proof.Machine
end

