-- ==== Sys2Proof/Laws/FrameEngine.lean ====
section
/-! SUPPORT. What the operations of Machine/Engine.lean leave unchanged of a chip. -/
namespace Sys2Proof.Machine

@[simp] theorem Ctx.setDie_keeps (x : Ctx) (d : Nat) (v : Die) :
    (x.setDie d v).chip.boot = x.chip.boot ∧ (x.setDie d v).chip.bar = x.chip.bar ∧ (x.setDie d v).chip.stew = x.chip.stew ∧
    (x.setDie d v).chip.config = x.chip.config ∧ (x.setDie d v).chip.serve = x.chip.serve ∧
    (x.setDie d v).chip.mem = x.chip.mem ∧ (x.setDie d v).chip.fab = x.chip.fab ∧ (x.setDie d v).chip.power = x.chip.power ∧
    (x.setDie d v).chip.obs = x.chip.obs ∧ (x.setDie d v).chip.ledger = x.chip.ledger ∧ (x.setDie d v).c = x.c ∧
    (x.setDie d v).now = x.now := by
  unfold Ctx.setDie; simp

@[simp] theorem Ctx.setComb_keeps (x : Ctx) (k : Nat) (v : Comb) :
    (x.setComb k v).chip.boot = x.chip.boot ∧ (x.setComb k v).chip.bar = x.chip.bar ∧ (x.setComb k v).chip.stew = x.chip.stew ∧
    (x.setComb k v).chip.config = x.chip.config ∧ (x.setComb k v).chip.serve = x.chip.serve ∧
    (x.setComb k v).chip.mem = x.chip.mem ∧ (x.setComb k v).chip.fab = x.chip.fab ∧ (x.setComb k v).chip.power = x.chip.power ∧
    (x.setComb k v).chip.obs = x.chip.obs ∧ (x.setComb k v).chip.ledger = x.chip.ledger ∧ (x.setComb k v).c = x.c ∧
    (x.setComb k v).now = x.now := by
  unfold Ctx.setComb; simp

@[simp] theorem Ctx.setForager_keeps (x : Ctx) (f : Nat) (v : Forager) :
    (x.setForager f v).chip.boot = x.chip.boot ∧ (x.setForager f v).chip.bar = x.chip.bar ∧
    (x.setForager f v).chip.stew = x.chip.stew ∧ (x.setForager f v).chip.config = x.chip.config ∧
    (x.setForager f v).chip.serve = x.chip.serve ∧ (x.setForager f v).chip.mem = x.chip.mem ∧
    (x.setForager f v).chip.fab = x.chip.fab ∧ (x.setForager f v).chip.power = x.chip.power ∧
    (x.setForager f v).chip.obs = x.chip.obs ∧ (x.setForager f v).chip.ledger = x.chip.ledger ∧ (x.setForager f v).c = x.c ∧
    (x.setForager f v).now = x.now := by
  unfold Ctx.setForager; simp

@[simp] theorem Ctx.onStep_keeps (x : Ctx) (id : Nat) (f : StepRec → StepRec) :
    (x.onStep id f).chip.boot = x.chip.boot ∧ (x.onStep id f).chip.bar = x.chip.bar ∧ (x.onStep id f).chip.stew = x.chip.stew ∧
    (x.onStep id f).chip.config = x.chip.config ∧ (x.onStep id f).chip.eng = x.chip.eng ∧
    (x.onStep id f).chip.mem = x.chip.mem ∧ (x.onStep id f).chip.fab = x.chip.fab ∧ (x.onStep id f).chip.power = x.chip.power ∧
    (x.onStep id f).chip.obs = x.chip.obs ∧ (x.onStep id f).chip.ledger = x.chip.ledger ∧ (x.onStep id f).c = x.c ∧
    (x.onStep id f).now = x.now := by
  unfold Ctx.onStep; simp

@[simp] theorem Ctx.dropStep_keeps (x : Ctx) (id : Nat) :
    (x.dropStep id).chip.boot = x.chip.boot ∧ (x.dropStep id).chip.bar = x.chip.bar ∧ (x.dropStep id).chip.stew = x.chip.stew ∧
    (x.dropStep id).chip.config = x.chip.config ∧ (x.dropStep id).chip.eng = x.chip.eng ∧
    (x.dropStep id).chip.mem = x.chip.mem ∧ (x.dropStep id).chip.fab = x.chip.fab ∧ (x.dropStep id).chip.power = x.chip.power ∧
    (x.dropStep id).chip.obs = x.chip.obs ∧ (x.dropStep id).chip.ledger = x.chip.ledger ∧ (x.dropStep id).c = x.c ∧
    (x.dropStep id).now = x.now := by
  unfold Ctx.dropStep; simp

@[simp] theorem Ctx.logStepError_keeps (x : Ctx) (id : Nat) (status : Nat) (r0 : Nat) (r1 : Nat) :
    (x.logStepError id status r0 r1).chip.boot = x.chip.boot ∧ (x.logStepError id status r0 r1).chip.bar = x.chip.bar ∧
    (x.logStepError id status r0 r1).chip.stew = x.chip.stew ∧ (x.logStepError id status r0 r1).chip.config = x.chip.config ∧
    (x.logStepError id status r0 r1).chip.serve = x.chip.serve ∧ (x.logStepError id status r0 r1).chip.eng = x.chip.eng ∧
    (x.logStepError id status r0 r1).chip.mem = x.chip.mem ∧ (x.logStepError id status r0 r1).chip.fab = x.chip.fab ∧
    (x.logStepError id status r0 r1).chip.power = x.chip.power ∧ (x.logStepError id status r0 r1).chip.ledger = x.chip.ledger ∧
    (x.logStepError id status r0 r1).c = x.c ∧ (x.logStepError id status r0 r1).now = x.now := by
  unfold Ctx.logStepError; (repeat' split) <;> simp

@[simp] theorem Ctx.stepError_keeps (x : Ctx) (id : Nat) (status : Nat) (r0 : Nat) (r1 : Nat) :
    (x.stepError id status r0 r1).chip.boot = x.chip.boot ∧ (x.stepError id status r0 r1).chip.bar = x.chip.bar ∧
    (x.stepError id status r0 r1).chip.stew = x.chip.stew ∧ (x.stepError id status r0 r1).chip.config = x.chip.config ∧
    (x.stepError id status r0 r1).chip.eng = x.chip.eng ∧ (x.stepError id status r0 r1).chip.mem = x.chip.mem ∧
    (x.stepError id status r0 r1).chip.fab = x.chip.fab ∧ (x.stepError id status r0 r1).chip.power = x.chip.power ∧
    (x.stepError id status r0 r1).chip.ledger = x.chip.ledger ∧ (x.stepError id status r0 r1).c = x.c ∧
    (x.stepError id status r0 r1).now = x.now := by
  unfold Ctx.stepError; simp

@[simp] theorem Ctx.samples_keeps (x : Ctx) (k : Nat) (n : Nat) (event : Nat) (lg : Nat) (old : Nat) (amount : Nat) (held : Option QDesc) :
    (x.samples k n event lg old amount held).chip.boot = x.chip.boot ∧
    (x.samples k n event lg old amount held).chip.config = x.chip.config ∧
    (x.samples k n event lg old amount held).chip.serve = x.chip.serve ∧
    (x.samples k n event lg old amount held).chip.eng = x.chip.eng ∧
    (x.samples k n event lg old amount held).chip.mem = x.chip.mem ∧
    (x.samples k n event lg old amount held).chip.fab = x.chip.fab ∧
    (x.samples k n event lg old amount held).chip.power = x.chip.power ∧ (x.samples k n event lg old amount held).c = x.c ∧
    (x.samples k n event lg old amount held).now = x.now := by
  unfold Ctx.samples; simp

@[simp] theorem Ctx.combEvents_keeps (x : Ctx) (k : Nat) (held : Option QDesc) (l : List (Nat × Nat)) :
    (x.combEvents k held l).chip.boot = x.chip.boot ∧ (x.combEvents k held l).chip.config = x.chip.config ∧
    (x.combEvents k held l).chip.serve = x.chip.serve ∧ (x.combEvents k held l).chip.eng = x.chip.eng ∧
    (x.combEvents k held l).chip.mem = x.chip.mem ∧ (x.combEvents k held l).chip.fab = x.chip.fab ∧
    (x.combEvents k held l).chip.power = x.chip.power ∧ (x.combEvents k held l).c = x.c ∧ (x.combEvents k held l).now = x.now := by
  unfold Ctx.combEvents; simp

@[simp] theorem Ctx.pushWork_keeps (x : Ctx) (d : Nat) (q : QDesc) :
    (x.pushWork d q).chip.bar = x.chip.bar ∧ (x.pushWork d q).chip.stew = x.chip.stew ∧
    (x.pushWork d q).chip.config = x.chip.config ∧ (x.pushWork d q).chip.serve = x.chip.serve ∧
    (x.pushWork d q).chip.mem = x.chip.mem ∧ (x.pushWork d q).chip.fab = x.chip.fab ∧
    (x.pushWork d q).chip.power = x.chip.power ∧ (x.pushWork d q).chip.ledger = x.chip.ledger ∧ (x.pushWork d q).c = x.c ∧
    (x.pushWork d q).now = x.now := by
  unfold Ctx.pushWork; simp

@[simp] theorem Ctx.popWork_keeps (x : Ctx) (d : Nat) :
    (x.popWork d).chip.boot = x.chip.boot ∧ (x.popWork d).chip.bar = x.chip.bar ∧ (x.popWork d).chip.stew = x.chip.stew ∧
    (x.popWork d).chip.config = x.chip.config ∧ (x.popWork d).chip.serve = x.chip.serve ∧ (x.popWork d).chip.mem = x.chip.mem ∧
    (x.popWork d).chip.fab = x.chip.fab ∧ (x.popWork d).chip.power = x.chip.power ∧ (x.popWork d).chip.ledger = x.chip.ledger ∧
    (x.popWork d).c = x.c ∧ (x.popWork d).now = x.now := by
  unfold Ctx.popWork; dsimp only; (repeat' split) <;> simp

@[simp] theorem Ctx.placeCopy_keeps (x : Ctx) (j : CopyJob) :
    (x.placeCopy j).chip.bar = x.chip.bar ∧ (x.placeCopy j).chip.stew = x.chip.stew ∧
    (x.placeCopy j).chip.config = x.chip.config ∧ (x.placeCopy j).chip.serve = x.chip.serve ∧
    (x.placeCopy j).chip.mem = x.chip.mem ∧ (x.placeCopy j).chip.fab = x.chip.fab ∧ (x.placeCopy j).chip.power = x.chip.power ∧
    (x.placeCopy j).chip.ledger = x.chip.ledger ∧ (x.placeCopy j).c = x.c ∧ (x.placeCopy j).now = x.now := by
  unfold Ctx.placeCopy; simp

@[simp] theorem Ctx.refillCopies_keeps (x : Ctx) :
    (x.refillCopies).chip.bar = x.chip.bar ∧ (x.refillCopies).chip.stew = x.chip.stew ∧
    (x.refillCopies).chip.config = x.chip.config ∧ (x.refillCopies).chip.serve = x.chip.serve ∧
    (x.refillCopies).chip.mem = x.chip.mem ∧ (x.refillCopies).chip.fab = x.chip.fab ∧
    (x.refillCopies).chip.power = x.chip.power ∧ (x.refillCopies).chip.ledger = x.chip.ledger ∧ (x.refillCopies).c = x.c ∧
    (x.refillCopies).now = x.now := by
  unfold Ctx.refillCopies; simp

@[simp] theorem Ctx.signalToken_keeps (x : Ctx) (d : Nat) (step : Nat) (b : Bytes) :
    (x.signalToken d step b).chip.boot = x.chip.boot ∧ (x.signalToken d step b).chip.bar = x.chip.bar ∧
    (x.signalToken d step b).chip.stew = x.chip.stew ∧ (x.signalToken d step b).chip.config = x.chip.config ∧
    (x.signalToken d step b).chip.serve = x.chip.serve ∧ (x.signalToken d step b).chip.mem = x.chip.mem ∧
    (x.signalToken d step b).chip.fab = x.chip.fab ∧ (x.signalToken d step b).chip.power = x.chip.power ∧
    (x.signalToken d step b).chip.obs = x.chip.obs ∧ (x.signalToken d step b).chip.ledger = x.chip.ledger ∧
    (x.signalToken d step b).c = x.c ∧ (x.signalToken d step b).now = x.now := by
  unfold Ctx.signalToken; simp

@[simp] theorem Ctx.issueDue_keeps (x : Ctx) (id : Nat) (z1 : Nat) :
    (x.issueDue id z1).chip.bar = x.chip.bar ∧ (x.issueDue id z1).chip.stew = x.chip.stew ∧
    (x.issueDue id z1).chip.config = x.chip.config ∧ (x.issueDue id z1).chip.mem = x.chip.mem ∧
    (x.issueDue id z1).chip.fab = x.chip.fab ∧ (x.issueDue id z1).chip.power = x.chip.power ∧
    (x.issueDue id z1).chip.ledger = x.chip.ledger ∧ (x.issueDue id z1).c = x.c ∧ (x.issueDue id z1).now = x.now := by
  induction z1 generalizing x id <;> (simp only [Ctx.issueDue]; (repeat' split) <;> simp_all)

@[simp] theorem Ctx.descEnd_keeps (x : Ctx) (d : Nat) (step : Nat) (b : Bytes) :
    (x.descEnd d step b).chip.bar = x.chip.bar ∧ (x.descEnd d step b).chip.stew = x.chip.stew ∧
    (x.descEnd d step b).chip.config = x.chip.config ∧ (x.descEnd d step b).chip.mem = x.chip.mem ∧
    (x.descEnd d step b).chip.fab = x.chip.fab ∧ (x.descEnd d step b).chip.power = x.chip.power ∧
    (x.descEnd d step b).chip.ledger = x.chip.ledger ∧ (x.descEnd d step b).c = x.c ∧ (x.descEnd d step b).now = x.now := by
  unfold Ctx.descEnd; simp

@[simp] theorem Ctx.waitCounts_keeps (x : Ctx) (d : Nat) (k : Nat) (q : QDesc) (w : TokenWait) :
    (x.waitCounts d k q w).chip.boot = x.chip.boot ∧ (x.waitCounts d k q w).chip.config = x.chip.config ∧
    (x.waitCounts d k q w).chip.serve = x.chip.serve ∧ (x.waitCounts d k q w).chip.eng = x.chip.eng ∧
    (x.waitCounts d k q w).chip.mem = x.chip.mem ∧ (x.waitCounts d k q w).chip.fab = x.chip.fab ∧
    (x.waitCounts d k q w).chip.power = x.chip.power ∧ (x.waitCounts d k q w).c = x.c ∧ (x.waitCounts d k q w).now = x.now := by
  unfold Ctx.waitCounts; simp

@[simp] theorem Ctx.dropWait_keeps (x : Ctx) (id : Nat) (d : Nat) :
    (x.dropWait id d).chip.boot = x.chip.boot ∧ (x.dropWait id d).chip.config = x.chip.config ∧
    (x.dropWait id d).chip.serve = x.chip.serve ∧ (x.dropWait id d).chip.eng = x.chip.eng ∧
    (x.dropWait id d).chip.mem = x.chip.mem ∧ (x.dropWait id d).chip.fab = x.chip.fab ∧
    (x.dropWait id d).chip.power = x.chip.power ∧ (x.dropWait id d).c = x.c ∧ (x.dropWait id d).now = x.now := by
  unfold Ctx.dropWait; dsimp only; (repeat' split) <;> simp

@[simp] theorem Ctx.purge_keeps (x : Ctx) (id : Nat) :
    (x.purge id).chip.config = x.chip.config ∧ (x.purge id).chip.serve = x.chip.serve ∧ (x.purge id).chip.mem = x.chip.mem ∧
    (x.purge id).chip.fab = x.chip.fab ∧ (x.purge id).chip.power = x.chip.power ∧ (x.purge id).c = x.c ∧
    (x.purge id).now = x.now := by
  unfold Ctx.purge; simp

@[simp] theorem Ctx.copyBytes_keeps (x : Ctx) (super : Option Nat) (p : Spc) (a : Nat) (q : Spc) (b : Nat) (n : Nat) :
    (x.copyBytes super p a q b n).1.chip.boot = x.chip.boot ∧ (x.copyBytes super p a q b n).1.chip.config = x.chip.config ∧
    (x.copyBytes super p a q b n).1.chip.serve = x.chip.serve ∧ (x.copyBytes super p a q b n).1.chip.fab = x.chip.fab ∧
    (x.copyBytes super p a q b n).1.chip.power = x.chip.power ∧ (x.copyBytes super p a q b n).1.c = x.c ∧
    (x.copyBytes super p a q b n).1.now = x.now := by
  unfold Ctx.copyBytes; simp

end Sys2Proof.Machine
end

