-- ==== Sys2Proof/Laws/FrameSteps.lean ====
section
/-! SUPPORT. What the operations of Machine/Steps.lean leave unchanged of a chip. -/
namespace Sys2Proof.Machine

@[simp] theorem Ctx.settleSwap_keeps (x : Ctx) (m : Nat) :
    (x.settleSwap m).chip.boot = x.chip.boot ∧ (x.settleSwap m).chip.bar = x.chip.bar ∧
    (x.settleSwap m).chip.stew = x.chip.stew ∧ (x.settleSwap m).chip.config = x.chip.config ∧
    (x.settleSwap m).chip.eng = x.chip.eng ∧ (x.settleSwap m).chip.mem = x.chip.mem ∧ (x.settleSwap m).chip.fab = x.chip.fab ∧
    (x.settleSwap m).chip.power = x.chip.power ∧ (x.settleSwap m).chip.obs = x.chip.obs ∧
    (x.settleSwap m).chip.ledger = x.chip.ledger ∧ (x.settleSwap m).c = x.c ∧ (x.settleSwap m).now = x.now := by
  unfold Ctx.settleSwap; simp

@[simp] theorem Ctx.settleStep_keeps (x : Ctx) (t : Option StepRec) :
    (x.settleStep t).chip.boot = x.chip.boot ∧ (x.settleStep t).chip.bar = x.chip.bar ∧
    (x.settleStep t).chip.stew = x.chip.stew ∧ (x.settleStep t).chip.config = x.chip.config ∧
    (x.settleStep t).chip.eng = x.chip.eng ∧ (x.settleStep t).chip.mem = x.chip.mem ∧ (x.settleStep t).chip.fab = x.chip.fab ∧
    (x.settleStep t).chip.power = x.chip.power ∧ (x.settleStep t).chip.obs = x.chip.obs ∧
    (x.settleStep t).chip.ledger = x.chip.ledger ∧ (x.settleStep t).c = x.c ∧ (x.settleStep t).now = x.now := by
  unfold Ctx.settleStep; (repeat' split) <;> simp_all

@[simp] theorem Ctx.planRefuse_keeps (x : Ctx) (k : Cmd) (f : PlanFail) :
    (x.planRefuse k f).chip.boot = x.chip.boot ∧ (x.planRefuse k f).chip.config = x.chip.config ∧
    (x.planRefuse k f).chip.eng = x.chip.eng ∧ (x.planRefuse k f).chip.mem = x.chip.mem ∧
    (x.planRefuse k f).chip.fab = x.chip.fab ∧ (x.planRefuse k f).chip.power = x.chip.power ∧ (x.planRefuse k f).c = x.c ∧
    (x.planRefuse k f).now = x.now := by
  unfold Ctx.planRefuse; simp

@[simp] theorem Ctx.addStep_keeps (x : Ctx) (t : StepRec) :
    (x.addStep t).chip.boot = x.chip.boot ∧ (x.addStep t).chip.bar = x.chip.bar ∧ (x.addStep t).chip.stew = x.chip.stew ∧
    (x.addStep t).chip.config = x.chip.config ∧ (x.addStep t).chip.eng = x.chip.eng ∧ (x.addStep t).chip.mem = x.chip.mem ∧
    (x.addStep t).chip.fab = x.chip.fab ∧ (x.addStep t).chip.power = x.chip.power ∧ (x.addStep t).chip.obs = x.chip.obs ∧
    (x.addStep t).chip.ledger = x.chip.ledger ∧ (x.addStep t).c = x.c ∧ (x.addStep t).now = x.now := by
  unfold Ctx.addStep; simp

@[simp] theorem Ctx.stepSubmit_keeps (x : Ctx) (k : Cmd) (plan : Bytes) :
    (x.stepSubmit k plan).chip.boot = x.chip.boot ∧ (x.stepSubmit k plan).chip.config = x.chip.config ∧
    (x.stepSubmit k plan).chip.eng = x.chip.eng ∧ (x.stepSubmit k plan).chip.mem = x.chip.mem ∧
    (x.stepSubmit k plan).chip.fab = x.chip.fab ∧ (x.stepSubmit k plan).chip.power = x.chip.power ∧
    (x.stepSubmit k plan).c = x.c ∧ (x.stepSubmit k plan).now = x.now := by
  unfold Ctx.stepSubmit; dsimp only; (repeat' split) <;> simp

@[simp] theorem Ctx.wakeDispatch_keeps (x : Ctx) :
    (x.wakeDispatch).chip.bar = x.chip.bar ∧ (x.wakeDispatch).chip.stew = x.chip.stew ∧
    (x.wakeDispatch).chip.config = x.chip.config ∧ (x.wakeDispatch).chip.serve = x.chip.serve ∧
    (x.wakeDispatch).chip.eng = x.chip.eng ∧ (x.wakeDispatch).chip.mem = x.chip.mem ∧
    (x.wakeDispatch).chip.power = x.chip.power ∧ (x.wakeDispatch).chip.obs = x.chip.obs ∧
    (x.wakeDispatch).chip.ledger = x.chip.ledger ∧ (x.wakeDispatch).c = x.c ∧ (x.wakeDispatch).now = x.now := by
  unfold Ctx.wakeDispatch; simp

@[simp] theorem Ctx.planReady_keeps (x : Ctx) (id : Nat) (tokens : List (Option (List Word32))) :
    (x.planReady id tokens).chip.config = x.chip.config ∧ (x.planReady id tokens).chip.eng = x.chip.eng ∧
    (x.planReady id tokens).chip.mem = x.chip.mem ∧ (x.planReady id tokens).chip.power = x.chip.power ∧
    (x.planReady id tokens).c = x.c ∧ (x.planReady id tokens).now = x.now := by
  unfold Ctx.planReady; dsimp only; (repeat' split) <;> simp

@[simp] theorem Ctx.copyOnWrite_keeps (x : Ctx) (s : Nat) (n : Nat) (z2 : List Nat) :
    (x.copyOnWrite s n z2).1.chip.boot = x.chip.boot ∧ (x.copyOnWrite s n z2).1.chip.config = x.chip.config ∧
    (x.copyOnWrite s n z2).1.chip.fab = x.chip.fab ∧ (x.copyOnWrite s n z2).1.chip.power = x.chip.power ∧
    (x.copyOnWrite s n z2).1.c = x.c ∧ (x.copyOnWrite s n z2).1.now = x.now := by
  induction z2 generalizing x s n <;> (simp only [Ctx.copyOnWrite]; (repeat' split) <;> simp_all)

@[simp] theorem Ctx.dispatchEntry_keeps (x : Ctx) (s : Nat) (layers : Nat) (e : PlanEntry) :
    (x.dispatchEntry s layers e).1.chip.boot = x.chip.boot ∧ (x.dispatchEntry s layers e).1.chip.config = x.chip.config ∧
    (x.dispatchEntry s layers e).1.chip.fab = x.chip.fab ∧ (x.dispatchEntry s layers e).1.chip.power = x.chip.power ∧
    (x.dispatchEntry s layers e).1.c = x.c ∧ (x.dispatchEntry s layers e).1.now = x.now := by
  unfold Ctx.dispatchEntry; dsimp only; (repeat' split) <;> simp

@[simp] theorem Ctx.dispatchEntries_keeps (x : Ctx) (s : Nat) (layers : Nat) (z2 : List PlanEntry) :
    (x.dispatchEntries s layers z2).1.chip.boot = x.chip.boot ∧ (x.dispatchEntries s layers z2).1.chip.config = x.chip.config ∧
    (x.dispatchEntries s layers z2).1.chip.fab = x.chip.fab ∧ (x.dispatchEntries s layers z2).1.chip.power = x.chip.power ∧
    (x.dispatchEntries s layers z2).1.c = x.c ∧ (x.dispatchEntries s layers z2).1.now = x.now := by
  induction z2 generalizing x s layers <;> simp_all [Ctx.dispatchEntries]

@[simp] theorem Ctx.traceStep_keeps (x : Ctx) (k : Cmd) (t : StepRec) (what : Nat) (status : Nat) :
    (x.traceStep k t what status).chip.boot = x.chip.boot ∧ (x.traceStep k t what status).chip.bar = x.chip.bar ∧
    (x.traceStep k t what status).chip.stew = x.chip.stew ∧ (x.traceStep k t what status).chip.config = x.chip.config ∧
    (x.traceStep k t what status).chip.serve = x.chip.serve ∧ (x.traceStep k t what status).chip.eng = x.chip.eng ∧
    (x.traceStep k t what status).chip.mem = x.chip.mem ∧ (x.traceStep k t what status).chip.fab = x.chip.fab ∧
    (x.traceStep k t what status).chip.power = x.chip.power ∧ (x.traceStep k t what status).chip.ledger = x.chip.ledger ∧
    (x.traceStep k t what status).c = x.c ∧ (x.traceStep k t what status).now = x.now := by
  unfold Ctx.traceStep; simp

@[simp] theorem Ctx.stepDispatch_keeps (x : Ctx) (id : Nat) :
    (x.stepDispatch id).chip.config = x.chip.config ∧ (x.stepDispatch id).chip.power = x.chip.power ∧
    (x.stepDispatch id).c = x.c ∧ (x.stepDispatch id).now = x.now := by
  unfold Ctx.stepDispatch; dsimp only; (repeat' split) <;> simp

@[simp] theorem Ctx.endStep_keeps (x : Ctx) (k : Cmd) (t : StepRec) (late : Bool) (status : Nat) (r0 : Nat) (r1 : Nat) (out : Bytes) :
    (x.endStep k t late status r0 r1 out).chip.boot = x.chip.boot ∧
    (x.endStep k t late status r0 r1 out).chip.config = x.chip.config ∧
    (x.endStep k t late status r0 r1 out).chip.eng = x.chip.eng ∧ (x.endStep k t late status r0 r1 out).chip.mem = x.chip.mem ∧
    (x.endStep k t late status r0 r1 out).chip.fab = x.chip.fab ∧
    (x.endStep k t late status r0 r1 out).chip.power = x.chip.power ∧ (x.endStep k t late status r0 r1 out).c = x.c ∧
    (x.endStep k t late status r0 r1 out).now = x.now := by
  unfold Ctx.endStep; simp

@[simp] theorem Ctx.errorEntry_keeps (x : Ctx) (s : Nat) (verify : Bool) (e : PlanEntry) :
    (x.errorEntry s verify e).chip.boot = x.chip.boot ∧ (x.errorEntry s verify e).chip.bar = x.chip.bar ∧
    (x.errorEntry s verify e).chip.stew = x.chip.stew ∧ (x.errorEntry s verify e).chip.config = x.chip.config ∧
    (x.errorEntry s verify e).chip.fab = x.chip.fab ∧ (x.errorEntry s verify e).chip.power = x.chip.power ∧
    (x.errorEntry s verify e).chip.ledger = x.chip.ledger ∧ (x.errorEntry s verify e).c = x.c ∧
    (x.errorEntry s verify e).now = x.now := by
  unfold Ctx.errorEntry; simp

@[simp] theorem Ctx.errorEnd_keeps (x : Ctx) (k : Cmd) (t : StepRec) (status : Nat) (r0 : Nat) (r1 : Nat) :
    (x.errorEnd k t status r0 r1).chip.config = x.chip.config ∧ (x.errorEnd k t status r0 r1).chip.fab = x.chip.fab ∧
    (x.errorEnd k t status r0 r1).chip.power = x.chip.power ∧ (x.errorEnd k t status r0 r1).c = x.c ∧
    (x.errorEnd k t status r0 r1).now = x.now := by
  unfold Ctx.errorEnd; simp

@[simp] theorem Ctx.writeSlots_keeps (x : Ctx) (s : Nat) (table : List (List Nat)) (lo : Nat) (n : Nat) :
    (x.writeSlots s table lo n).chip.boot = x.chip.boot ∧ (x.writeSlots s table lo n).chip.config = x.chip.config ∧
    (x.writeSlots s table lo n).chip.serve = x.chip.serve ∧ (x.writeSlots s table lo n).chip.fab = x.chip.fab ∧
    (x.writeSlots s table lo n).chip.power = x.chip.power ∧ (x.writeSlots s table lo n).c = x.c ∧
    (x.writeSlots s table lo n).now = x.now := by
  unfold Ctx.writeSlots; simp

@[simp] theorem Ctx.commitEntry_keeps (x : Ctx) (t : StepRec) (g : Nat × Nat) (e : PlanEntry) (st : Staged) :
    (x.commitEntry t g e st).1.chip.boot = x.chip.boot ∧ (x.commitEntry t g e st).1.chip.config = x.chip.config ∧
    (x.commitEntry t g e st).1.chip.fab = x.chip.fab ∧ (x.commitEntry t g e st).1.chip.power = x.chip.power ∧
    (x.commitEntry t g e st).1.c = x.c ∧ (x.commitEntry t g e st).1.now = x.now := by
  unfold Ctx.commitEntry; dsimp only; (repeat' split) <;> simp

@[simp] theorem Ctx.commitEntries_keeps (x : Ctx) (t : StepRec) (g : Nat × Nat) (z2 : List PlanEntry) (z3 : List Staged) :
    (x.commitEntries t g z2 z3).1.chip.boot = x.chip.boot ∧ (x.commitEntries t g z2 z3).1.chip.config = x.chip.config ∧
    (x.commitEntries t g z2 z3).1.chip.fab = x.chip.fab ∧ (x.commitEntries t g z2 z3).1.chip.power = x.chip.power ∧
    (x.commitEntries t g z2 z3).1.c = x.c ∧ (x.commitEntries t g z2 z3).1.now = x.now := by
  induction z2 generalizing x z3 <;> simp_all [Ctx.commitEntries]

@[simp] theorem Ctx.commitStep_keeps (x : Ctx) (k : Cmd) (t : StepRec) (staged : List Staged) :
    (x.commitStep k t staged).chip.config = x.chip.config ∧ (x.commitStep k t staged).chip.fab = x.chip.fab ∧
    (x.commitStep k t staged).chip.power = x.chip.power ∧ (x.commitStep k t staged).c = x.c ∧
    (x.commitStep k t staged).now = x.now := by
  unfold Ctx.commitStep; simp

@[simp] theorem Ctx.leaveBarrier_keeps (x : Ctx) (id : Nat) :
    (x.leaveBarrier id).chip.config = x.chip.config ∧ (x.leaveBarrier id).chip.fab = x.chip.fab ∧
    (x.leaveBarrier id).chip.power = x.chip.power ∧ (x.leaveBarrier id).c = x.c ∧ (x.leaveBarrier id).now = x.now := by
  unfold Ctx.leaveBarrier; (repeat' split) <;> simp_all

@[simp] theorem Ctx.cancelRun_keeps (x : Ctx) (id : Nat) :
    (x.cancelRun id).chip.config = x.chip.config ∧ (x.cancelRun id).chip.fab = x.chip.fab ∧
    (x.cancelRun id).chip.power = x.chip.power ∧ (x.cancelRun id).c = x.c ∧ (x.cancelRun id).now = x.now := by
  unfold Ctx.cancelRun; simp

@[simp] theorem Ctx.fetch_keeps (x : Ctx) (q : Nat) (e : Bytes) :
    (x.fetch q e).chip.config = x.chip.config ∧ (x.fetch q e).chip.power = x.chip.power ∧ (x.fetch q e).c = x.c ∧
    (x.fetch q e).now = x.now := by
  unfold Ctx.fetch; simp

@[simp] theorem Ctx.readDescs_keeps (x : Ctx) (t : StepRec) (layer : Nat) (g : Seg) :
    (x.readDescs t layer g).1.chip.boot = x.chip.boot ∧ (x.readDescs t layer g).1.chip.config = x.chip.config ∧
    (x.readDescs t layer g).1.chip.eng = x.chip.eng ∧ (x.readDescs t layer g).1.chip.fab = x.chip.fab ∧
    (x.readDescs t layer g).1.chip.power = x.chip.power ∧ (x.readDescs t layer g).1.c = x.c ∧
    (x.readDescs t layer g).1.now = x.now := by
  unfold Ctx.readDescs; simp

@[simp] theorem Ctx.layerWork_keeps (x : Ctx) (t : StepRec) (m : Model) (layer : Nat) :
    (x.layerWork t m layer).1.chip.boot = x.chip.boot ∧ (x.layerWork t m layer).1.chip.config = x.chip.config ∧
    (x.layerWork t m layer).1.chip.eng = x.chip.eng ∧ (x.layerWork t m layer).1.chip.fab = x.chip.fab ∧
    (x.layerWork t m layer).1.chip.power = x.chip.power ∧ (x.layerWork t m layer).1.c = x.c ∧
    (x.layerWork t m layer).1.now = x.now := by
  unfold Ctx.layerWork; (try dsimp only); (repeat' split) <;> simp (disch := (intros; (try dsimp only); (repeat' split) <;> simp))

@[simp] theorem Ctx.unitWork_keeps (x : Ctx) (t : StepRec) (m : Model) (ops : List (Nat × QDesc)) (copies : List (Bytes × Option (Nat × Nat))) (layer : Nat) (z5 : Nat) :
    (x.unitWork t m ops copies layer z5).1.chip.boot = x.chip.boot ∧
    (x.unitWork t m ops copies layer z5).1.chip.config = x.chip.config ∧
    (x.unitWork t m ops copies layer z5).1.chip.eng = x.chip.eng ∧
    (x.unitWork t m ops copies layer z5).1.chip.fab = x.chip.fab ∧
    (x.unitWork t m ops copies layer z5).1.chip.power = x.chip.power ∧ (x.unitWork t m ops copies layer z5).1.c = x.c ∧
    (x.unitWork t m ops copies layer z5).1.now = x.now := by
  induction z5 generalizing x t m ops copies layer <;> (simp only [Ctx.unitWork]; simp_all)

@[simp] theorem Ctx.unitEntry_keeps (x : Ctx) (id : Nat) (unit : Nat) (ops : List (Fin 4 × Bytes)) (copies : List BuiltCopy) :
    (x.unitEntry id unit ops copies).chip.config = x.chip.config ∧
    (x.unitEntry id unit ops copies).chip.fab = x.chip.fab ∧
    (x.unitEntry id unit ops copies).chip.power = x.chip.power ∧ (x.unitEntry id unit ops copies).c = x.c ∧
    (x.unitEntry id unit ops copies).now = x.now := by
  unfold Ctx.unitEntry; dsimp only; (repeat' split) <;> simp

@[simp] theorem Ctx.stepCommit_keeps (x : Ctx) (id : Nat) (staged : List Staged) :
    (x.stepCommit id staged).chip.config = x.chip.config ∧ (x.stepCommit id staged).chip.fab = x.chip.fab ∧
    (x.stepCommit id staged).chip.power = x.chip.power ∧ (x.stepCommit id staged).c = x.c ∧ (x.stepCommit id staged).now = x.now := by
  unfold Ctx.stepCommit; (repeat' split) <;> simp_all

@[simp] theorem Ctx.writeRecords_keeps (x : Ctx) (k : Cmd) (t : StepRec) :
    (x.writeRecords k t).chip.boot = x.chip.boot ∧ (x.writeRecords k t).chip.config = x.chip.config ∧
    (x.writeRecords k t).chip.eng = x.chip.eng ∧ (x.writeRecords k t).chip.mem = x.chip.mem ∧
    (x.writeRecords k t).chip.fab = x.chip.fab ∧ (x.writeRecords k t).chip.power = x.chip.power ∧
    (x.writeRecords k t).c = x.c ∧ (x.writeRecords k t).now = x.now := by
  unfold Ctx.writeRecords; simp

@[simp] theorem Ctx.drainRecords_keeps (x : Ctx) :
    (x.drainRecords).chip.boot = x.chip.boot ∧ (x.drainRecords).chip.config = x.chip.config ∧
    (x.drainRecords).chip.eng = x.chip.eng ∧ (x.drainRecords).chip.mem = x.chip.mem ∧ (x.drainRecords).chip.fab = x.chip.fab ∧
    (x.drainRecords).chip.power = x.chip.power ∧ (x.drainRecords).c = x.c ∧ (x.drainRecords).now = x.now := by
  unfold Ctx.drainRecords; (repeat' split) <;> simp_all

@[simp] theorem Ctx.stepErrorEnd_keeps (x : Ctx) (id : Nat) (err : StepErr) :
    (x.stepErrorEnd id err).chip.config = x.chip.config ∧ (x.stepErrorEnd id err).chip.fab = x.chip.fab ∧
    (x.stepErrorEnd id err).chip.power = x.chip.power ∧ (x.stepErrorEnd id err).c = x.c ∧ (x.stepErrorEnd id err).now = x.now := by
  unfold Ctx.stepErrorEnd; (repeat' split) <;> simp_all

@[simp] theorem Ctx.holdLimit_keeps (x : Ctx) (id : Nat) :
    (x.holdLimit id).chip.config = x.chip.config ∧ (x.holdLimit id).chip.fab = x.chip.fab ∧
    (x.holdLimit id).chip.power = x.chip.power ∧ (x.holdLimit id).c = x.c ∧ (x.holdLimit id).now = x.now := by
  unfold Ctx.holdLimit; (repeat' split) <;> simp_all

@[simp] theorem Ctx.stepStall_keeps (x : Ctx) (id : Nat) (remote : Bool) :
    (x.stepStall id remote).chip.config = x.chip.config ∧ (x.stepStall id remote).chip.fab = x.chip.fab ∧
    (x.stepStall id remote).chip.power = x.chip.power ∧ (x.stepStall id remote).c = x.c ∧ (x.stepStall id remote).now = x.now := by
  unfold Ctx.stepStall; (repeat' split) <;> simp_all

@[simp] theorem Ctx.stepVerify_keeps (x : Ctx) (k : Cmd) (data : Bytes) :
    (x.stepVerify k data).chip.config = x.chip.config ∧ (x.stepVerify k data).chip.eng = x.chip.eng ∧
    (x.stepVerify k data).chip.mem = x.chip.mem ∧ (x.stepVerify k data).chip.fab = x.chip.fab ∧
    (x.stepVerify k data).chip.power = x.chip.power ∧ (x.stepVerify k data).c = x.c ∧ (x.stepVerify k data).now = x.now := by
  unfold Ctx.stepVerify; dsimp only; (repeat' split) <;> simp

@[simp] theorem Ctx.verifyCommitEntry_keeps (x : Ctx) (super : Nat) (e : PlanEntry) :
    (x.verifyCommitEntry super e).1.chip.boot = x.chip.boot ∧ (x.verifyCommitEntry super e).1.chip.bar = x.chip.bar ∧
    (x.verifyCommitEntry super e).1.chip.stew = x.chip.stew ∧ (x.verifyCommitEntry super e).1.chip.config = x.chip.config ∧
    (x.verifyCommitEntry super e).1.chip.fab = x.chip.fab ∧ (x.verifyCommitEntry super e).1.chip.power = x.chip.power ∧
    (x.verifyCommitEntry super e).1.chip.ledger = x.chip.ledger ∧ (x.verifyCommitEntry super e).1.c = x.c ∧
    (x.verifyCommitEntry super e).1.now = x.now := by
  unfold Ctx.verifyCommitEntry; dsimp only; (repeat' split) <;> simp

@[simp] theorem Ctx.verifyCommitEntries_keeps (x : Ctx) (super : Nat) (z1 : List PlanEntry) :
    (x.verifyCommitEntries super z1).1.chip.boot = x.chip.boot ∧ (x.verifyCommitEntries super z1).1.chip.bar = x.chip.bar ∧
    (x.verifyCommitEntries super z1).1.chip.stew = x.chip.stew ∧
    (x.verifyCommitEntries super z1).1.chip.config = x.chip.config ∧ (x.verifyCommitEntries super z1).1.chip.fab = x.chip.fab ∧
    (x.verifyCommitEntries super z1).1.chip.power = x.chip.power ∧
    (x.verifyCommitEntries super z1).1.chip.ledger = x.chip.ledger ∧ (x.verifyCommitEntries super z1).1.c = x.c ∧
    (x.verifyCommitEntries super z1).1.now = x.now := by
  induction z1 generalizing x super <;> simp_all [Ctx.verifyCommitEntries]

@[simp] theorem Ctx.verifyCommit_keeps (x : Ctx) (id : Nat) :
    (x.verifyCommit id).chip.boot = x.chip.boot ∧ (x.verifyCommit id).chip.bar = x.chip.bar ∧
    (x.verifyCommit id).chip.stew = x.chip.stew ∧ (x.verifyCommit id).chip.config = x.chip.config ∧
    (x.verifyCommit id).chip.fab = x.chip.fab ∧ (x.verifyCommit id).chip.power = x.chip.power ∧
    (x.verifyCommit id).chip.ledger = x.chip.ledger ∧ (x.verifyCommit id).c = x.c ∧ (x.verifyCommit id).now = x.now := by
  unfold Ctx.verifyCommit; dsimp only; (repeat' split) <;> simp

end Sys2Proof.Machine
end

