-- ==== Sys2Proof/Laws/FrameLink.lean ====
section
/-! SUPPORT. What the operations of Machine/Link.lean leave unchanged of a chip. -/
namespace Sys2Proof.Machine

@[simp] theorem Ctx.setPort_keeps (x : Ctx) (p : Nat) (v : Port) :
    (x.setPort p v).chip.boot = x.chip.boot ∧ (x.setPort p v).chip.bar = x.chip.bar ∧ (x.setPort p v).chip.stew = x.chip.stew ∧
    (x.setPort p v).chip.config = x.chip.config ∧ (x.setPort p v).chip.serve = x.chip.serve ∧
    (x.setPort p v).chip.eng = x.chip.eng ∧ (x.setPort p v).chip.mem = x.chip.mem ∧ (x.setPort p v).chip.power = x.chip.power ∧
    (x.setPort p v).chip.obs = x.chip.obs ∧ (x.setPort p v).chip.ledger = x.chip.ledger ∧ (x.setPort p v).c = x.c ∧
    (x.setPort p v).now = x.now := by
  unfold Ctx.setPort; simp

@[simp] theorem Ctx.onPort_keeps (x : Ctx) (p : Nat) (f : Port → Port) :
    (x.onPort p f).chip.boot = x.chip.boot ∧ (x.onPort p f).chip.bar = x.chip.bar ∧ (x.onPort p f).chip.stew = x.chip.stew ∧
    (x.onPort p f).chip.config = x.chip.config ∧ (x.onPort p f).chip.serve = x.chip.serve ∧
    (x.onPort p f).chip.eng = x.chip.eng ∧ (x.onPort p f).chip.mem = x.chip.mem ∧ (x.onPort p f).chip.power = x.chip.power ∧
    (x.onPort p f).chip.obs = x.chip.obs ∧ (x.onPort p f).chip.ledger = x.chip.ledger ∧ (x.onPort p f).c = x.c ∧
    (x.onPort p f).now = x.now := by
  unfold Ctx.onPort; simp

@[simp] theorem Ctx.sendFlit_keeps (x : Ctx) (p : Nat) (h : Head) (body : Bytes) :
    (x.sendFlit p h body).chip.boot = x.chip.boot ∧ (x.sendFlit p h body).chip.bar = x.chip.bar ∧
    (x.sendFlit p h body).chip.stew = x.chip.stew ∧ (x.sendFlit p h body).chip.config = x.chip.config ∧
    (x.sendFlit p h body).chip.serve = x.chip.serve ∧ (x.sendFlit p h body).chip.eng = x.chip.eng ∧
    (x.sendFlit p h body).chip.mem = x.chip.mem ∧ (x.sendFlit p h body).chip.power = x.chip.power ∧
    (x.sendFlit p h body).chip.obs = x.chip.obs ∧ (x.sendFlit p h body).c = x.c ∧ (x.sendFlit p h body).now = x.now := by
  unfold Ctx.sendFlit; simp

@[simp] theorem Ctx.sendIdle_keeps (x : Ctx) (p : Nat) (f : Head → Head) :
    (x.sendIdle p f).chip.boot = x.chip.boot ∧ (x.sendIdle p f).chip.bar = x.chip.bar ∧
    (x.sendIdle p f).chip.stew = x.chip.stew ∧ (x.sendIdle p f).chip.config = x.chip.config ∧
    (x.sendIdle p f).chip.serve = x.chip.serve ∧ (x.sendIdle p f).chip.eng = x.chip.eng ∧
    (x.sendIdle p f).chip.mem = x.chip.mem ∧ (x.sendIdle p f).chip.power = x.chip.power ∧
    (x.sendIdle p f).chip.obs = x.chip.obs ∧ (x.sendIdle p f).c = x.c ∧ (x.sendIdle p f).now = x.now := by
  unfold Ctx.sendIdle; simp

@[simp] theorem Ctx.sendMgmt_keeps (x : Ctx) (p : Nat) (kind : Nat) (body : Bytes) :
    (x.sendMgmt p kind body).chip.boot = x.chip.boot ∧ (x.sendMgmt p kind body).chip.bar = x.chip.bar ∧
    (x.sendMgmt p kind body).chip.stew = x.chip.stew ∧ (x.sendMgmt p kind body).chip.config = x.chip.config ∧
    (x.sendMgmt p kind body).chip.serve = x.chip.serve ∧ (x.sendMgmt p kind body).chip.eng = x.chip.eng ∧
    (x.sendMgmt p kind body).chip.mem = x.chip.mem ∧ (x.sendMgmt p kind body).chip.power = x.chip.power ∧
    (x.sendMgmt p kind body).chip.obs = x.chip.obs ∧ (x.sendMgmt p kind body).chip.ledger = x.chip.ledger ∧
    (x.sendMgmt p kind body).c = x.c ∧ (x.sendMgmt p kind body).now = x.now := by
  unfold Ctx.sendMgmt; simp

@[simp] theorem Ctx.writeEnded_keeps (x : Ctx) (tag : Nat) (status : Nat) :
    (x.writeEnded tag status).chip.boot = x.chip.boot ∧ (x.writeEnded tag status).chip.bar = x.chip.bar ∧
    (x.writeEnded tag status).chip.stew = x.chip.stew ∧ (x.writeEnded tag status).chip.config = x.chip.config ∧
    (x.writeEnded tag status).chip.serve = x.chip.serve ∧ (x.writeEnded tag status).chip.mem = x.chip.mem ∧
    (x.writeEnded tag status).chip.power = x.chip.power ∧ (x.writeEnded tag status).chip.obs = x.chip.obs ∧
    (x.writeEnded tag status).chip.ledger = x.chip.ledger ∧ (x.writeEnded tag status).c = x.c ∧
    (x.writeEnded tag status).now = x.now := by
  unfold Ctx.writeEnded; dsimp only; (repeat' split) <;> simp

@[simp] theorem Ctx.discardTx_keeps (x : Ctx) (p : Nat) :
    (x.discardTx p).chip.boot = x.chip.boot ∧ (x.discardTx p).chip.bar = x.chip.bar ∧ (x.discardTx p).chip.stew = x.chip.stew ∧
    (x.discardTx p).chip.config = x.chip.config ∧ (x.discardTx p).chip.serve = x.chip.serve ∧
    (x.discardTx p).chip.mem = x.chip.mem ∧ (x.discardTx p).chip.power = x.chip.power ∧ (x.discardTx p).chip.obs = x.chip.obs ∧
    (x.discardTx p).chip.ledger = x.chip.ledger ∧ (x.discardTx p).c = x.c ∧ (x.discardTx p).now = x.now := by
  unfold Ctx.discardTx; simp

@[simp] theorem Ctx.emptyRx_keeps (x : Ctx) (p : Nat) :
    (x.emptyRx p).chip.boot = x.chip.boot ∧ (x.emptyRx p).chip.bar = x.chip.bar ∧ (x.emptyRx p).chip.stew = x.chip.stew ∧
    (x.emptyRx p).chip.config = x.chip.config ∧ (x.emptyRx p).chip.serve = x.chip.serve ∧ (x.emptyRx p).chip.eng = x.chip.eng ∧
    (x.emptyRx p).chip.mem = x.chip.mem ∧ (x.emptyRx p).chip.power = x.chip.power ∧ (x.emptyRx p).chip.ledger = x.chip.ledger ∧
    (x.emptyRx p).c = x.c ∧ (x.emptyRx p).now = x.now := by
  unfold Ctx.emptyRx; simp

@[simp] theorem Ctx.clearLink_keeps (x : Ctx) (p : Nat) :
    (x.clearLink p).chip.boot = x.chip.boot ∧ (x.clearLink p).chip.bar = x.chip.bar ∧ (x.clearLink p).chip.stew = x.chip.stew ∧
    (x.clearLink p).chip.config = x.chip.config ∧ (x.clearLink p).chip.serve = x.chip.serve ∧
    (x.clearLink p).chip.mem = x.chip.mem ∧ (x.clearLink p).chip.power = x.chip.power ∧
    (x.clearLink p).chip.ledger = x.chip.ledger ∧ (x.clearLink p).c = x.c ∧ (x.clearLink p).now = x.now := by
  unfold Ctx.clearLink; simp

@[simp] theorem Ctx.enqueue_keeps (x : Ctx) (p : Nat) (vc : Nat) (bytes : Bytes) (tag : Option Nat) :
    (x.enqueue p vc bytes tag).chip.boot = x.chip.boot ∧ (x.enqueue p vc bytes tag).chip.bar = x.chip.bar ∧
    (x.enqueue p vc bytes tag).chip.stew = x.chip.stew ∧ (x.enqueue p vc bytes tag).chip.config = x.chip.config ∧
    (x.enqueue p vc bytes tag).chip.serve = x.chip.serve ∧ (x.enqueue p vc bytes tag).chip.eng = x.chip.eng ∧
    (x.enqueue p vc bytes tag).chip.mem = x.chip.mem ∧ (x.enqueue p vc bytes tag).chip.power = x.chip.power ∧
    (x.enqueue p vc bytes tag).chip.obs = x.chip.obs ∧ (x.enqueue p vc bytes tag).chip.ledger = x.chip.ledger ∧
    (x.enqueue p vc bytes tag).c = x.c ∧ (x.enqueue p vc bytes tag).now = x.now := by
  unfold Ctx.enqueue; simp

@[simp] theorem Ctx.wakePort_keeps (x : Ctx) (p : Nat) :
    (x.wakePort p).chip.boot = x.chip.boot ∧ (x.wakePort p).chip.bar = x.chip.bar ∧ (x.wakePort p).chip.stew = x.chip.stew ∧
    (x.wakePort p).chip.config = x.chip.config ∧ (x.wakePort p).chip.serve = x.chip.serve ∧
    (x.wakePort p).chip.eng = x.chip.eng ∧ (x.wakePort p).chip.mem = x.chip.mem ∧ (x.wakePort p).chip.power = x.chip.power ∧
    (x.wakePort p).chip.obs = x.chip.obs ∧ (x.wakePort p).chip.ledger = x.chip.ledger ∧ (x.wakePort p).c = x.c ∧
    (x.wakePort p).now = x.now := by
  unfold Ctx.wakePort; simp

@[simp] theorem Ctx.enter_keeps (x : Ctx) (p : Nat) (m : WaitMsg) :
    (x.enter p m).chip.boot = x.chip.boot ∧ (x.enter p m).chip.bar = x.chip.bar ∧ (x.enter p m).chip.stew = x.chip.stew ∧
    (x.enter p m).chip.config = x.chip.config ∧ (x.enter p m).chip.serve = x.chip.serve ∧ (x.enter p m).chip.eng = x.chip.eng ∧
    (x.enter p m).chip.mem = x.chip.mem ∧ (x.enter p m).chip.power = x.chip.power ∧ (x.enter p m).chip.obs = x.chip.obs ∧
    (x.enter p m).chip.ledger = x.chip.ledger ∧ (x.enter p m).c = x.c ∧ (x.enter p m).now = x.now := by
  unfold Ctx.enter; simp

@[simp] theorem Ctx.sendMsg_keeps (x : Ctx) (m : WaitMsg) :
    (x.sendMsg m).chip.boot = x.chip.boot ∧ (x.sendMsg m).chip.bar = x.chip.bar ∧ (x.sendMsg m).chip.stew = x.chip.stew ∧
    (x.sendMsg m).chip.config = x.chip.config ∧ (x.sendMsg m).chip.serve = x.chip.serve ∧ (x.sendMsg m).chip.mem = x.chip.mem ∧
    (x.sendMsg m).chip.power = x.chip.power ∧ (x.sendMsg m).chip.ledger = x.chip.ledger ∧ (x.sendMsg m).c = x.c ∧
    (x.sendMsg m).now = x.now := by
  unfold Ctx.sendMsg; dsimp only; (repeat' split) <;> simp

@[simp] theorem Ctx.offerRoom_keeps (x : Ctx) :
    (x.offerRoom).chip.boot = x.chip.boot ∧ (x.offerRoom).chip.bar = x.chip.bar ∧ (x.offerRoom).chip.stew = x.chip.stew ∧
    (x.offerRoom).chip.config = x.chip.config ∧ (x.offerRoom).chip.serve = x.chip.serve ∧ (x.offerRoom).chip.mem = x.chip.mem ∧
    (x.offerRoom).chip.power = x.chip.power ∧ (x.offerRoom).chip.ledger = x.chip.ledger ∧ (x.offerRoom).c = x.c ∧
    (x.offerRoom).now = x.now := by
  unfold Ctx.offerRoom; simp

@[simp] theorem Ctx.offerWaiting_keeps (x : Ctx) :
    (x.offerWaiting).chip.boot = x.chip.boot ∧ (x.offerWaiting).chip.bar = x.chip.bar ∧
    (x.offerWaiting).chip.stew = x.chip.stew ∧ (x.offerWaiting).chip.config = x.chip.config ∧
    (x.offerWaiting).chip.serve = x.chip.serve ∧ (x.offerWaiting).chip.mem = x.chip.mem ∧
    (x.offerWaiting).chip.power = x.chip.power ∧ (x.offerWaiting).chip.ledger = x.chip.ledger ∧ (x.offerWaiting).c = x.c ∧
    (x.offerWaiting).now = x.now := by
  unfold Ctx.offerWaiting; simp

@[simp] theorem Ctx.fence_keeps (x : Ctx) (p : Nat) (row : Nat) :
    (x.fence p row).chip.boot = x.chip.boot ∧ (x.fence p row).chip.config = x.chip.config ∧
    (x.fence p row).chip.serve = x.chip.serve ∧ (x.fence p row).chip.mem = x.chip.mem ∧
    (x.fence p row).chip.power = x.chip.power ∧ (x.fence p row).c = x.c ∧ (x.fence p row).now = x.now := by
  unfold Ctx.fence; simp

@[simp] theorem Ctx.retrain_keeps (x : Ctx) (p : Nat) (reason : Nat) :
    (x.retrain p reason).chip.boot = x.chip.boot ∧ (x.retrain p reason).chip.config = x.chip.config ∧
    (x.retrain p reason).chip.serve = x.chip.serve ∧ (x.retrain p reason).chip.mem = x.chip.mem ∧
    (x.retrain p reason).chip.power = x.chip.power ∧ (x.retrain p reason).c = x.c ∧ (x.retrain p reason).now = x.now := by
  unfold Ctx.retrain; simp

@[simp] theorem Ctx.violation_keeps (x : Ctx) (p : Nat) (row : Nat) :
    (x.violation p row).chip.boot = x.chip.boot ∧ (x.violation p row).chip.config = x.chip.config ∧
    (x.violation p row).chip.serve = x.chip.serve ∧ (x.violation p row).chip.mem = x.chip.mem ∧
    (x.violation p row).chip.power = x.chip.power ∧ (x.violation p row).c = x.c ∧ (x.violation p row).now = x.now := by
  unfold Ctx.violation; dsimp only; (repeat' split) <;> simp

@[simp] theorem Ctx.nakNow_keeps (x : Ctx) (p : Nat) :
    (x.nakNow p).chip.boot = x.chip.boot ∧ (x.nakNow p).chip.bar = x.chip.bar ∧ (x.nakNow p).chip.stew = x.chip.stew ∧
    (x.nakNow p).chip.config = x.chip.config ∧ (x.nakNow p).chip.serve = x.chip.serve ∧ (x.nakNow p).chip.eng = x.chip.eng ∧
    (x.nakNow p).chip.mem = x.chip.mem ∧ (x.nakNow p).chip.power = x.chip.power ∧ (x.nakNow p).c = x.c ∧
    (x.nakNow p).now = x.now := by
  unfold Ctx.nakNow; simp

@[simp] theorem Ctx.actHead_keeps (x : Ctx) (p : Nat) (h : Head) :
    (x.actHead p h).chip.boot = x.chip.boot ∧ (x.actHead p h).chip.config = x.chip.config ∧
    (x.actHead p h).chip.serve = x.chip.serve ∧ (x.actHead p h).chip.mem = x.chip.mem ∧
    (x.actHead p h).chip.power = x.chip.power ∧ (x.actHead p h).c = x.c ∧ (x.actHead p h).now = x.now := by
  unfold Ctx.actHead; simp

@[simp] theorem Ctx.settleDrizzle_keeps (x : Ctx) (p : Nat) :
    (x.settleDrizzle p).chip.boot = x.chip.boot ∧ (x.settleDrizzle p).chip.bar = x.chip.bar ∧
    (x.settleDrizzle p).chip.stew = x.chip.stew ∧ (x.settleDrizzle p).chip.config = x.chip.config ∧
    (x.settleDrizzle p).chip.serve = x.chip.serve ∧ (x.settleDrizzle p).chip.mem = x.chip.mem ∧
    (x.settleDrizzle p).chip.power = x.chip.power ∧ (x.settleDrizzle p).chip.ledger = x.chip.ledger ∧
    (x.settleDrizzle p).c = x.c ∧ (x.settleDrizzle p).now = x.now := by
  unfold Ctx.settleDrizzle; simp

@[simp] theorem Ctx.acceptFlit_keeps (x : Ctx) (p : Nat) :
    (x.acceptFlit p).chip.boot = x.chip.boot ∧ (x.acceptFlit p).chip.bar = x.chip.bar ∧
    (x.acceptFlit p).chip.stew = x.chip.stew ∧ (x.acceptFlit p).chip.config = x.chip.config ∧
    (x.acceptFlit p).chip.serve = x.chip.serve ∧ (x.acceptFlit p).chip.eng = x.chip.eng ∧
    (x.acceptFlit p).chip.mem = x.chip.mem ∧ (x.acceptFlit p).chip.power = x.chip.power ∧ (x.acceptFlit p).c = x.c ∧
    (x.acceptFlit p).now = x.now := by
  unfold Ctx.acceptFlit; simp

@[simp] theorem Ctx.placeFlit_keeps (x : Ctx) (p : Nat) (h : Head) (flit : Bytes) (keep : Bool) :
    (x.placeFlit p h flit keep).chip.boot = x.chip.boot ∧ (x.placeFlit p h flit keep).chip.bar = x.chip.bar ∧
    (x.placeFlit p h flit keep).chip.stew = x.chip.stew ∧ (x.placeFlit p h flit keep).chip.config = x.chip.config ∧
    (x.placeFlit p h flit keep).chip.serve = x.chip.serve ∧ (x.placeFlit p h flit keep).chip.eng = x.chip.eng ∧
    (x.placeFlit p h flit keep).chip.mem = x.chip.mem ∧ (x.placeFlit p h flit keep).chip.power = x.chip.power ∧
    (x.placeFlit p h flit keep).chip.ledger = x.chip.ledger ∧ (x.placeFlit p h flit keep).c = x.c ∧
    (x.placeFlit p h flit keep).now = x.now := by
  unfold Ctx.placeFlit; simp

@[simp] theorem Ctx.takeLoose_keeps (x : Ctx) (p : Nat) (h : Head) (flit : Bytes) (stamp : Word64) :
    (x.takeLoose p h flit stamp).chip.boot = x.chip.boot ∧ (x.takeLoose p h flit stamp).chip.bar = x.chip.bar ∧
    (x.takeLoose p h flit stamp).chip.stew = x.chip.stew ∧ (x.takeLoose p h flit stamp).chip.config = x.chip.config ∧
    (x.takeLoose p h flit stamp).chip.serve = x.chip.serve ∧ (x.takeLoose p h flit stamp).chip.eng = x.chip.eng ∧
    (x.takeLoose p h flit stamp).chip.mem = x.chip.mem ∧ (x.takeLoose p h flit stamp).chip.power = x.chip.power ∧
    (x.takeLoose p h flit stamp).chip.obs = x.chip.obs ∧ (x.takeLoose p h flit stamp).c = x.c ∧
    (x.takeLoose p h flit stamp).now = x.now := by
  unfold Ctx.takeLoose; simp

@[simp] theorem Ctx.flitReceive_keeps (x : Ctx) (p : Nat) (flit : Bytes) (unc : Option Nat) (corrected : Nat) (stamp : Word64) :
    (x.flitReceive p flit unc corrected stamp).chip.config = x.chip.config ∧
    (x.flitReceive p flit unc corrected stamp).chip.serve = x.chip.serve ∧
    (x.flitReceive p flit unc corrected stamp).chip.power = x.chip.power ∧
    (x.flitReceive p flit unc corrected stamp).c = x.c ∧
    (x.flitReceive p flit unc corrected stamp).now = x.now := by
  unfold Ctx.flitReceive; simp

@[simp] theorem Ctx.creditReturn_keeps (x : Ctx) (p : Nat) (vc : Nat) :
    (x.creditReturn p vc).chip.boot = x.chip.boot ∧ (x.creditReturn p vc).chip.bar = x.chip.bar ∧
    (x.creditReturn p vc).chip.stew = x.chip.stew ∧ (x.creditReturn p vc).chip.config = x.chip.config ∧
    (x.creditReturn p vc).chip.serve = x.chip.serve ∧ (x.creditReturn p vc).chip.eng = x.chip.eng ∧
    (x.creditReturn p vc).chip.mem = x.chip.mem ∧ (x.creditReturn p vc).chip.power = x.chip.power ∧
    (x.creditReturn p vc).c = x.c ∧ (x.creditReturn p vc).now = x.now := by
  unfold Ctx.creditReturn; dsimp only; (repeat' split) <;> simp

@[simp] theorem Ctx.sendNew_keeps (x : Ctx) (p : Nat) (kind : Nat) (vc : Nat) (slots : Nat) (start : Nat) (body : Bytes) (tags : List Nat) :
    (x.sendNew p kind vc slots start body tags).chip.boot = x.chip.boot ∧
    (x.sendNew p kind vc slots start body tags).chip.bar = x.chip.bar ∧
    (x.sendNew p kind vc slots start body tags).chip.stew = x.chip.stew ∧
    (x.sendNew p kind vc slots start body tags).chip.config = x.chip.config ∧
    (x.sendNew p kind vc slots start body tags).chip.serve = x.chip.serve ∧
    (x.sendNew p kind vc slots start body tags).chip.eng = x.chip.eng ∧
    (x.sendNew p kind vc slots start body tags).chip.mem = x.chip.mem ∧
    (x.sendNew p kind vc slots start body tags).chip.power = x.chip.power ∧
    (x.sendNew p kind vc slots start body tags).c = x.c ∧ (x.sendNew p kind vc slots start body tags).now = x.now := by
  unfold Ctx.sendNew; simp

@[simp] theorem Ctx.sendData_keeps (x : Ctx) (p : Nat) (vc : Nat) :
    (x.sendData p vc).chip.boot = x.chip.boot ∧ (x.sendData p vc).chip.bar = x.chip.bar ∧
    (x.sendData p vc).chip.stew = x.chip.stew ∧ (x.sendData p vc).chip.config = x.chip.config ∧
    (x.sendData p vc).chip.serve = x.chip.serve ∧ (x.sendData p vc).chip.eng = x.chip.eng ∧
    (x.sendData p vc).chip.mem = x.chip.mem ∧ (x.sendData p vc).chip.power = x.chip.power ∧ (x.sendData p vc).c = x.c ∧
    (x.sendData p vc).now = x.now := by
  unfold Ctx.sendData; simp

@[simp] theorem Ctx.resend_keeps (x : Ctx) (p : Nat) :
    (x.resend p).chip.boot = x.chip.boot ∧ (x.resend p).chip.config = x.chip.config ∧ (x.resend p).chip.serve = x.chip.serve ∧
    (x.resend p).chip.mem = x.chip.mem ∧ (x.resend p).chip.power = x.chip.power ∧ (x.resend p).c = x.c ∧
    (x.resend p).now = x.now := by
  unfold Ctx.resend; dsimp only; (repeat' split) <;> simp

@[simp] theorem Ctx.sendTurn_keeps (x : Ctx) (p : Nat) :
    (x.sendTurn p).chip.boot = x.chip.boot ∧ (x.sendTurn p).chip.bar = x.chip.bar ∧ (x.sendTurn p).chip.stew = x.chip.stew ∧
    (x.sendTurn p).chip.config = x.chip.config ∧ (x.sendTurn p).chip.serve = x.chip.serve ∧
    (x.sendTurn p).chip.mem = x.chip.mem ∧ (x.sendTurn p).chip.power = x.chip.power ∧ (x.sendTurn p).c = x.c ∧
    (x.sendTurn p).now = x.now := by
  unfold Ctx.sendTurn; (repeat' split) <;> simp_all

@[simp] theorem Ctx.flitTransmit_keeps (x : Ctx) (p : Nat) :
    (x.flitTransmit p).chip.boot = x.chip.boot ∧ (x.flitTransmit p).chip.config = x.chip.config ∧
    (x.flitTransmit p).chip.serve = x.chip.serve ∧ (x.flitTransmit p).chip.mem = x.chip.mem ∧
    (x.flitTransmit p).chip.power = x.chip.power ∧ (x.flitTransmit p).c = x.c ∧ (x.flitTransmit p).now = x.now := by
  unfold Ctx.flitTransmit; dsimp only; (repeat' split) <;> simp

@[simp] theorem Ctx.sendHello_keeps (x : Ctx) (p : Nat) :
    (x.sendHello p).chip.boot = x.chip.boot ∧ (x.sendHello p).chip.bar = x.chip.bar ∧ (x.sendHello p).chip.stew = x.chip.stew ∧
    (x.sendHello p).chip.config = x.chip.config ∧ (x.sendHello p).chip.serve = x.chip.serve ∧
    (x.sendHello p).chip.eng = x.chip.eng ∧ (x.sendHello p).chip.mem = x.chip.mem ∧ (x.sendHello p).chip.power = x.chip.power ∧
    (x.sendHello p).chip.obs = x.chip.obs ∧ (x.sendHello p).c = x.c ∧ (x.sendHello p).now = x.now := by
  unfold Ctx.sendHello; simp

@[simp] theorem Ctx.trainFail_keeps (x : Ctx) (p : Nat) :
    (x.trainFail p).chip.boot = x.chip.boot ∧ (x.trainFail p).chip.config = x.chip.config ∧
    (x.trainFail p).chip.serve = x.chip.serve ∧ (x.trainFail p).chip.eng = x.chip.eng ∧ (x.trainFail p).chip.mem = x.chip.mem ∧
    (x.trainFail p).chip.power = x.chip.power ∧ (x.trainFail p).c = x.c ∧ (x.trainFail p).now = x.now := by
  unfold Ctx.trainFail; simp

@[simp] theorem Ctx.helloReceive_keeps (x : Ctx) (p : Nat) :
    (x.helloReceive p).chip.boot = x.chip.boot ∧ (x.helloReceive p).chip.config = x.chip.config ∧
    (x.helloReceive p).chip.serve = x.chip.serve ∧ (x.helloReceive p).chip.mem = x.chip.mem ∧
    (x.helloReceive p).chip.power = x.chip.power ∧ (x.helloReceive p).c = x.c ∧ (x.helloReceive p).now = x.now := by
  unfold Ctx.helloReceive; dsimp only; (repeat' split) <;> simp

@[simp] theorem Ctx.portUp_keeps (x : Ctx) (p : Nat) :
    (x.portUp p).chip.boot = x.chip.boot ∧ (x.portUp p).chip.config = x.chip.config ∧ (x.portUp p).chip.serve = x.chip.serve ∧
    (x.portUp p).chip.mem = x.chip.mem ∧ (x.portUp p).chip.power = x.chip.power ∧ (x.portUp p).c = x.c ∧
    (x.portUp p).now = x.now := by
  unfold Ctx.portUp; simp

@[simp] theorem Ctx.trainDone_keeps (x : Ctx) (p : Nat) :
    (x.trainDone p).chip.boot = x.chip.boot ∧ (x.trainDone p).chip.config = x.chip.config ∧
    (x.trainDone p).chip.serve = x.chip.serve ∧ (x.trainDone p).chip.mem = x.chip.mem ∧
    (x.trainDone p).chip.power = x.chip.power ∧ (x.trainDone p).c = x.c ∧ (x.trainDone p).now = x.now := by
  unfold Ctx.trainDone; simp

theorem Ctx.takeMgmt_keeps {x y : Ctx} {p kind code : Nat} {b : Bytes} (h : x.takeMgmt p kind code = some (y, b)) :
    y.chip.boot = x.chip.boot ∧ y.chip.bar = x.chip.bar ∧ y.chip.stew = x.chip.stew ∧
    y.chip.config = x.chip.config ∧ y.chip.serve = x.chip.serve ∧ y.chip.eng = x.chip.eng ∧ y.chip.mem = x.chip.mem ∧ y.chip.power = x.chip.power ∧
    y.chip.obs = x.chip.obs ∧ y.chip.ledger = x.chip.ledger ∧ y.c = x.c ∧ y.now = x.now := by
  unfold Ctx.takeMgmt at h; dsimp only at h; (repeat' split at h) <;> simp at h
  obtain ⟨rfl, -⟩ := h; simp

@[simp] theorem Ctx.onMgmt_boot (x : Ctx) (p : Nat) (code : Nat) (f : Ctx → Ctx)
    (hf : ∀ y0, (f y0).chip.boot = y0.chip.boot) :
    (x.onMgmt p code f).chip.boot = x.chip.boot := by
  unfold Ctx.onMgmt; (try dsimp only); (repeat' split) <;> (first | simp [*, Ctx.takeMgmt_keeps (by assumption)] | simp_all)

@[simp] theorem Ctx.onMgmt_bar (x : Ctx) (p : Nat) (code : Nat) (f : Ctx → Ctx)
    (hf : ∀ y0, (f y0).chip.bar = y0.chip.bar) :
    (x.onMgmt p code f).chip.bar = x.chip.bar := by
  unfold Ctx.onMgmt; (try dsimp only); (repeat' split) <;> (first | simp [*, Ctx.takeMgmt_keeps (by assumption)] | simp_all)

@[simp] theorem Ctx.onMgmt_stew (x : Ctx) (p : Nat) (code : Nat) (f : Ctx → Ctx)
    (hf : ∀ y0, (f y0).chip.stew = y0.chip.stew) :
    (x.onMgmt p code f).chip.stew = x.chip.stew := by
  unfold Ctx.onMgmt; (try dsimp only); (repeat' split) <;> (first | simp [*, Ctx.takeMgmt_keeps (by assumption)] | simp_all)

@[simp] theorem Ctx.onMgmt_config (x : Ctx) (p : Nat) (code : Nat) (f : Ctx → Ctx)
    (hf : ∀ y0, (f y0).chip.config = y0.chip.config) :
    (x.onMgmt p code f).chip.config = x.chip.config := by
  unfold Ctx.onMgmt; (try dsimp only); (repeat' split) <;> (first | simp [*, Ctx.takeMgmt_keeps (by assumption)] | simp_all)

@[simp] theorem Ctx.onMgmt_serve (x : Ctx) (p : Nat) (code : Nat) (f : Ctx → Ctx)
    (hf : ∀ y0, (f y0).chip.serve = y0.chip.serve) :
    (x.onMgmt p code f).chip.serve = x.chip.serve := by
  unfold Ctx.onMgmt; (try dsimp only); (repeat' split) <;> (first | simp [*, Ctx.takeMgmt_keeps (by assumption)] | simp_all)

@[simp] theorem Ctx.onMgmt_eng (x : Ctx) (p : Nat) (code : Nat) (f : Ctx → Ctx)
    (hf : ∀ y0, (f y0).chip.eng = y0.chip.eng) :
    (x.onMgmt p code f).chip.eng = x.chip.eng := by
  unfold Ctx.onMgmt; (try dsimp only); (repeat' split) <;> (first | simp [*, Ctx.takeMgmt_keeps (by assumption)] | simp_all)

@[simp] theorem Ctx.onMgmt_mem (x : Ctx) (p : Nat) (code : Nat) (f : Ctx → Ctx)
    (hf : ∀ y0, (f y0).chip.mem = y0.chip.mem) :
    (x.onMgmt p code f).chip.mem = x.chip.mem := by
  unfold Ctx.onMgmt; (try dsimp only); (repeat' split) <;> (first | simp [*, Ctx.takeMgmt_keeps (by assumption)] | simp_all)

@[simp] theorem Ctx.onMgmt_power (x : Ctx) (p : Nat) (code : Nat) (f : Ctx → Ctx)
    (hf : ∀ y0, (f y0).chip.power = y0.chip.power) :
    (x.onMgmt p code f).chip.power = x.chip.power := by
  unfold Ctx.onMgmt; (try dsimp only); (repeat' split) <;> (first | simp [*, Ctx.takeMgmt_keeps (by assumption)] | simp_all)

@[simp] theorem Ctx.onMgmt_obs (x : Ctx) (p : Nat) (code : Nat) (f : Ctx → Ctx)
    (hf : ∀ y0, (f y0).chip.obs = y0.chip.obs) :
    (x.onMgmt p code f).chip.obs = x.chip.obs := by
  unfold Ctx.onMgmt; (try dsimp only); (repeat' split) <;> (first | simp [*, Ctx.takeMgmt_keeps (by assumption)] | simp_all)

@[simp] theorem Ctx.onMgmt_ledger (x : Ctx) (p : Nat) (code : Nat) (f : Ctx → Ctx)
    (hf : ∀ y0, (f y0).chip.ledger = y0.chip.ledger) :
    (x.onMgmt p code f).chip.ledger = x.chip.ledger := by
  unfold Ctx.onMgmt; (try dsimp only); (repeat' split) <;> (first | simp [*, Ctx.takeMgmt_keeps (by assumption)] | simp_all)

@[simp] theorem Ctx.onMgmt_c (x : Ctx) (p : Nat) (code : Nat) (f : Ctx → Ctx)
    (hf : ∀ y0, (f y0).c = y0.c) :
    (x.onMgmt p code f).c = x.c := by
  unfold Ctx.onMgmt; (try dsimp only); (repeat' split) <;> (first | simp [*, Ctx.takeMgmt_keeps (by assumption)] | simp_all)

@[simp] theorem Ctx.onMgmt_now (x : Ctx) (p : Nat) (code : Nat) (f : Ctx → Ctx)
    (hf : ∀ y0, (f y0).now = y0.now) :
    (x.onMgmt p code f).now = x.now := by
  unfold Ctx.onMgmt; (try dsimp only); (repeat' split) <;> (first | simp [*, Ctx.takeMgmt_keeps (by assumption)] | simp_all)

@[simp] theorem Ctx.onDriz_keeps (x : Ctx) (p : Nat) (f : Drizzle → Drizzle) :
    (x.onDriz p f).chip.boot = x.chip.boot ∧ (x.onDriz p f).chip.bar = x.chip.bar ∧ (x.onDriz p f).chip.stew = x.chip.stew ∧
    (x.onDriz p f).chip.config = x.chip.config ∧ (x.onDriz p f).chip.serve = x.chip.serve ∧
    (x.onDriz p f).chip.eng = x.chip.eng ∧ (x.onDriz p f).chip.mem = x.chip.mem ∧ (x.onDriz p f).chip.power = x.chip.power ∧
    (x.onDriz p f).chip.obs = x.chip.obs ∧ (x.onDriz p f).chip.ledger = x.chip.ledger ∧ (x.onDriz p f).c = x.c ∧
    (x.onDriz p f).now = x.now := by
  unfold Ctx.onDriz; simp

@[simp] theorem Ctx.drizzleReq_keeps (x : Ctx) (p : Nat) :
    (x.drizzleReq p).chip.boot = x.chip.boot ∧ (x.drizzleReq p).chip.bar = x.chip.bar ∧
    (x.drizzleReq p).chip.stew = x.chip.stew ∧ (x.drizzleReq p).chip.config = x.chip.config ∧
    (x.drizzleReq p).chip.serve = x.chip.serve ∧ (x.drizzleReq p).chip.eng = x.chip.eng ∧
    (x.drizzleReq p).chip.mem = x.chip.mem ∧ (x.drizzleReq p).chip.power = x.chip.power ∧
    (x.drizzleReq p).chip.obs = x.chip.obs ∧ (x.drizzleReq p).chip.ledger = x.chip.ledger ∧ (x.drizzleReq p).c = x.c ∧
    (x.drizzleReq p).now = x.now := by
  unfold Ctx.drizzleReq; simp

@[simp] theorem Ctx.drizzleAccept_keeps (x : Ctx) (p : Nat) :
    (x.drizzleAccept p).chip.boot = x.chip.boot ∧ (x.drizzleAccept p).chip.bar = x.chip.bar ∧
    (x.drizzleAccept p).chip.stew = x.chip.stew ∧ (x.drizzleAccept p).chip.config = x.chip.config ∧
    (x.drizzleAccept p).chip.serve = x.chip.serve ∧ (x.drizzleAccept p).chip.mem = x.chip.mem ∧
    (x.drizzleAccept p).chip.power = x.chip.power ∧ (x.drizzleAccept p).chip.ledger = x.chip.ledger ∧
    (x.drizzleAccept p).c = x.c ∧ (x.drizzleAccept p).now = x.now := by
  unfold Ctx.drizzleAccept; simp

@[simp] theorem Ctx.drizzleRefused_keeps (x : Ctx) (p : Nat) :
    (x.drizzleRefused p).chip.boot = x.chip.boot ∧ (x.drizzleRefused p).chip.bar = x.chip.bar ∧
    (x.drizzleRefused p).chip.stew = x.chip.stew ∧ (x.drizzleRefused p).chip.config = x.chip.config ∧
    (x.drizzleRefused p).chip.serve = x.chip.serve ∧ (x.drizzleRefused p).chip.eng = x.chip.eng ∧
    (x.drizzleRefused p).chip.mem = x.chip.mem ∧ (x.drizzleRefused p).chip.power = x.chip.power ∧
    (x.drizzleRefused p).chip.ledger = x.chip.ledger ∧ (x.drizzleRefused p).c = x.c ∧ (x.drizzleRefused p).now = x.now := by
  unfold Ctx.drizzleRefused; simp

@[simp] theorem Ctx.settleWake_keeps (x : Ctx) (p : Nat) :
    (x.settleWake p).chip.boot = x.chip.boot ∧ (x.settleWake p).chip.bar = x.chip.bar ∧
    (x.settleWake p).chip.stew = x.chip.stew ∧ (x.settleWake p).chip.config = x.chip.config ∧
    (x.settleWake p).chip.serve = x.chip.serve ∧ (x.settleWake p).chip.mem = x.chip.mem ∧
    (x.settleWake p).chip.power = x.chip.power ∧ (x.settleWake p).chip.ledger = x.chip.ledger ∧ (x.settleWake p).c = x.c ∧
    (x.settleWake p).now = x.now := by
  unfold Ctx.settleWake; simp

@[simp] theorem Ctx.fullRateSend_keeps (x : Ctx) (p : Nat) :
    (x.fullRateSend p).chip.boot = x.chip.boot ∧ (x.fullRateSend p).chip.bar = x.chip.bar ∧
    (x.fullRateSend p).chip.stew = x.chip.stew ∧ (x.fullRateSend p).chip.config = x.chip.config ∧
    (x.fullRateSend p).chip.serve = x.chip.serve ∧ (x.fullRateSend p).chip.eng = x.chip.eng ∧
    (x.fullRateSend p).chip.mem = x.chip.mem ∧ (x.fullRateSend p).chip.power = x.chip.power ∧
    (x.fullRateSend p).chip.obs = x.chip.obs ∧ (x.fullRateSend p).chip.ledger = x.chip.ledger ∧ (x.fullRateSend p).c = x.c ∧
    (x.fullRateSend p).now = x.now := by
  unfold Ctx.fullRateSend; simp

@[simp] theorem Ctx.wakeRow_keeps (x : Ctx) (p : Nat) :
    (x.wakeRow p).chip.bar = x.chip.bar ∧ (x.wakeRow p).chip.stew = x.chip.stew ∧ (x.wakeRow p).chip.config = x.chip.config ∧
    (x.wakeRow p).chip.serve = x.chip.serve ∧ (x.wakeRow p).chip.mem = x.chip.mem ∧ (x.wakeRow p).chip.power = x.chip.power ∧
    (x.wakeRow p).chip.ledger = x.chip.ledger ∧ (x.wakeRow p).c = x.c ∧ (x.wakeRow p).now = x.now := by
  unfold Ctx.wakeRow; simp

@[simp] theorem Ctx.fullRate_keeps (x : Ctx) (p : Nat) :
    (x.fullRate p).chip.boot = x.chip.boot ∧ (x.fullRate p).chip.bar = x.chip.bar ∧ (x.fullRate p).chip.stew = x.chip.stew ∧
    (x.fullRate p).chip.config = x.chip.config ∧ (x.fullRate p).chip.serve = x.chip.serve ∧
    (x.fullRate p).chip.mem = x.chip.mem ∧ (x.fullRate p).chip.power = x.chip.power ∧
    (x.fullRate p).chip.ledger = x.chip.ledger ∧ (x.fullRate p).c = x.c ∧ (x.fullRate p).now = x.now := by
  unfold Ctx.fullRate; simp

@[simp] theorem Ctx.wakeFail_keeps (x : Ctx) (p : Nat) :
    (x.wakeFail p).chip.boot = x.chip.boot ∧ (x.wakeFail p).chip.bar = x.chip.bar ∧ (x.wakeFail p).chip.stew = x.chip.stew ∧
    (x.wakeFail p).chip.config = x.chip.config ∧ (x.wakeFail p).chip.serve = x.chip.serve ∧
    (x.wakeFail p).chip.mem = x.chip.mem ∧ (x.wakeFail p).chip.power = x.chip.power ∧
    (x.wakeFail p).chip.ledger = x.chip.ledger ∧ (x.wakeFail p).c = x.c ∧ (x.wakeFail p).now = x.now := by
  unfold Ctx.wakeFail; simp

@[simp] theorem Ctx.linkDone_keeps (x : Ctx) (k : Cmd) (p : Nat) (status : Nat) :
    (x.linkDone k p status).chip.boot = x.chip.boot ∧ (x.linkDone k p status).chip.config = x.chip.config ∧
    (x.linkDone k p status).chip.serve = x.chip.serve ∧ (x.linkDone k p status).chip.eng = x.chip.eng ∧
    (x.linkDone k p status).chip.mem = x.chip.mem ∧ (x.linkDone k p status).chip.fab = x.chip.fab ∧
    (x.linkDone k p status).chip.power = x.chip.power ∧ (x.linkDone k p status).c = x.c ∧ (x.linkDone k p status).now = x.now := by
  unfold Ctx.linkDone; simp

theorem Ctx.linkCmd_boot (x : Ctx) (id a : Nat) (f : Nat → Ctx → Except Nat Ctx) (h : ∀ p y z, f p y = .ok z → z.chip.boot = y.chip.boot) :
    (x.linkCmd id a f).chip.boot = x.chip.boot := by
  unfold Ctx.linkCmd; apply Ctx.run_boot; intro k y; dsimp only; split
  · simp
  · split
    · next g => simp [h _ _ _ g]
    · simp
    · simp

theorem Ctx.linkCmd_config (x : Ctx) (id a : Nat) (f : Nat → Ctx → Except Nat Ctx) (h : ∀ p y z, f p y = .ok z → z.chip.config = y.chip.config) :
    (x.linkCmd id a f).chip.config = x.chip.config := by
  unfold Ctx.linkCmd; apply Ctx.run_config; intro k y; dsimp only; split
  · simp
  · split
    · next g => simp [h _ _ _ g]
    · simp
    · simp

theorem Ctx.linkCmd_serve (x : Ctx) (id a : Nat) (f : Nat → Ctx → Except Nat Ctx) (h : ∀ p y z, f p y = .ok z → z.chip.serve = y.chip.serve) :
    (x.linkCmd id a f).chip.serve = x.chip.serve := by
  unfold Ctx.linkCmd; apply Ctx.run_serve; intro k y; dsimp only; split
  · simp
  · split
    · next g => simp [h _ _ _ g]
    · simp
    · simp

theorem Ctx.linkCmd_eng (x : Ctx) (id a : Nat) (f : Nat → Ctx → Except Nat Ctx) (h : ∀ p y z, f p y = .ok z → z.chip.eng = y.chip.eng) :
    (x.linkCmd id a f).chip.eng = x.chip.eng := by
  unfold Ctx.linkCmd; apply Ctx.run_eng; intro k y; dsimp only; split
  · simp
  · split
    · next g => simp [h _ _ _ g]
    · simp
    · simp

theorem Ctx.linkCmd_mem (x : Ctx) (id a : Nat) (f : Nat → Ctx → Except Nat Ctx) (h : ∀ p y z, f p y = .ok z → z.chip.mem = y.chip.mem) :
    (x.linkCmd id a f).chip.mem = x.chip.mem := by
  unfold Ctx.linkCmd; apply Ctx.run_mem; intro k y; dsimp only; split
  · simp
  · split
    · next g => simp [h _ _ _ g]
    · simp
    · simp

theorem Ctx.linkCmd_fab (x : Ctx) (id a : Nat) (f : Nat → Ctx → Except Nat Ctx) (h : ∀ p y z, f p y = .ok z → z.chip.fab = y.chip.fab) :
    (x.linkCmd id a f).chip.fab = x.chip.fab := by
  unfold Ctx.linkCmd; apply Ctx.run_fab; intro k y; dsimp only; split
  · simp
  · split
    · next g => simp [h _ _ _ g]
    · simp
    · simp

theorem Ctx.linkCmd_power (x : Ctx) (id a : Nat) (f : Nat → Ctx → Except Nat Ctx) (h : ∀ p y z, f p y = .ok z → z.chip.power = y.chip.power) :
    (x.linkCmd id a f).chip.power = x.chip.power := by
  unfold Ctx.linkCmd; apply Ctx.run_power; intro k y; dsimp only; split
  · simp
  · split
    · next g => simp [h _ _ _ g]
    · simp
    · simp

theorem Ctx.linkCmd_c (x : Ctx) (id a : Nat) (f : Nat → Ctx → Except Nat Ctx) (h : ∀ p y z, f p y = .ok z → z.c = y.c) :
    (x.linkCmd id a f).c = x.c := by
  unfold Ctx.linkCmd; apply Ctx.run_c; intro k y; dsimp only; split
  · simp
  · split
    · next g => simp [h _ _ _ g]
    · simp
    · simp

theorem Ctx.linkCmd_now (x : Ctx) (id a : Nat) (f : Nat → Ctx → Except Nat Ctx) (h : ∀ p y z, f p y = .ok z → z.now = y.now) :
    (x.linkCmd id a f).now = x.now := by
  unfold Ctx.linkCmd; apply Ctx.run_now; intro k y; dsimp only; split
  · simp
  · split
    · next g => simp [h _ _ _ g]
    · simp
    · simp

theorem Ctx.drizzleAllow_keeps {x y : Ctx} {p : Nat} {b : Bool} (h : x.drizzleAllow p b = .ok y) :
    y.chip.boot = x.chip.boot ∧ y.chip.bar = x.chip.bar ∧ y.chip.stew = x.chip.stew ∧
    y.chip.config = x.chip.config ∧ y.chip.serve = x.chip.serve ∧ y.chip.eng = x.chip.eng ∧ y.chip.mem = x.chip.mem ∧ y.chip.power = x.chip.power ∧
    y.chip.obs = x.chip.obs ∧ y.chip.ledger = x.chip.ledger ∧ y.c = x.c ∧ y.now = x.now := by
  unfold Ctx.drizzleAllow at h; split at h <;> simp at h
  subst h; simp

@[simp] theorem Ctx.enterDormant_keeps (x : Ctx) :
    (x.enterDormant).chip.bar = x.chip.bar ∧ (x.enterDormant).chip.stew = x.chip.stew ∧
    (x.enterDormant).chip.config = x.chip.config ∧ (x.enterDormant).chip.serve = x.chip.serve ∧
    (x.enterDormant).chip.eng = x.chip.eng ∧ (x.enterDormant).chip.mem = x.chip.mem ∧
    (x.enterDormant).chip.power = x.chip.power ∧ (x.enterDormant).chip.obs = x.chip.obs ∧
    (x.enterDormant).chip.ledger = x.chip.ledger ∧ (x.enterDormant).c = x.c ∧ (x.enterDormant).now = x.now := by
  unfold Ctx.enterDormant; simp

@[simp] theorem Ctx.enterIdle_keeps (x : Ctx) :
    (x.enterIdle).chip.bar = x.chip.bar ∧ (x.enterIdle).chip.stew = x.chip.stew ∧ (x.enterIdle).chip.config = x.chip.config ∧
    (x.enterIdle).chip.serve = x.chip.serve ∧ (x.enterIdle).chip.eng = x.chip.eng ∧ (x.enterIdle).chip.mem = x.chip.mem ∧
    (x.enterIdle).chip.power = x.chip.power ∧ (x.enterIdle).chip.obs = x.chip.obs ∧ (x.enterIdle).chip.ledger = x.chip.ledger ∧
    (x.enterIdle).c = x.c ∧ (x.enterIdle).now = x.now := by
  unfold Ctx.enterIdle; simp

end Sys2Proof.Machine
end

