-- ==== Sys2Proof/Laws/FrameTime.lean ====
section
/-! SUPPORT. What the operations of Machine/Time.lean leave unchanged of a chip. -/
namespace Sys2Proof.Machine

@[simp] theorem Ctx.ringLoss_keeps (x : Ctx) :
    (x.ringLoss).chip.boot = x.chip.boot ∧ (x.ringLoss).chip.bar = x.chip.bar ∧ (x.ringLoss).chip.stew = x.chip.stew ∧
    (x.ringLoss).chip.config = x.chip.config ∧ (x.ringLoss).chip.serve = x.chip.serve ∧ (x.ringLoss).chip.eng = x.chip.eng ∧
    (x.ringLoss).chip.mem = x.chip.mem ∧ (x.ringLoss).chip.fab = x.chip.fab ∧ (x.ringLoss).chip.power = x.chip.power ∧
    (x.ringLoss).chip.ledger = x.chip.ledger ∧ (x.ringLoss).c = x.c ∧ (x.ringLoss).now = x.now := by
  unfold Ctx.ringLoss; simp

@[simp] theorem Ctx.ringWrite_keeps (x : Ctx) (rec : Bytes) :
    (x.ringWrite rec).chip.boot = x.chip.boot ∧ (x.ringWrite rec).chip.config = x.chip.config ∧
    (x.ringWrite rec).chip.serve = x.chip.serve ∧ (x.ringWrite rec).chip.fab = x.chip.fab ∧
    (x.ringWrite rec).chip.power = x.chip.power ∧ (x.ringWrite rec).c = x.c ∧ (x.ringWrite rec).now = x.now := by
  unfold Ctx.ringWrite; simp

@[simp] theorem Ctx.ringPut_keeps (x : Ctx) (rec : Bytes) :
    (x.ringPut rec).chip.boot = x.chip.boot ∧ (x.ringPut rec).chip.config = x.chip.config ∧
    (x.ringPut rec).chip.serve = x.chip.serve ∧ (x.ringPut rec).chip.fab = x.chip.fab ∧
    (x.ringPut rec).chip.power = x.chip.power ∧ (x.ringPut rec).c = x.c ∧ (x.ringPut rec).now = x.now := by
  unfold Ctx.ringPut; simp

@[simp] theorem Ctx.tellLoss_keeps (x : Ctx) :
    (x.tellLoss).chip.boot = x.chip.boot ∧ (x.tellLoss).chip.config = x.chip.config ∧ (x.tellLoss).chip.serve = x.chip.serve ∧
    (x.tellLoss).chip.fab = x.chip.fab ∧ (x.tellLoss).chip.power = x.chip.power ∧ (x.tellLoss).c = x.c ∧
    (x.tellLoss).now = x.now := by
  unfold Ctx.tellLoss; simp

@[simp] theorem Ctx.takeSource_keeps (x : Ctx) (k : Nat) :
    (x.takeSource k).chip.boot = x.chip.boot ∧ (x.takeSource k).chip.config = x.chip.config ∧
    (x.takeSource k).chip.serve = x.chip.serve ∧ (x.takeSource k).chip.fab = x.chip.fab ∧
    (x.takeSource k).chip.power = x.chip.power ∧ (x.takeSource k).c = x.c ∧ (x.takeSource k).now = x.now := by
  unfold Ctx.takeSource; (repeat' split) <;> simp_all

@[simp] theorem Ctx.traceCycle_keeps (x : Ctx) :
    (x.traceCycle).chip.boot = x.chip.boot ∧ (x.traceCycle).chip.config = x.chip.config ∧
    (x.traceCycle).chip.serve = x.chip.serve ∧ (x.traceCycle).chip.fab = x.chip.fab ∧
    (x.traceCycle).chip.power = x.chip.power ∧ (x.traceCycle).c = x.c ∧ (x.traceCycle).now = x.now := by
  unfold Ctx.traceCycle; dsimp only; (repeat' split) <;> simp

@[simp] theorem Ctx.traceDrain_keeps (x : Ctx) :
    (x.traceDrain).chip.boot = x.chip.boot ∧ (x.traceDrain).chip.config = x.chip.config ∧
    (x.traceDrain).chip.serve = x.chip.serve ∧ (x.traceDrain).chip.fab = x.chip.fab ∧
    (x.traceDrain).chip.power = x.chip.power ∧ (x.traceDrain).c = x.c ∧ (x.traceDrain).now = x.now := by
  unfold Ctx.traceDrain; simp

@[simp] theorem Ctx.traceLull_keeps (x : Ctx) (what : Nat) (id : Nat) (t : Nat) :
    (x.traceLull what id t).chip.boot = x.chip.boot ∧ (x.traceLull what id t).chip.config = x.chip.config ∧
    (x.traceLull what id t).chip.serve = x.chip.serve ∧ (x.traceLull what id t).chip.fab = x.chip.fab ∧
    (x.traceLull what id t).chip.power = x.chip.power ∧ (x.traceLull what id t).c = x.c ∧ (x.traceLull what id t).now = x.now := by
  unfold Ctx.traceLull; simp

@[simp] theorem Ctx.armLull_keeps (x : Ctx) :
    (x.armLull).chip.boot = x.chip.boot ∧ (x.armLull).chip.bar = x.chip.bar ∧ (x.armLull).chip.stew = x.chip.stew ∧
    (x.armLull).chip.config = x.chip.config ∧ (x.armLull).chip.serve = x.chip.serve ∧ (x.armLull).chip.eng = x.chip.eng ∧
    (x.armLull).chip.mem = x.chip.mem ∧ (x.armLull).chip.fab = x.chip.fab ∧ (x.armLull).chip.power = x.chip.power ∧
    (x.armLull).chip.ledger = x.chip.ledger ∧ (x.armLull).c = x.c ∧ (x.armLull).now = x.now := by
  unfold Ctx.armLull; simp

@[simp] theorem Ctx.cutPort_keeps (x : Ctx) (t : Nat) (p : Nat) :
    (x.cutPort t p).chip.boot = x.chip.boot ∧ (x.cutPort t p).chip.bar = x.chip.bar ∧ (x.cutPort t p).chip.stew = x.chip.stew ∧
    (x.cutPort t p).chip.config = x.chip.config ∧ (x.cutPort t p).chip.serve = x.chip.serve ∧
    (x.cutPort t p).chip.eng = x.chip.eng ∧ (x.cutPort t p).chip.mem = x.chip.mem ∧ (x.cutPort t p).chip.power = x.chip.power ∧
    (x.cutPort t p).chip.obs = x.chip.obs ∧ (x.cutPort t p).chip.ledger = x.chip.ledger ∧ (x.cutPort t p).c = x.c ∧
    (x.cutPort t p).now = x.now := by
  unfold Ctx.cutPort; simp

@[simp] theorem Ctx.freeze_keeps (x : Ctx) :
    (x.freeze).chip.boot = x.chip.boot ∧ (x.freeze).chip.serve = x.chip.serve ∧ (x.freeze).c = x.c ∧ (x.freeze).now = x.now := by
  unfold Ctx.freeze; simp

@[simp] theorem Ctx.lullFreeze_keeps (x : Ctx) :
    (x.lullFreeze).chip.boot = x.chip.boot ∧ (x.lullFreeze).chip.serve = x.chip.serve ∧ (x.lullFreeze).c = x.c ∧
    (x.lullFreeze).now = x.now := by
  unfold Ctx.lullFreeze; simp

@[simp] theorem Ctx.cutTimeout_keeps (x : Ctx) (p : Nat) :
    (x.cutTimeout p).chip.boot = x.chip.boot ∧ (x.cutTimeout p).chip.bar = x.chip.bar ∧
    (x.cutTimeout p).chip.stew = x.chip.stew ∧ (x.cutTimeout p).chip.config = x.chip.config ∧
    (x.cutTimeout p).chip.serve = x.chip.serve ∧ (x.cutTimeout p).chip.eng = x.chip.eng ∧
    (x.cutTimeout p).chip.mem = x.chip.mem ∧ (x.cutTimeout p).chip.power = x.chip.power ∧
    (x.cutTimeout p).chip.obs = x.chip.obs ∧ (x.cutTimeout p).chip.ledger = x.chip.ledger ∧ (x.cutTimeout p).c = x.c ∧
    (x.cutTimeout p).now = x.now := by
  unfold Ctx.cutTimeout; simp

@[simp] theorem Ctx.lullFlit_keeps (x : Ctx) (p : Nat) :
    (x.lullFlit p).chip.boot = x.chip.boot ∧ (x.lullFlit p).chip.bar = x.chip.bar ∧ (x.lullFlit p).chip.stew = x.chip.stew ∧
    (x.lullFlit p).chip.config = x.chip.config ∧ (x.lullFlit p).chip.serve = x.chip.serve ∧
    (x.lullFlit p).chip.eng = x.chip.eng ∧ (x.lullFlit p).chip.mem = x.chip.mem ∧ (x.lullFlit p).chip.power = x.chip.power ∧
    (x.lullFlit p).chip.obs = x.chip.obs ∧ (x.lullFlit p).chip.ledger = x.chip.ledger ∧ (x.lullFlit p).c = x.c ∧
    (x.lullFlit p).now = x.now := by
  unfold Ctx.lullFlit; (try dsimp only); (repeat' split) <;> (first | simp [*, Ctx.takeMgmt_keeps (by assumption)] | simp_all)

@[simp] theorem Ctx.addPending_keeps (x : Ctx) :
    (x.addPending).chip.boot = x.chip.boot ∧ (x.addPending).chip.bar = x.chip.bar ∧ (x.addPending).chip.stew = x.chip.stew ∧
    (x.addPending).chip.config = x.chip.config ∧ (x.addPending).chip.serve = x.chip.serve ∧
    (x.addPending).chip.eng = x.chip.eng ∧ (x.addPending).chip.mem = x.chip.mem ∧ (x.addPending).chip.fab = x.chip.fab ∧
    (x.addPending).chip.power = x.chip.power ∧ (x.addPending).chip.ledger = x.chip.ledger ∧ (x.addPending).c = x.c ∧
    (x.addPending).now = x.now := by
  unfold Ctx.addPending; simp

@[simp] theorem Ctx.sendReleaseAt_keeps (x : Ctx) (id : Nat) (at' : Nat) :
    (x.sendReleaseAt id at').chip.boot = x.chip.boot ∧ (x.sendReleaseAt id at').chip.bar = x.chip.bar ∧
    (x.sendReleaseAt id at').chip.stew = x.chip.stew ∧ (x.sendReleaseAt id at').chip.config = x.chip.config ∧
    (x.sendReleaseAt id at').chip.serve = x.chip.serve ∧ (x.sendReleaseAt id at').chip.mem = x.chip.mem ∧
    (x.sendReleaseAt id at').chip.power = x.chip.power ∧ (x.sendReleaseAt id at').chip.ledger = x.chip.ledger ∧
    (x.sendReleaseAt id at').c = x.c ∧ (x.sendReleaseAt id at').now = x.now := by
  unfold Ctx.sendReleaseAt; dsimp only; (repeat' split) <;> simp

@[simp] theorem Ctx.shiftEpoch_keeps (x : Ctx) :
    (x.shiftEpoch).chip.boot = x.chip.boot ∧ (x.shiftEpoch).chip.bar = x.chip.bar ∧ (x.shiftEpoch).chip.stew = x.chip.stew ∧
    (x.shiftEpoch).chip.serve = x.chip.serve ∧ (x.shiftEpoch).chip.eng = x.chip.eng ∧ (x.shiftEpoch).chip.mem = x.chip.mem ∧
    (x.shiftEpoch).chip.fab = x.chip.fab ∧ (x.shiftEpoch).chip.power = x.chip.power ∧ (x.shiftEpoch).chip.obs = x.chip.obs ∧
    (x.shiftEpoch).chip.ledger = x.chip.ledger ∧ (x.shiftEpoch).c = x.c ∧ (x.shiftEpoch).now = x.now := by
  unfold Ctx.shiftEpoch; simp

@[simp] theorem Ctx.release_keeps (x : Ctx) :
    (x.release).chip.boot = x.chip.boot ∧ (x.release).chip.serve = x.chip.serve ∧ (x.release).chip.power = x.chip.power ∧
    (x.release).c = x.c ∧ (x.release).now = x.now := by
  unfold Ctx.release; simp

@[simp] theorem Ctx.lullRelease_keeps (x : Ctx) :
    (x.lullRelease).chip.boot = x.chip.boot ∧ (x.lullRelease).chip.serve = x.chip.serve ∧
    (x.lullRelease).chip.power = x.chip.power ∧ (x.lullRelease).c = x.c ∧ (x.lullRelease).now = x.now := by
  unfold Ctx.lullRelease; simp

@[simp] theorem Ctx.rejectRelease_keeps (x : Ctx) (b : Bytes) :
    (x.rejectRelease b).chip.boot = x.chip.boot ∧ (x.rejectRelease b).chip.bar = x.chip.bar ∧
    (x.rejectRelease b).chip.stew = x.chip.stew ∧ (x.rejectRelease b).chip.config = x.chip.config ∧
    (x.rejectRelease b).chip.serve = x.chip.serve ∧ (x.rejectRelease b).chip.eng = x.chip.eng ∧
    (x.rejectRelease b).chip.mem = x.chip.mem ∧ (x.rejectRelease b).chip.fab = x.chip.fab ∧
    (x.rejectRelease b).chip.power = x.chip.power ∧ (x.rejectRelease b).chip.ledger = x.chip.ledger ∧
    (x.rejectRelease b).c = x.c ∧ (x.rejectRelease b).now = x.now := by
  unfold Ctx.rejectRelease; simp

@[simp] theorem Ctx.routed_keeps (x : Ctx) (p : Nat) :
    (x.routed p).chip.boot = x.chip.boot ∧ (x.routed p).chip.serve = x.chip.serve ∧ (x.routed p).chip.power = x.chip.power ∧
    (x.routed p).c = x.c ∧ (x.routed p).now = x.now := by
  unfold Ctx.routed; split
  · simp
  · next g => (repeat' split) <;> simp [Ctx.takeMgmt_keeps g]

theorem Ctx.takeSync_keeps {x y : Ctx} {p type n : Nat} {b : Bytes} (h : x.takeSync p type = some (y, b, n)) :
    y.chip.boot = x.chip.boot ∧ y.chip.bar = x.chip.bar ∧ y.chip.stew = x.chip.stew ∧
    y.chip.config = x.chip.config ∧ y.chip.serve = x.chip.serve ∧ y.chip.eng = x.chip.eng ∧ y.chip.mem = x.chip.mem ∧ y.chip.power = x.chip.power ∧
    y.chip.obs = x.chip.obs ∧ y.chip.ledger = x.chip.ledger ∧ y.c = x.c ∧ y.now = x.now := by
  unfold Ctx.takeSync at h; dsimp only at h; (repeat' split at h) <;> simp at h
  obtain ⟨rfl, -⟩ := h; simp

@[simp] theorem Ctx.syncRequest_keeps (x : Ctx) (p : Nat) (t3 : Word64) :
    (x.syncRequest p t3).chip.boot = x.chip.boot ∧ (x.syncRequest p t3).chip.bar = x.chip.bar ∧
    (x.syncRequest p t3).chip.stew = x.chip.stew ∧ (x.syncRequest p t3).chip.config = x.chip.config ∧
    (x.syncRequest p t3).chip.serve = x.chip.serve ∧ (x.syncRequest p t3).chip.eng = x.chip.eng ∧
    (x.syncRequest p t3).chip.mem = x.chip.mem ∧ (x.syncRequest p t3).chip.power = x.chip.power ∧
    (x.syncRequest p t3).chip.obs = x.chip.obs ∧ (x.syncRequest p t3).c = x.c ∧ (x.syncRequest p t3).now = x.now := by
  unfold Ctx.syncRequest; split
  · simp
  · next g => simp [Ctx.takeSync_keeps g]

@[simp] theorem Ctx.moveTime_keeps (x : Ctx) (n : Int) :
    (x.moveTime n).chip.boot = x.chip.boot ∧ (x.moveTime n).chip.bar = x.chip.bar ∧ (x.moveTime n).chip.stew = x.chip.stew ∧
    (x.moveTime n).chip.config = x.chip.config ∧ (x.moveTime n).chip.serve = x.chip.serve ∧
    (x.moveTime n).chip.eng = x.chip.eng ∧ (x.moveTime n).chip.mem = x.chip.mem ∧ (x.moveTime n).chip.power = x.chip.power ∧
    (x.moveTime n).chip.ledger = x.chip.ledger ∧ (x.moveTime n).c = x.c ∧ (x.moveTime n).now = x.now := by
  unfold Ctx.moveTime; simp

@[simp] theorem Ctx.stepTime_keeps (x : Ctx) (n : Int) :
    (x.stepTime n).chip.boot = x.chip.boot ∧ (x.stepTime n).chip.serve = x.chip.serve ∧ (x.stepTime n).c = x.c ∧
    (x.stepTime n).now = x.now := by
  unfold Ctx.stepTime; simp

@[simp] theorem Ctx.steer_keeps (x : Ctx) (p : Nat) (off : Int) (delay : Int) :
    (x.steer p off delay).chip.boot = x.chip.boot ∧ (x.steer p off delay).chip.serve = x.chip.serve ∧
    (x.steer p off delay).c = x.c ∧ (x.steer p off delay).now = x.now := by
  unfold Ctx.steer; simp

@[simp] theorem Ctx.syncResponse_keeps (x : Ctx) (p : Nat) :
    (x.syncResponse p).chip.boot = x.chip.boot ∧ (x.syncResponse p).chip.serve = x.chip.serve ∧ (x.syncResponse p).c = x.c ∧
    (x.syncResponse p).now = x.now := by
  unfold Ctx.syncResponse; split
  · simp
  · next g => dsimp only; (repeat' split) <;> simp [Ctx.takeSync_keeps g]

@[simp] theorem Ctx.loseSync_keeps (x : Ctx) :
    (x.loseSync).chip.boot = x.chip.boot ∧ (x.loseSync).chip.config = x.chip.config ∧ (x.loseSync).chip.serve = x.chip.serve ∧
    (x.loseSync).chip.eng = x.chip.eng ∧ (x.loseSync).chip.mem = x.chip.mem ∧ (x.loseSync).chip.power = x.chip.power ∧
    (x.loseSync).c = x.c ∧ (x.loseSync).now = x.now := by
  unfold Ctx.loseSync; (repeat' split) <;> simp_all

end Sys2Proof.Machine
end

