-- ==== Sys2Proof/Laws/FrameFabric.lean ====
section
/-! SUPPORT. What the operations of Machine/Fabric.lean leave unchanged of a chip. -/
namespace Sys2Proof.Machine

theorem Ctx.takeMsg_keeps {x y : Ctx} {p vc : Nat} {b : Bytes} (h : x.takeMsg p vc = some (y, b)) :
    y.chip.boot = x.chip.boot ∧ y.chip.bar = x.chip.bar ∧ y.chip.stew = x.chip.stew ∧
    y.chip.config = x.chip.config ∧ y.chip.serve = x.chip.serve ∧ y.chip.eng = x.chip.eng ∧ y.chip.mem = x.chip.mem ∧ y.chip.power = x.chip.power ∧
    y.chip.obs = x.chip.obs ∧ y.chip.ledger = x.chip.ledger ∧ y.c = x.c ∧ y.now = x.now := by
  unfold Ctx.takeMsg at h; dsimp only at h; (repeat' split at h) <;> simp at h
  obtain ⟨rfl, -⟩ := h; simp

@[simp] theorem Ctx.onMsg_boot (x : Ctx) (p : Nat) (vc : Nat) (op : Nat) (stale : Ctx → Bytes → Ctx) (f : Ctx → Bytes → Ctx)
    (hstale : ∀ y0 y1, (stale y0 y1).chip.boot = y0.chip.boot)
    (hf : ∀ y0 y1, (f y0 y1).chip.boot = y0.chip.boot) :
    (x.onMsg p vc op stale f).chip.boot = x.chip.boot := by
  unfold Ctx.onMsg; split
  · rfl
  · split
    · rfl
    · next g => (repeat' split) <;> simp [hf, hstale, Ctx.takeMsg_keeps g]

@[simp] theorem Ctx.onMsg_config (x : Ctx) (p : Nat) (vc : Nat) (op : Nat) (stale : Ctx → Bytes → Ctx) (f : Ctx → Bytes → Ctx)
    (hstale : ∀ y0 y1, (stale y0 y1).chip.config = y0.chip.config)
    (hf : ∀ y0 y1, (f y0 y1).chip.config = y0.chip.config) :
    (x.onMsg p vc op stale f).chip.config = x.chip.config := by
  unfold Ctx.onMsg; split
  · rfl
  · split
    · rfl
    · next g => (repeat' split) <;> simp [hf, hstale, Ctx.takeMsg_keeps g]

@[simp] theorem Ctx.onMsg_serve (x : Ctx) (p : Nat) (vc : Nat) (op : Nat) (stale : Ctx → Bytes → Ctx) (f : Ctx → Bytes → Ctx)
    (hstale : ∀ y0 y1, (stale y0 y1).chip.serve = y0.chip.serve)
    (hf : ∀ y0 y1, (f y0 y1).chip.serve = y0.chip.serve) :
    (x.onMsg p vc op stale f).chip.serve = x.chip.serve := by
  unfold Ctx.onMsg; split
  · rfl
  · split
    · rfl
    · next g => (repeat' split) <;> simp [hf, hstale, Ctx.takeMsg_keeps g]

@[simp] theorem Ctx.onMsg_mem (x : Ctx) (p : Nat) (vc : Nat) (op : Nat) (stale : Ctx → Bytes → Ctx) (f : Ctx → Bytes → Ctx)
    (hstale : ∀ y0 y1, (stale y0 y1).chip.mem = y0.chip.mem)
    (hf : ∀ y0 y1, (f y0 y1).chip.mem = y0.chip.mem) :
    (x.onMsg p vc op stale f).chip.mem = x.chip.mem := by
  unfold Ctx.onMsg; split
  · rfl
  · split
    · rfl
    · next g => (repeat' split) <;> simp [hf, hstale, Ctx.takeMsg_keeps g]

@[simp] theorem Ctx.onMsg_power (x : Ctx) (p : Nat) (vc : Nat) (op : Nat) (stale : Ctx → Bytes → Ctx) (f : Ctx → Bytes → Ctx)
    (hstale : ∀ y0 y1, (stale y0 y1).chip.power = y0.chip.power)
    (hf : ∀ y0 y1, (f y0 y1).chip.power = y0.chip.power) :
    (x.onMsg p vc op stale f).chip.power = x.chip.power := by
  unfold Ctx.onMsg; split
  · rfl
  · split
    · rfl
    · next g => (repeat' split) <;> simp [hf, hstale, Ctx.takeMsg_keeps g]

@[simp] theorem Ctx.onMsg_c (x : Ctx) (p : Nat) (vc : Nat) (op : Nat) (stale : Ctx → Bytes → Ctx) (f : Ctx → Bytes → Ctx)
    (hstale : ∀ y0 y1, (stale y0 y1).c = y0.c)
    (hf : ∀ y0 y1, (f y0 y1).c = y0.c) :
    (x.onMsg p vc op stale f).c = x.c := by
  unfold Ctx.onMsg; split
  · rfl
  · split
    · rfl
    · next g => (repeat' split) <;> simp [hf, hstale, Ctx.takeMsg_keeps g]

@[simp] theorem Ctx.onMsg_now (x : Ctx) (p : Nat) (vc : Nat) (op : Nat) (stale : Ctx → Bytes → Ctx) (f : Ctx → Bytes → Ctx)
    (hstale : ∀ y0 y1, (stale y0 y1).now = y0.now)
    (hf : ∀ y0 y1, (f y0 y1).now = y0.now) :
    (x.onMsg p vc op stale f).now = x.now := by
  unfold Ctx.onMsg; split
  · rfl
  · split
    · rfl
    · next g => (repeat' split) <;> simp [hf, hstale, Ctx.takeMsg_keeps g]

@[simp] theorem Ctx.putMsg_keeps (x : Ctx) (super : Nat) (a : Nat) (b : Bytes) :
    (x.putMsg super a b).chip.boot = x.chip.boot ∧ (x.putMsg super a b).chip.config = x.chip.config ∧
    (x.putMsg super a b).chip.serve = x.chip.serve ∧ (x.putMsg super a b).chip.fab = x.chip.fab ∧
    (x.putMsg super a b).chip.power = x.chip.power ∧ (x.putMsg super a b).c = x.c ∧ (x.putMsg super a b).now = x.now := by
  unfold Ctx.putMsg; simp

@[simp] theorem Ctx.respond_keeps (x : Ctx) (b : Bytes) (status : Nat) :
    (x.respond b status).chip.boot = x.chip.boot ∧ (x.respond b status).chip.bar = x.chip.bar ∧
    (x.respond b status).chip.stew = x.chip.stew ∧ (x.respond b status).chip.config = x.chip.config ∧
    (x.respond b status).chip.serve = x.chip.serve ∧ (x.respond b status).chip.mem = x.chip.mem ∧
    (x.respond b status).chip.power = x.chip.power ∧ (x.respond b status).chip.ledger = x.chip.ledger ∧
    (x.respond b status).c = x.c ∧ (x.respond b status).now = x.now := by
  unfold Ctx.respond; simp

@[simp] theorem Ctx.writeReceive_keeps (x : Ctx) (p : Nat) (vc : Nat) :
    (x.writeReceive p vc).chip.boot = x.chip.boot ∧ (x.writeReceive p vc).chip.config = x.chip.config ∧
    (x.writeReceive p vc).chip.serve = x.chip.serve ∧ (x.writeReceive p vc).chip.power = x.chip.power ∧
    (x.writeReceive p vc).c = x.c ∧ (x.writeReceive p vc).now = x.now := by
  unfold Ctx.writeReceive; simp

@[simp] theorem Ctx.writeRespReceive_keeps (x : Ctx) (p : Nat) :
    (x.writeRespReceive p).chip.boot = x.chip.boot ∧ (x.writeRespReceive p).chip.config = x.chip.config ∧
    (x.writeRespReceive p).chip.serve = x.chip.serve ∧ (x.writeRespReceive p).chip.mem = x.chip.mem ∧
    (x.writeRespReceive p).chip.power = x.chip.power ∧ (x.writeRespReceive p).c = x.c ∧ (x.writeRespReceive p).now = x.now := by
  unfold Ctx.writeRespReceive; simp

@[simp] theorem Ctx.collective_keeps (x : Ctx) (p : Nat) (vc : Nat) :
    (x.collective p vc).chip.boot = x.chip.boot ∧ (x.collective p vc).chip.config = x.chip.config ∧
    (x.collective p vc).chip.serve = x.chip.serve ∧ (x.collective p vc).chip.power = x.chip.power ∧
    (x.collective p vc).c = x.c ∧ (x.collective p vc).now = x.now := by
  unfold Ctx.collective; simp

@[simp] theorem Ctx.escape_keeps (x : Ctx) (p : Nat) (vc : Nat) :
    (x.escape p vc).chip.boot = x.chip.boot ∧ (x.escape p vc).chip.bar = x.chip.bar ∧ (x.escape p vc).chip.stew = x.chip.stew ∧
    (x.escape p vc).chip.config = x.chip.config ∧ (x.escape p vc).chip.serve = x.chip.serve ∧
    (x.escape p vc).chip.mem = x.chip.mem ∧ (x.escape p vc).chip.power = x.chip.power ∧
    (x.escape p vc).chip.ledger = x.chip.ledger ∧ (x.escape p vc).c = x.c ∧ (x.escape p vc).now = x.now := by
  unfold Ctx.escape; dsimp only; (repeat' split) <;> simp

@[simp] theorem Ctx.noPortTimeout_keeps (x : Ctx) :
    (x.noPortTimeout).chip.boot = x.chip.boot ∧ (x.noPortTimeout).chip.bar = x.chip.bar ∧
    (x.noPortTimeout).chip.stew = x.chip.stew ∧ (x.noPortTimeout).chip.config = x.chip.config ∧
    (x.noPortTimeout).chip.serve = x.chip.serve ∧ (x.noPortTimeout).chip.mem = x.chip.mem ∧
    (x.noPortTimeout).chip.power = x.chip.power ∧ (x.noPortTimeout).chip.obs = x.chip.obs ∧
    (x.noPortTimeout).chip.ledger = x.chip.ledger ∧ (x.noPortTimeout).c = x.c ∧ (x.noPortTimeout).now = x.now := by
  unfold Ctx.noPortTimeout; dsimp only; (repeat' split) <;> simp

@[simp] theorem Ctx.takeRoutes_keeps (x : Ctx) (m : Mem) :
    (x.takeRoutes m).chip.boot = x.chip.boot ∧ (x.takeRoutes m).chip.serve = x.chip.serve ∧
    (x.takeRoutes m).chip.mem = x.chip.mem ∧ (x.takeRoutes m).chip.power = x.chip.power ∧ (x.takeRoutes m).c = x.c ∧
    (x.takeRoutes m).now = x.now := by
  unfold Ctx.takeRoutes; simp

@[simp] theorem Ctx.routeEpoch_keeps (x : Ctx) :
    (x.routeEpoch).chip.boot = x.chip.boot ∧ (x.routeEpoch).chip.serve = x.chip.serve ∧ (x.routeEpoch).chip.mem = x.chip.mem ∧
    (x.routeEpoch).chip.power = x.chip.power ∧ (x.routeEpoch).c = x.c ∧ (x.routeEpoch).now = x.now := by
  unfold Ctx.routeEpoch; (repeat' split) <;> simp_all

end Sys2Proof.Machine
end

