-- ==== Sys2Proof/Laws/FrameModels.lean ====
section
/-! SUPPORT. What the operations of Machine/Models.lean leave unchanged of a chip. -/
namespace Sys2Proof.Machine

@[simp] theorem Ctx.putSeg_keeps (x : Ctx) (m : Model) (g : Seg) (off : Nat) (bs : Bytes) :
    (x.putSeg m g off bs).chip.boot = x.chip.boot ∧ (x.putSeg m g off bs).chip.config = x.chip.config ∧
    (x.putSeg m g off bs).chip.serve = x.chip.serve ∧ (x.putSeg m g off bs).chip.fab = x.chip.fab ∧
    (x.putSeg m g off bs).chip.power = x.chip.power ∧ (x.putSeg m g off bs).c = x.c ∧ (x.putSeg m g off bs).now = x.now := by
  unfold Ctx.putSeg; simp

@[simp] theorem Ctx.blurModel_keeps (x : Ctx) (m : Model) :
    (x.blurModel m).chip.boot = x.chip.boot ∧ (x.blurModel m).chip.bar = x.chip.bar ∧ (x.blurModel m).chip.stew = x.chip.stew ∧
    (x.blurModel m).chip.config = x.chip.config ∧ (x.blurModel m).chip.serve = x.chip.serve ∧
    (x.blurModel m).chip.fab = x.chip.fab ∧ (x.blurModel m).chip.power = x.chip.power ∧ (x.blurModel m).chip.obs = x.chip.obs ∧
    (x.blurModel m).chip.ledger = x.chip.ledger ∧ (x.blurModel m).c = x.c ∧ (x.blurModel m).now = x.now := by
  unfold Ctx.blurModel; simp

@[simp] theorem Ctx.areaData_keeps (x : Ctx) (m : Model) (g : Seg) :
    (x.areaData m g).1.chip.boot = x.chip.boot ∧ (x.areaData m g).1.chip.config = x.chip.config ∧
    (x.areaData m g).1.chip.serve = x.chip.serve ∧ (x.areaData m g).1.chip.eng = x.chip.eng ∧
    (x.areaData m g).1.chip.fab = x.chip.fab ∧ (x.areaData m g).1.chip.power = x.chip.power ∧ (x.areaData m g).1.c = x.c ∧
    (x.areaData m g).1.now = x.now := by
  unfold Ctx.areaData; simp

@[simp] theorem Ctx.segData_keeps (x : Ctx) (m : Model) (source : Nat) (reads : Seg → Bool) (src : List SegData) (z4 : List Seg) :
    (x.segData m source reads src z4).1.chip.boot = x.chip.boot ∧
    (x.segData m source reads src z4).1.chip.config = x.chip.config ∧
    (x.segData m source reads src z4).1.chip.serve = x.chip.serve ∧ (x.segData m source reads src z4).1.chip.eng = x.chip.eng ∧
    (x.segData m source reads src z4).1.chip.fab = x.chip.fab ∧ (x.segData m source reads src z4).1.chip.power = x.chip.power ∧
    (x.segData m source reads src z4).1.c = x.c ∧ (x.segData m source reads src z4).1.now = x.now := by
  induction z4 generalizing x m source reads src <;> (simp only [Ctx.segData]; (repeat' split) <;> simp_all)

@[simp] theorem Ctx.carry_keeps (x : Ctx) (m : Model) (g : Seg) :
    (x.carry m g).chip.boot = x.chip.boot ∧ (x.carry m g).chip.bar = x.chip.bar ∧ (x.carry m g).chip.stew = x.chip.stew ∧
    (x.carry m g).chip.config = x.chip.config ∧ (x.carry m g).chip.serve = x.chip.serve ∧ (x.carry m g).chip.eng = x.chip.eng ∧
    (x.carry m g).chip.mem = x.chip.mem ∧ (x.carry m g).chip.fab = x.chip.fab ∧ (x.carry m g).chip.power = x.chip.power ∧
    (x.carry m g).c = x.c ∧ (x.carry m g).now = x.now := by
  unfold Ctx.carry; (repeat' split) <;> simp_all

@[simp] theorem Ctx.carryAll_keeps (x : Ctx) (m : Model) (source : Nat) (segs : List Seg) :
    (x.carryAll m source segs).chip.boot = x.chip.boot ∧ (x.carryAll m source segs).chip.bar = x.chip.bar ∧
    (x.carryAll m source segs).chip.stew = x.chip.stew ∧ (x.carryAll m source segs).chip.config = x.chip.config ∧
    (x.carryAll m source segs).chip.serve = x.chip.serve ∧ (x.carryAll m source segs).chip.eng = x.chip.eng ∧
    (x.carryAll m source segs).chip.mem = x.chip.mem ∧ (x.carryAll m source segs).chip.fab = x.chip.fab ∧
    (x.carryAll m source segs).chip.power = x.chip.power ∧ (x.carryAll m source segs).c = x.c ∧
    (x.carryAll m source segs).now = x.now := by
  unfold Ctx.carryAll; simp

@[simp] theorem Ctx.sendPiece_keeps (x : Ctx) (id : Nat) (m : Model) (key : Nat) (i : Nat) (g : Seg) (d : Nat) (off : Nat) (bs : Bytes) :
    (x.sendPiece id m key i g d off bs).chip.boot = x.chip.boot ∧ (x.sendPiece id m key i g d off bs).chip.bar = x.chip.bar ∧
    (x.sendPiece id m key i g d off bs).chip.stew = x.chip.stew ∧
    (x.sendPiece id m key i g d off bs).chip.config = x.chip.config ∧
    (x.sendPiece id m key i g d off bs).chip.serve = x.chip.serve ∧ (x.sendPiece id m key i g d off bs).chip.mem = x.chip.mem ∧
    (x.sendPiece id m key i g d off bs).chip.power = x.chip.power ∧
    (x.sendPiece id m key i g d off bs).chip.ledger = x.chip.ledger ∧ (x.sendPiece id m key i g d off bs).c = x.c ∧
    (x.sendPiece id m key i g d off bs).now = x.now := by
  unfold Ctx.sendPiece; simp

@[simp] theorem Ctx.sendSeg_keeps (x : Ctx) (id : Nat) (m : Model) (key : Nat) (i : Nat) (g : Seg) (bs : Bytes) (d : Nat) :
    (x.sendSeg id m key i g bs d).chip.boot = x.chip.boot ∧ (x.sendSeg id m key i g bs d).chip.bar = x.chip.bar ∧
    (x.sendSeg id m key i g bs d).chip.stew = x.chip.stew ∧ (x.sendSeg id m key i g bs d).chip.config = x.chip.config ∧
    (x.sendSeg id m key i g bs d).chip.serve = x.chip.serve ∧ (x.sendSeg id m key i g bs d).chip.mem = x.chip.mem ∧
    (x.sendSeg id m key i g bs d).chip.power = x.chip.power ∧ (x.sendSeg id m key i g bs d).chip.ledger = x.chip.ledger ∧
    (x.sendSeg id m key i g bs d).c = x.c ∧ (x.sendSeg id m key i g bs d).now = x.now := by
  unfold Ctx.sendSeg; simp

@[simp] theorem Ctx.stopTag_keeps (x : Ctx) (t : Nat) :
    (x.stopTag t).chip.boot = x.chip.boot ∧ (x.stopTag t).chip.bar = x.chip.bar ∧ (x.stopTag t).chip.stew = x.chip.stew ∧
    (x.stopTag t).chip.config = x.chip.config ∧ (x.stopTag t).chip.serve = x.chip.serve ∧ (x.stopTag t).chip.eng = x.chip.eng ∧
    (x.stopTag t).chip.mem = x.chip.mem ∧ (x.stopTag t).chip.power = x.chip.power ∧ (x.stopTag t).chip.obs = x.chip.obs ∧
    (x.stopTag t).chip.ledger = x.chip.ledger ∧ (x.stopTag t).c = x.c ∧ (x.stopTag t).now = x.now := by
  unfold Ctx.stopTag; simp

@[simp] theorem Ctx.settleLoad_keeps (x : Ctx) (id : Nat) :
    (x.settleLoad id).chip.boot = x.chip.boot ∧ (x.settleLoad id).chip.config = x.chip.config ∧
    (x.settleLoad id).chip.eng = x.chip.eng ∧ (x.settleLoad id).chip.mem = x.chip.mem ∧
    (x.settleLoad id).chip.fab = x.chip.fab ∧ (x.settleLoad id).chip.power = x.chip.power ∧ (x.settleLoad id).c = x.c ∧
    (x.settleLoad id).now = x.now := by
  unfold Ctx.settleLoad; dsimp only; (repeat' split) <;> simp

@[simp] theorem Ctx.settleLoads_keeps (x : Ctx) :
    (x.settleLoads).chip.boot = x.chip.boot ∧ (x.settleLoads).chip.config = x.chip.config ∧
    (x.settleLoads).chip.eng = x.chip.eng ∧ (x.settleLoads).chip.mem = x.chip.mem ∧ (x.settleLoads).chip.fab = x.chip.fab ∧
    (x.settleLoads).chip.power = x.chip.power ∧ (x.settleLoads).c = x.c ∧ (x.settleLoads).now = x.now := by
  unfold Ctx.settleLoads; simp

@[simp] theorem Ctx.abortLoad_keeps (x : Ctx) (id : Nat) (f : Refuse) :
    (x.abortLoad id f).chip.boot = x.chip.boot ∧ (x.abortLoad id f).chip.config = x.chip.config ∧
    (x.abortLoad id f).chip.power = x.chip.power ∧ (x.abortLoad id f).c = x.c ∧ (x.abortLoad id f).now = x.now := by
  unfold Ctx.abortLoad; dsimp only; (repeat' split) <;> simp

@[simp] theorem Ctx.placeSegs_keeps (x : Ctx) (m : Model) (i : Nat) (z2 : List Seg) (z3 : List SegData) :
    (x.placeSegs m i z2 z3).1.chip.boot = x.chip.boot ∧ (x.placeSegs m i z2 z3).1.chip.config = x.chip.config ∧
    (x.placeSegs m i z2 z3).1.chip.serve = x.chip.serve ∧ (x.placeSegs m i z2 z3).1.chip.fab = x.chip.fab ∧
    (x.placeSegs m i z2 z3).1.chip.power = x.chip.power ∧ (x.placeSegs m i z2 z3).1.c = x.c ∧
    (x.placeSegs m i z2 z3).1.now = x.now := by
  fun_induction Ctx.placeSegs x m i z2 z3 <;> simp_all

@[simp] theorem Ctx.sendOne_keeps (x : Ctx) (id : Nat) (m : Model) (key : Nat) (children : List (Nat × Bool)) (src : List SegData) (i : Nat) :
    (x.sendOne id m key children src i).chip.boot = x.chip.boot ∧ (x.sendOne id m key children src i).chip.bar = x.chip.bar ∧
    (x.sendOne id m key children src i).chip.stew = x.chip.stew ∧
    (x.sendOne id m key children src i).chip.config = x.chip.config ∧
    (x.sendOne id m key children src i).chip.serve = x.chip.serve ∧ (x.sendOne id m key children src i).chip.mem = x.chip.mem ∧
    (x.sendOne id m key children src i).chip.power = x.chip.power ∧
    (x.sendOne id m key children src i).chip.ledger = x.chip.ledger ∧ (x.sendOne id m key children src i).c = x.c ∧
    (x.sendOne id m key children src i).now = x.now := by
  unfold Ctx.sendOne; (repeat' split) <;> simp_all

@[simp] theorem Ctx.modelLoad_keeps (x : Ctx) (k : Cmd) (manifest : Bytes) (src : List SegData) :
    (x.modelLoad k manifest src).chip.boot = x.chip.boot ∧ (x.modelLoad k manifest src).chip.config = x.chip.config ∧
    (x.modelLoad k manifest src).chip.power = x.chip.power ∧ (x.modelLoad k manifest src).c = x.c ∧
    (x.modelLoad k manifest src).now = x.now := by
  unfold Ctx.modelLoad; dsimp only; (repeat' split) <;> simp

@[simp] theorem Ctx.pieceIn_keeps (x : Ctx) (b : Bytes) (id : Nat) (m : Model) (t : Tree) (i : Nat) (g : Seg) :
    (x.pieceIn b id m t i g).chip.boot = x.chip.boot ∧ (x.pieceIn b id m t i g).chip.config = x.chip.config ∧
    (x.pieceIn b id m t i g).chip.power = x.chip.power ∧ (x.pieceIn b id m t i g).c = x.c ∧ (x.pieceIn b id m t i g).now = x.now := by
  unfold Ctx.pieceIn; dsimp only; (repeat' split) <;> simp

@[simp] theorem Ctx.segmentIn_keeps (x : Ctx) (b : Bytes) :
    (x.segmentIn b).chip.boot = x.chip.boot ∧ (x.segmentIn b).chip.config = x.chip.config ∧
    (x.segmentIn b).chip.power = x.chip.power ∧ (x.segmentIn b).c = x.c ∧ (x.segmentIn b).now = x.now := by
  unfold Ctx.segmentIn; (repeat' split) <;> simp_all

@[simp] theorem Ctx.segmentReceive_keeps (x : Ctx) (p : Nat) (vc : Nat) :
    (x.segmentReceive p vc).chip.boot = x.chip.boot ∧ (x.segmentReceive p vc).chip.config = x.chip.config ∧
    (x.segmentReceive p vc).chip.power = x.chip.power ∧ (x.segmentReceive p vc).c = x.c ∧ (x.segmentReceive p vc).now = x.now := by
  unfold Ctx.segmentReceive; simp

@[simp] theorem Ctx.loadTimeout_keeps (x : Ctx) (id : Nat) :
    (x.loadTimeout id).chip.boot = x.chip.boot ∧ (x.loadTimeout id).chip.config = x.chip.config ∧
    (x.loadTimeout id).chip.power = x.chip.power ∧ (x.loadTimeout id).c = x.c ∧ (x.loadTimeout id).now = x.now := by
  unfold Ctx.loadTimeout; (repeat' split) <;> simp_all

@[simp] theorem Ctx.childTimeout_keeps (x : Ctx) (id : Nat) (child : Nat) :
    (x.childTimeout id child).chip.boot = x.chip.boot ∧ (x.childTimeout id child).chip.config = x.chip.config ∧
    (x.childTimeout id child).chip.eng = x.chip.eng ∧ (x.childTimeout id child).chip.mem = x.chip.mem ∧
    (x.childTimeout id child).chip.power = x.chip.power ∧ (x.childTimeout id child).c = x.c ∧
    (x.childTimeout id child).now = x.now := by
  unfold Ctx.childTimeout; dsimp only; (repeat' split) <;> simp

@[simp] theorem Ctx.modelUnload_keeps (x : Ctx) (k : Cmd) :
    (x.modelUnload k).chip.boot = x.chip.boot ∧ (x.modelUnload k).chip.config = x.chip.config ∧
    (x.modelUnload k).chip.eng = x.chip.eng ∧ (x.modelUnload k).chip.mem = x.chip.mem ∧
    (x.modelUnload k).chip.fab = x.chip.fab ∧ (x.modelUnload k).chip.power = x.chip.power ∧ (x.modelUnload k).c = x.c ∧
    (x.modelUnload k).now = x.now := by
  unfold Ctx.modelUnload; simp

@[simp] theorem Ctx.swapBegin_keeps (x : Ctx) (k : Cmd) :
    (x.swapBegin k).chip.boot = x.chip.boot ∧ (x.swapBegin k).chip.config = x.chip.config ∧
    (x.swapBegin k).chip.serve = x.chip.serve ∧ (x.swapBegin k).chip.eng = x.chip.eng ∧ (x.swapBegin k).chip.mem = x.chip.mem ∧
    (x.swapBegin k).chip.fab = x.chip.fab ∧ (x.swapBegin k).chip.power = x.chip.power ∧ (x.swapBegin k).c = x.c ∧
    (x.swapBegin k).now = x.now := by
  unfold Ctx.swapBegin; (repeat' split) <;> simp_all

@[simp] theorem Ctx.swapTakeEffect_keeps (x : Ctx) (id : Nat) :
    (x.swapTakeEffect id).chip.boot = x.chip.boot ∧ (x.swapTakeEffect id).chip.config = x.chip.config ∧
    (x.swapTakeEffect id).chip.eng = x.chip.eng ∧ (x.swapTakeEffect id).chip.mem = x.chip.mem ∧
    (x.swapTakeEffect id).chip.fab = x.chip.fab ∧ (x.swapTakeEffect id).chip.power = x.chip.power ∧
    (x.swapTakeEffect id).c = x.c ∧ (x.swapTakeEffect id).now = x.now := by
  unfold Ctx.swapTakeEffect; dsimp only; (repeat' split) <;> simp

@[simp] theorem Ctx.refuseLayers_keeps (x : Ctx) (l : List (Nat × List Seg × List SegData)) :
    (x.refuseLayers l).chip.boot = x.chip.boot ∧ (x.refuseLayers l).chip.config = x.chip.config ∧
    (x.refuseLayers l).chip.serve = x.chip.serve ∧ (x.refuseLayers l).chip.eng = x.chip.eng ∧
    (x.refuseLayers l).chip.mem = x.chip.mem ∧ (x.refuseLayers l).chip.fab = x.chip.fab ∧
    (x.refuseLayers l).chip.power = x.chip.power ∧ (x.refuseLayers l).c = x.c ∧ (x.refuseLayers l).now = x.now := by
  unfold Ctx.refuseLayers
  induction l generalizing x with
  | nil => simp
  | cons e r ih => rw [List.foldl_cons]; have h := ih (match x.cmd? e.1 with | some k => x.refuse k 0x0207 0 0 | none => x); cases hc : x.cmd? e.1 <;> simp_all

@[simp] theorem Ctx.swapLayer_keeps (x : Ctx) (k : Cmd) (data : Bytes) (src : List SegData) :
    (x.swapLayer k data src).chip.boot = x.chip.boot ∧ (x.swapLayer k data src).chip.config = x.chip.config ∧
    (x.swapLayer k data src).chip.eng = x.chip.eng ∧ (x.swapLayer k data src).chip.fab = x.chip.fab ∧
    (x.swapLayer k data src).chip.power = x.chip.power ∧ (x.swapLayer k data src).c = x.c ∧ (x.swapLayer k data src).now = x.now := by
  unfold Ctx.swapLayer; dsimp only; (repeat' split) <;> simp

@[simp] theorem Ctx.swapStart_keeps (x : Ctx) (mid : Nat) :
    (x.swapStart mid).chip.boot = x.chip.boot ∧ (x.swapStart mid).chip.bar = x.chip.bar ∧
    (x.swapStart mid).chip.stew = x.chip.stew ∧ (x.swapStart mid).chip.config = x.chip.config ∧
    (x.swapStart mid).chip.fab = x.chip.fab ∧ (x.swapStart mid).chip.power = x.chip.power ∧
    (x.swapStart mid).chip.obs = x.chip.obs ∧ (x.swapStart mid).chip.ledger = x.chip.ledger ∧ (x.swapStart mid).c = x.c ∧
    (x.swapStart mid).now = x.now := by
  unfold Ctx.swapStart; simp

@[simp] theorem Ctx.writeUnit_keeps (x : Ctx) (m : Model) (z1 : List Seg) (z2 : List SegData) :
    (x.writeUnit m z1 z2).chip.boot = x.chip.boot ∧ (x.writeUnit m z1 z2).chip.config = x.chip.config ∧
    (x.writeUnit m z1 z2).chip.serve = x.chip.serve ∧ (x.writeUnit m z1 z2).chip.fab = x.chip.fab ∧
    (x.writeUnit m z1 z2).chip.power = x.chip.power ∧ (x.writeUnit m z1 z2).c = x.c ∧ (x.writeUnit m z1 z2).now = x.now := by
  fun_induction Ctx.writeUnit x m z1 z2 <;> simp_all

@[simp] theorem Ctx.layerData_keeps (x : Ctx) (m : Model) (k : Cmd) (segs : List Seg) (data : List SegData) :
    (x.layerData m k segs data).1.chip.boot = x.chip.boot ∧ (x.layerData m k segs data).1.chip.config = x.chip.config ∧
    (x.layerData m k segs data).1.chip.serve = x.chip.serve ∧ (x.layerData m k segs data).1.chip.eng = x.chip.eng ∧
    (x.layerData m k segs data).1.chip.fab = x.chip.fab ∧ (x.layerData m k segs data).1.chip.power = x.chip.power ∧
    (x.layerData m k segs data).1.c = x.c ∧ (x.layerData m k segs data).1.now = x.now := by
  unfold Ctx.layerData; (repeat' split) <;> simp_all

@[simp] theorem Ctx.swapComplete_keeps (x : Ctx) (mid : Nat) :
    (x.swapComplete mid).chip.boot = x.chip.boot ∧ (x.swapComplete mid).chip.config = x.chip.config ∧
    (x.swapComplete mid).chip.fab = x.chip.fab ∧ (x.swapComplete mid).chip.power = x.chip.power ∧
    (x.swapComplete mid).c = x.c ∧ (x.swapComplete mid).now = x.now := by
  unfold Ctx.swapComplete; dsimp only; (repeat' split) <;> simp

@[simp] theorem Ctx.swapErr_keeps (x : Ctx) (m : Model) (k : Cmd) (segs : List Seg) (data : List SegData) (host : SrcErr × Nat × Nat) :
    (x.swapErr m k segs data host).1.chip.boot = x.chip.boot ∧ (x.swapErr m k segs data host).1.chip.config = x.chip.config ∧
    (x.swapErr m k segs data host).1.chip.serve = x.chip.serve ∧ (x.swapErr m k segs data host).1.chip.eng = x.chip.eng ∧
    (x.swapErr m k segs data host).1.chip.fab = x.chip.fab ∧ (x.swapErr m k segs data host).1.chip.power = x.chip.power ∧
    (x.swapErr m k segs data host).1.c = x.c ∧ (x.swapErr m k segs data host).1.now = x.now := by
  unfold Ctx.swapErr; simp

@[simp] theorem Ctx.swapFail_keeps (x : Ctx) (mid : Nat) (err : SrcErr) (seg : Nat) (off : Nat) :
    (x.swapFail mid err seg off).chip.boot = x.chip.boot ∧ (x.swapFail mid err seg off).chip.config = x.chip.config ∧
    (x.swapFail mid err seg off).chip.fab = x.chip.fab ∧ (x.swapFail mid err seg off).chip.power = x.chip.power ∧
    (x.swapFail mid err seg off).c = x.c ∧ (x.swapFail mid err seg off).now = x.now := by
  unfold Ctx.swapFail; dsimp only; (repeat' split) <;> simp

@[simp] theorem Ctx.swapEnd_keeps (x : Ctx) (k : Cmd) :
    (x.swapEnd k).chip.boot = x.chip.boot ∧ (x.swapEnd k).chip.config = x.chip.config ∧ (x.swapEnd k).chip.eng = x.chip.eng ∧
    (x.swapEnd k).chip.mem = x.chip.mem ∧ (x.swapEnd k).chip.fab = x.chip.fab ∧ (x.swapEnd k).chip.power = x.chip.power ∧
    (x.swapEnd k).c = x.c ∧ (x.swapEnd k).now = x.now := by
  unfold Ctx.swapEnd; dsimp only; (repeat' split) <;> simp

@[simp] theorem Ctx.swapAbandon_keeps (x : Ctx) (k : Cmd) :
    (x.swapAbandon k).chip.boot = x.chip.boot ∧ (x.swapAbandon k).chip.config = x.chip.config ∧
    (x.swapAbandon k).chip.eng = x.chip.eng ∧ (x.swapAbandon k).chip.mem = x.chip.mem ∧
    (x.swapAbandon k).chip.fab = x.chip.fab ∧ (x.swapAbandon k).chip.power = x.chip.power ∧ (x.swapAbandon k).c = x.c ∧
    (x.swapAbandon k).now = x.now := by
  unfold Ctx.swapAbandon; dsimp only; (repeat' split) <;> simp

end Sys2Proof.Machine
end

