-- ==== Sys2Proof/Laws/FrameMicro.lean ====
section
/-! SUPPORT. What the operations of Machine/Micro.lean leave unchanged of a chip. -/
namespace Sys2Proof.Machine

@[simp] theorem Ctx.onLane_keeps (x : Ctx) (d : Nat) (lane : Nat) (code : Nat) (w : Nat) (f : Nat → Lane → Lane) :
    (x.onLane d lane code w f).chip.boot = x.chip.boot ∧ (x.onLane d lane code w f).chip.bar = x.chip.bar ∧
    (x.onLane d lane code w f).chip.stew = x.chip.stew ∧ (x.onLane d lane code w f).chip.config = x.chip.config ∧
    (x.onLane d lane code w f).chip.serve = x.chip.serve ∧ (x.onLane d lane code w f).chip.mem = x.chip.mem ∧
    (x.onLane d lane code w f).chip.fab = x.chip.fab ∧ (x.onLane d lane code w f).chip.power = x.chip.power ∧
    (x.onLane d lane code w f).chip.obs = x.chip.obs ∧ (x.onLane d lane code w f).chip.ledger = x.chip.ledger ∧
    (x.onLane d lane code w f).c = x.c ∧ (x.onLane d lane code w f).now = x.now := by
  unfold Ctx.onLane; simp

end Sys2Proof.Machine
end

