-- ==== Sys2Proof/Laws/FrameConfigCmds.lean ====
section
/-! SUPPORT. What the operations of Machine/ConfigCmds.lean leave unchanged of a chip. -/
namespace Sys2Proof.Machine

@[simp] theorem Ctx.acceptShadow_keeps (x : Ctx) (k : Cmd) (f : CfgSet → CfgSet) (r1 : Nat) :
    (x.acceptShadow k f r1).chip.boot = x.chip.boot ∧ (x.acceptShadow k f r1).chip.serve = x.chip.serve ∧
    (x.acceptShadow k f r1).chip.eng = x.chip.eng ∧ (x.acceptShadow k f r1).chip.mem = x.chip.mem ∧
    (x.acceptShadow k f r1).chip.fab = x.chip.fab ∧ (x.acceptShadow k f r1).chip.power = x.chip.power ∧
    (x.acceptShadow k f r1).c = x.c ∧ (x.acceptShadow k f r1).now = x.now := by
  unfold Ctx.acceptShadow; simp

@[simp] theorem Ctx.writeShadow_keeps (x : Ctx) (k : Cmd) (n : Nat) (data : Bytes) :
    (x.writeShadow k n data).chip.boot = x.chip.boot ∧ (x.writeShadow k n data).chip.serve = x.chip.serve ∧
    (x.writeShadow k n data).chip.eng = x.chip.eng ∧ (x.writeShadow k n data).chip.mem = x.chip.mem ∧
    (x.writeShadow k n data).chip.fab = x.chip.fab ∧ (x.writeShadow k n data).chip.power = x.chip.power ∧
    (x.writeShadow k n data).c = x.c ∧ (x.writeShadow k n data).now = x.now := by
  unfold Ctx.writeShadow; dsimp only; (repeat' split) <;> simp

@[simp] theorem Ctx.configWrite_keeps (x : Ctx) (k : Cmd) (data : Bytes) :
    (x.configWrite k data).chip.boot = x.chip.boot ∧ (x.configWrite k data).chip.serve = x.chip.serve ∧
    (x.configWrite k data).chip.eng = x.chip.eng ∧ (x.configWrite k data).chip.mem = x.chip.mem ∧
    (x.configWrite k data).chip.fab = x.chip.fab ∧ (x.configWrite k data).chip.power = x.chip.power ∧
    (x.configWrite k data).c = x.c ∧ (x.configWrite k data).now = x.now := by
  unfold Ctx.configWrite; simp

@[simp] theorem Ctx.microLoad_keeps (x : Ctx) (k : Cmd) (data : Bytes) :
    (x.microLoad k data).chip.boot = x.chip.boot ∧ (x.microLoad k data).chip.serve = x.chip.serve ∧
    (x.microLoad k data).chip.eng = x.chip.eng ∧ (x.microLoad k data).chip.mem = x.chip.mem ∧
    (x.microLoad k data).chip.fab = x.chip.fab ∧ (x.microLoad k data).chip.power = x.chip.power ∧
    (x.microLoad k data).c = x.c ∧ (x.microLoad k data).now = x.now := by
  unfold Ctx.microLoad; dsimp only; (repeat' split) <;> simp

@[simp] theorem Ctx.microClear_keeps (x : Ctx) (k : Cmd) :
    (x.microClear k).chip.boot = x.chip.boot ∧ (x.microClear k).chip.serve = x.chip.serve ∧
    (x.microClear k).chip.eng = x.chip.eng ∧ (x.microClear k).chip.mem = x.chip.mem ∧ (x.microClear k).chip.fab = x.chip.fab ∧
    (x.microClear k).chip.power = x.chip.power ∧ (x.microClear k).c = x.c ∧ (x.microClear k).now = x.now := by
  unfold Ctx.microClear; simp

@[simp] theorem Ctx.moveSupers_keeps (x : Ctx) (o : Mem) (n : Mem) :
    (x.moveSupers o n).chip.boot = x.chip.boot ∧ (x.moveSupers o n).chip.config = x.chip.config ∧
    (x.moveSupers o n).chip.serve = x.chip.serve ∧ (x.moveSupers o n).chip.fab = x.chip.fab ∧
    (x.moveSupers o n).chip.power = x.chip.power ∧ (x.moveSupers o n).c = x.c ∧ (x.moveSupers o n).now = x.now := by
  unfold Ctx.moveSupers; simp

@[simp] theorem Ctx.exchange_keeps (x : Ctx) (n : Nat) :
    (x.exchange n).chip.boot = x.chip.boot ∧ (x.exchange n).chip.serve = x.chip.serve ∧ (x.exchange n).chip.fab = x.chip.fab ∧
    (x.exchange n).c = x.c ∧ (x.exchange n).now = x.now := by
  unfold Ctx.exchange; simp

@[simp] theorem Ctx.commitDone_keeps (x : Ctx) :
    (x.commitDone).chip.boot = x.chip.boot ∧ (x.commitDone).chip.serve = x.chip.serve ∧ (x.commitDone).chip.eng = x.chip.eng ∧
    (x.commitDone).chip.mem = x.chip.mem ∧ (x.commitDone).chip.fab = x.chip.fab ∧ (x.commitDone).chip.power = x.chip.power ∧
    (x.commitDone).c = x.c ∧ (x.commitDone).now = x.now := by
  unfold Ctx.commitDone; dsimp only; (repeat' split) <;> simp

@[simp] theorem Ctx.exchangeSome_keeps (x : Ctx) (p : Nat → Bool) :
    (x.exchangeSome p).chip.boot = x.chip.boot ∧ (x.exchangeSome p).chip.serve = x.chip.serve ∧
    (x.exchangeSome p).chip.fab = x.chip.fab ∧ (x.exchangeSome p).c = x.c ∧ (x.exchangeSome p).now = x.now := by
  unfold Ctx.exchangeSome; dsimp only; (repeat' split) <;> simp

@[simp] theorem Ctx.commitRoutes_keeps (x : Ctx) :
    (x.commitRoutes).chip.boot = x.chip.boot ∧ (x.commitRoutes).chip.serve = x.chip.serve ∧
    (x.commitRoutes).chip.mem = x.chip.mem ∧ (x.commitRoutes).chip.power = x.chip.power ∧ (x.commitRoutes).c = x.c ∧
    (x.commitRoutes).now = x.now := by
  unfold Ctx.commitRoutes; simp

@[simp] theorem Ctx.configCommit_keeps (x : Ctx) (k : Cmd) :
    (x.configCommit k).chip.boot = x.chip.boot ∧ (x.configCommit k).chip.serve = x.chip.serve ∧ (x.configCommit k).c = x.c ∧
    (x.configCommit k).now = x.now := by
  unfold Ctx.configCommit; dsimp only; (repeat' split) <;> simp

@[simp] theorem Ctx.sectionExchange_keeps (x : Ctx) (n : Nat) :
    (x.sectionExchange n).chip.boot = x.chip.boot ∧ (x.sectionExchange n).chip.serve = x.chip.serve ∧
    (x.sectionExchange n).chip.fab = x.chip.fab ∧ (x.sectionExchange n).c = x.c ∧ (x.sectionExchange n).now = x.now := by
  unfold Ctx.sectionExchange; simp

end Sys2Proof.Machine
end

