-- ==== Sys2Proof/Laws/FrameComb.lean ====
section
/-! SUPPORT. What the operations of Machine/Comb.lean leave unchanged of a chip. -/
namespace Sys2Proof.Machine

@[simp] theorem Ctx.badOperands_keeps (x : Ctx) (q : QDesc) (die : Nat) (bad : List (Nat × SrcErr)) :
    (x.badOperands q die bad).chip.boot = x.chip.boot ∧ (x.badOperands q die bad).chip.bar = x.chip.bar ∧
    (x.badOperands q die bad).chip.stew = x.chip.stew ∧ (x.badOperands q die bad).chip.config = x.chip.config ∧
    (x.badOperands q die bad).chip.eng = x.chip.eng ∧ (x.badOperands q die bad).chip.mem = x.chip.mem ∧
    (x.badOperands q die bad).chip.fab = x.chip.fab ∧ (x.badOperands q die bad).chip.power = x.chip.power ∧
    (x.badOperands q die bad).chip.ledger = x.chip.ledger ∧ (x.badOperands q die bad).c = x.c ∧
    (x.badOperands q die bad).now = x.now := by
  unfold Ctx.badOperands; simp

@[simp] theorem Ctx.readFor_keeps (x : Ctx) (q : QDesc) (die : Nat) (a : Nat) (n : Nat) :
    (x.readFor q die a n).1.chip.boot = x.chip.boot ∧ (x.readFor q die a n).1.chip.config = x.chip.config ∧
    (x.readFor q die a n).1.chip.eng = x.chip.eng ∧ (x.readFor q die a n).1.chip.fab = x.chip.fab ∧
    (x.readFor q die a n).1.chip.power = x.chip.power ∧ (x.readFor q die a n).1.c = x.c ∧ (x.readFor q die a n).1.now = x.now := by
  unfold Ctx.readFor; simp

@[simp] theorem Ctx.readRuns_keeps (x : Ctx) (q : QDesc) (die : Nat) (z2 : List (Nat × Nat)) :
    (x.readRuns q die z2).1.chip.boot = x.chip.boot ∧ (x.readRuns q die z2).1.chip.config = x.chip.config ∧
    (x.readRuns q die z2).1.chip.eng = x.chip.eng ∧ (x.readRuns q die z2).1.chip.fab = x.chip.fab ∧
    (x.readRuns q die z2).1.chip.power = x.chip.power ∧ (x.readRuns q die z2).1.c = x.c ∧ (x.readRuns q die z2).1.now = x.now := by
  induction z2 generalizing x q die <;> simp_all [Ctx.readRuns]

@[simp] theorem Ctx.combCount_keeps (x : Ctx) (k : Nat) (val : Nat) (n : Nat) :
    (x.combCount k val n).chip.boot = x.chip.boot ∧ (x.combCount k val n).chip.bar = x.chip.bar ∧
    (x.combCount k val n).chip.stew = x.chip.stew ∧ (x.combCount k val n).chip.config = x.chip.config ∧
    (x.combCount k val n).chip.serve = x.chip.serve ∧ (x.combCount k val n).chip.eng = x.chip.eng ∧
    (x.combCount k val n).chip.mem = x.chip.mem ∧ (x.combCount k val n).chip.fab = x.chip.fab ∧
    (x.combCount k val n).chip.power = x.chip.power ∧ (x.combCount k val n).chip.ledger = x.chip.ledger ∧
    (x.combCount k val n).c = x.c ∧ (x.combCount k val n).now = x.now := by
  unfold Ctx.combCount; simp

@[simp] theorem Ctx.sequencerRelease_keeps (x : Ctx) (d : Nat) (k : Nat) (w : TokenWait) :
    (x.sequencerRelease d k w).chip.boot = x.chip.boot ∧ (x.sequencerRelease d k w).chip.config = x.chip.config ∧
    (x.sequencerRelease d k w).chip.serve = x.chip.serve ∧ (x.sequencerRelease d k w).chip.mem = x.chip.mem ∧
    (x.sequencerRelease d k w).chip.fab = x.chip.fab ∧ (x.sequencerRelease d k w).chip.power = x.chip.power ∧
    (x.sequencerRelease d k w).c = x.c ∧ (x.sequencerRelease d k w).now = x.now := by
  unfold Ctx.sequencerRelease; dsimp only; (repeat' split) <;> simp

@[simp] theorem Ctx.groupQuad_keeps (x : Ctx) (q : QDesc) (die : Nat) (u : Nat) (row : Nat) (t : TileOf) :
    (x.groupQuad q die u row t).1.chip.boot = x.chip.boot ∧ (x.groupQuad q die u row t).1.chip.config = x.chip.config ∧
    (x.groupQuad q die u row t).1.chip.eng = x.chip.eng ∧ (x.groupQuad q die u row t).1.chip.fab = x.chip.fab ∧
    (x.groupQuad q die u row t).1.chip.power = x.chip.power ∧ (x.groupQuad q die u row t).1.c = x.c ∧
    (x.groupQuad q die u row t).1.now = x.now := by
  unfold Ctx.groupQuad; simp

@[simp] theorem Ctx.groupQuads_keeps (x : Ctx) (q : QDesc) (die : Nat) (row : Nat) (z3 : Nat) (z4 : List TileOf) :
    (x.groupQuads q die row z3 z4).1.chip.boot = x.chip.boot ∧ (x.groupQuads q die row z3 z4).1.chip.config = x.chip.config ∧
    (x.groupQuads q die row z3 z4).1.chip.eng = x.chip.eng ∧ (x.groupQuads q die row z3 z4).1.chip.fab = x.chip.fab ∧
    (x.groupQuads q die row z3 z4).1.chip.power = x.chip.power ∧ (x.groupQuads q die row z3 z4).1.c = x.c ∧
    (x.groupQuads q die row z3 z4).1.now = x.now := by
  induction z4 generalizing x q die row z3 <;> simp_all [Ctx.groupQuads]

@[simp] theorem Ctx.groupsOf_keeps (x : Ctx) (q : QDesc) (die : Nat) (tiles : List TileOf) (bad : List Nat) (cycles : Nat) (frozen : Nat) (z6 : Nat) (z7 : Nat) :
    (x.groupsOf q die tiles bad cycles frozen z6 z7).1.chip.boot = x.chip.boot ∧
    (x.groupsOf q die tiles bad cycles frozen z6 z7).1.chip.config = x.chip.config ∧
    (x.groupsOf q die tiles bad cycles frozen z6 z7).1.chip.eng = x.chip.eng ∧
    (x.groupsOf q die tiles bad cycles frozen z6 z7).1.chip.fab = x.chip.fab ∧
    (x.groupsOf q die tiles bad cycles frozen z6 z7).1.chip.power = x.chip.power ∧
    (x.groupsOf q die tiles bad cycles frozen z6 z7).1.c = x.c ∧ (x.groupsOf q die tiles bad cycles frozen z6 z7).1.now = x.now := by
  induction z7 generalizing x q die tiles bad cycles frozen z6 <;> simp_all [Ctx.groupsOf]

@[simp] theorem Ctx.issueCounts_keeps (x : Ctx) (k : Nat) (q : QDesc) (f : Freezes) (change : Bool) :
    (x.issueCounts k q f change).chip.boot = x.chip.boot ∧ (x.issueCounts k q f change).chip.config = x.chip.config ∧
    (x.issueCounts k q f change).chip.eng = x.chip.eng ∧ (x.issueCounts k q f change).chip.mem = x.chip.mem ∧
    (x.issueCounts k q f change).chip.fab = x.chip.fab ∧ (x.issueCounts k q f change).chip.power = x.chip.power ∧
    (x.issueCounts k q f change).c = x.c ∧ (x.issueCounts k q f change).now = x.now := by
  unfold Ctx.issueCounts; simp

@[simp] theorem Ctx.issue_keeps (x : Ctx) (k : Nat) (q : QDesc) (f : Freezes) (tiles : List TileOf) (bad : List Nat) :
    (x.issue k q f tiles bad).chip.boot = x.chip.boot ∧ (x.issue k q f tiles bad).chip.config = x.chip.config ∧
    (x.issue k q f tiles bad).chip.fab = x.chip.fab ∧ (x.issue k q f tiles bad).chip.power = x.chip.power ∧
    (x.issue k q f tiles bad).c = x.c ∧ (x.issue k q f tiles bad).now = x.now := by
  unfold Ctx.issue; simp

@[simp] theorem Ctx.readTile_keeps (x : Ctx) (q : QDesc) (die : Nat) (u : Nat) :
    (x.readTile q die u).1.chip.boot = x.chip.boot ∧ (x.readTile q die u).1.chip.config = x.chip.config ∧
    (x.readTile q die u).1.chip.eng = x.chip.eng ∧ (x.readTile q die u).1.chip.fab = x.chip.fab ∧
    (x.readTile q die u).1.chip.power = x.chip.power ∧ (x.readTile q die u).1.c = x.c ∧ (x.readTile q die u).1.now = x.now := by
  unfold Ctx.readTile; simp

@[simp] theorem Ctx.readTiles_keeps (x : Ctx) (q : QDesc) (die : Nat) (u : Nat) (z3 : Nat) :
    (x.readTiles q die u z3).1.chip.boot = x.chip.boot ∧ (x.readTiles q die u z3).1.chip.config = x.chip.config ∧
    (x.readTiles q die u z3).1.chip.eng = x.chip.eng ∧ (x.readTiles q die u z3).1.chip.fab = x.chip.fab ∧
    (x.readTiles q die u z3).1.chip.power = x.chip.power ∧ (x.readTiles q die u z3).1.c = x.c ∧
    (x.readTiles q die u z3).1.now = x.now := by
  induction z3 generalizing x q die u <;> simp_all [Ctx.readTiles]

@[simp] theorem Ctx.fill_keeps (x : Ctx) (k : Nat) (f : Freezes) :
    (x.fill k f).chip.boot = x.chip.boot ∧ (x.fill k f).chip.config = x.chip.config ∧ (x.fill k f).chip.fab = x.chip.fab ∧
    (x.fill k f).chip.power = x.chip.power ∧ (x.fill k f).c = x.c ∧ (x.fill k f).now = x.now := by
  unfold Ctx.fill; dsimp only; (repeat' split) <;> simp

@[simp] theorem Ctx.stream'_keeps (x : Ctx) (k : Nat) (f : Freezes) :
    (x.stream' k f).chip.boot = x.chip.boot ∧ (x.stream' k f).chip.config = x.chip.config ∧
    (x.stream' k f).chip.fab = x.chip.fab ∧ (x.stream' k f).chip.power = x.chip.power ∧ (x.stream' k f).c = x.c ∧
    (x.stream' k f).now = x.now := by
  unfold Ctx.stream'; dsimp only; (repeat' split) <;> simp

@[simp] theorem Ctx.tileStart_keeps (x : Ctx) (k : Nat) :
    (x.tileStart k).chip.boot = x.chip.boot ∧ (x.tileStart k).chip.bar = x.chip.bar ∧ (x.tileStart k).chip.stew = x.chip.stew ∧
    (x.tileStart k).chip.config = x.chip.config ∧ (x.tileStart k).chip.serve = x.chip.serve ∧
    (x.tileStart k).chip.mem = x.chip.mem ∧ (x.tileStart k).chip.fab = x.chip.fab ∧ (x.tileStart k).chip.power = x.chip.power ∧
    (x.tileStart k).chip.obs = x.chip.obs ∧ (x.tileStart k).chip.ledger = x.chip.ledger ∧ (x.tileStart k).c = x.c ∧
    (x.tileStart k).now = x.now := by
  unfold Ctx.tileStart; dsimp only; (repeat' split) <;> simp

@[simp] theorem Ctx.tileComplete_keeps (x : Ctx) (k : Nat) :
    (x.tileComplete k).chip.boot = x.chip.boot ∧ (x.tileComplete k).chip.config = x.chip.config ∧
    (x.tileComplete k).chip.fab = x.chip.fab ∧ (x.tileComplete k).chip.power = x.chip.power ∧ (x.tileComplete k).c = x.c ∧
    (x.tileComplete k).now = x.now := by
  unfold Ctx.tileComplete; dsimp only; (repeat' split) <;> simp

@[simp] theorem Ctx.drainRow_keeps (x : Ctx) (q : QDesc) (die : Nat) (a : Nat) (es : List AccElem) :
    (x.drainRow q die a es).1.chip.boot = x.chip.boot ∧ (x.drainRow q die a es).1.chip.config = x.chip.config ∧
    (x.drainRow q die a es).1.chip.fab = x.chip.fab ∧ (x.drainRow q die a es).1.chip.power = x.chip.power ∧
    (x.drainRow q die a es).1.c = x.c ∧ (x.drainRow q die a es).1.now = x.now := by
  unfold Ctx.drainRow; dsimp only; (repeat' split) <;> simp

@[simp] theorem Ctx.drainRows_keeps (x : Ctx) (q : QDesc) (die : Nat) (a : Nat) (z3 : List (List AccElem)) :
    (x.drainRows q die a z3).1.chip.boot = x.chip.boot ∧ (x.drainRows q die a z3).1.chip.config = x.chip.config ∧
    (x.drainRows q die a z3).1.chip.fab = x.chip.fab ∧ (x.drainRows q die a z3).1.chip.power = x.chip.power ∧
    (x.drainRows q die a z3).1.c = x.c ∧ (x.drainRows q die a z3).1.now = x.now := by
  induction z3 generalizing x q die a <;> simp_all [Ctx.drainRows]

@[simp] theorem Ctx.poisonQuad_keeps (x : Ctx) (g : Group) (die : Nat) (u : Nat) :
    (x.poisonQuad g die u).chip.boot = x.chip.boot ∧ (x.poisonQuad g die u).chip.bar = x.chip.bar ∧
    (x.poisonQuad g die u).chip.stew = x.chip.stew ∧ (x.poisonQuad g die u).chip.config = x.chip.config ∧
    (x.poisonQuad g die u).chip.serve = x.chip.serve ∧ (x.poisonQuad g die u).chip.eng = x.chip.eng ∧
    (x.poisonQuad g die u).chip.fab = x.chip.fab ∧ (x.poisonQuad g die u).chip.power = x.chip.power ∧
    (x.poisonQuad g die u).chip.obs = x.chip.obs ∧ (x.poisonQuad g die u).chip.ledger = x.chip.ledger ∧
    (x.poisonQuad g die u).c = x.c ∧ (x.poisonQuad g die u).now = x.now := by
  unfold Ctx.poisonQuad; simp

@[simp] theorem Ctx.drainQuads_keeps (x : Ctx) (g : Group) (die : Nat) (z2 : Nat) (z3 : List (List (List AccElem))) :
    (x.drainQuads g die z2 z3).1.chip.boot = x.chip.boot ∧ (x.drainQuads g die z2 z3).1.chip.config = x.chip.config ∧
    (x.drainQuads g die z2 z3).1.chip.fab = x.chip.fab ∧ (x.drainQuads g die z2 z3).1.chip.power = x.chip.power ∧
    (x.drainQuads g die z2 z3).1.c = x.c ∧ (x.drainQuads g die z2 z3).1.now = x.now := by
  induction z3 generalizing x g die z2 <;> simp_all [Ctx.drainQuads]

@[simp] theorem Ctx.arithCounts_keeps (x : Ctx) (die : Nat) (super : Nat) (f : FFlags) (t : Tally) :
    (x.arithCounts die super f t).chip.boot = x.chip.boot ∧ (x.arithCounts die super f t).chip.config = x.chip.config ∧
    (x.arithCounts die super f t).chip.serve = x.chip.serve ∧ (x.arithCounts die super f t).chip.eng = x.chip.eng ∧
    (x.arithCounts die super f t).chip.mem = x.chip.mem ∧ (x.arithCounts die super f t).chip.fab = x.chip.fab ∧
    (x.arithCounts die super f t).chip.power = x.chip.power ∧ (x.arithCounts die super f t).c = x.c ∧
    (x.arithCounts die super f t).now = x.now := by
  unfold Ctx.arithCounts; simp

@[simp] theorem Ctx.matrixEnd_keeps (x : Ctx) (k : Nat) (g : Group) :
    (x.matrixEnd k g).chip.config = x.chip.config ∧ (x.matrixEnd k g).chip.mem = x.chip.mem ∧
    (x.matrixEnd k g).chip.fab = x.chip.fab ∧ (x.matrixEnd k g).chip.power = x.chip.power ∧ (x.matrixEnd k g).c = x.c ∧
    (x.matrixEnd k g).now = x.now := by
  unfold Ctx.matrixEnd; simp

@[simp] theorem Ctx.groupDrain_keeps (x : Ctx) (k : Nat) :
    (x.groupDrain k).chip.config = x.chip.config ∧ (x.groupDrain k).chip.fab = x.chip.fab ∧
    (x.groupDrain k).chip.power = x.chip.power ∧ (x.groupDrain k).c = x.c ∧ (x.groupDrain k).now = x.now := by
  unfold Ctx.groupDrain; dsimp only; (repeat' split) <;> simp

end Sys2Proof.Machine
end

