-- ==== Sys2Proof/Laws/FrameRowOps.lean ====
section
/-! SUPPORT. What the operations of Machine/RowOps.lean leave unchanged of a chip. -/
namespace Sys2Proof.Machine

@[simp] theorem Ctx.rowGranted_keeps (x : Ctx) (k : Nat) (sfu : Bool) :
    (x.rowGranted k sfu).chip.boot = x.chip.boot ∧ (x.rowGranted k sfu).chip.bar = x.chip.bar ∧
    (x.rowGranted k sfu).chip.stew = x.chip.stew ∧ (x.rowGranted k sfu).chip.config = x.chip.config ∧
    (x.rowGranted k sfu).chip.serve = x.chip.serve ∧ (x.rowGranted k sfu).chip.mem = x.chip.mem ∧
    (x.rowGranted k sfu).chip.fab = x.chip.fab ∧ (x.rowGranted k sfu).chip.power = x.chip.power ∧
    (x.rowGranted k sfu).chip.obs = x.chip.obs ∧ (x.rowGranted k sfu).chip.ledger = x.chip.ledger ∧
    (x.rowGranted k sfu).c = x.c ∧ (x.rowGranted k sfu).now = x.now := by
  unfold Ctx.rowGranted; simp

@[simp] theorem Ctx.enqueueSfu_keeps (x : Ctx) (k : Nat) :
    (x.enqueueSfu k).chip.boot = x.chip.boot ∧ (x.enqueueSfu k).chip.bar = x.chip.bar ∧
    (x.enqueueSfu k).chip.stew = x.chip.stew ∧ (x.enqueueSfu k).chip.config = x.chip.config ∧
    (x.enqueueSfu k).chip.serve = x.chip.serve ∧ (x.enqueueSfu k).chip.mem = x.chip.mem ∧
    (x.enqueueSfu k).chip.fab = x.chip.fab ∧ (x.enqueueSfu k).chip.power = x.chip.power ∧
    (x.enqueueSfu k).chip.obs = x.chip.obs ∧ (x.enqueueSfu k).chip.ledger = x.chip.ledger ∧ (x.enqueueSfu k).c = x.c ∧
    (x.enqueueSfu k).now = x.now := by
  unfold Ctx.enqueueSfu; simp

@[simp] theorem Ctx.enqueueSel_keeps (x : Ctx) (k : Nat) :
    (x.enqueueSel k).chip.boot = x.chip.boot ∧ (x.enqueueSel k).chip.bar = x.chip.bar ∧
    (x.enqueueSel k).chip.stew = x.chip.stew ∧ (x.enqueueSel k).chip.config = x.chip.config ∧
    (x.enqueueSel k).chip.serve = x.chip.serve ∧ (x.enqueueSel k).chip.mem = x.chip.mem ∧
    (x.enqueueSel k).chip.fab = x.chip.fab ∧ (x.enqueueSel k).chip.power = x.chip.power ∧
    (x.enqueueSel k).chip.obs = x.chip.obs ∧ (x.enqueueSel k).chip.ledger = x.chip.ledger ∧ (x.enqueueSel k).c = x.c ∧
    (x.enqueueSel k).now = x.now := by
  unfold Ctx.enqueueSel; simp

@[simp] theorem Ctx.placeRow_keeps (x : Ctx) (k : Nat) (q : QDesc) :
    (x.placeRow k q).chip.bar = x.chip.bar ∧ (x.placeRow k q).chip.stew = x.chip.stew ∧
    (x.placeRow k q).chip.config = x.chip.config ∧ (x.placeRow k q).chip.serve = x.chip.serve ∧
    (x.placeRow k q).chip.mem = x.chip.mem ∧ (x.placeRow k q).chip.fab = x.chip.fab ∧
    (x.placeRow k q).chip.power = x.chip.power ∧ (x.placeRow k q).chip.ledger = x.chip.ledger ∧ (x.placeRow k q).c = x.c ∧
    (x.placeRow k q).now = x.now := by
  unfold Ctx.placeRow; simp

@[simp] theorem Ctx.rowIssue_keeps (x : Ctx) (k : Nat) (p : Bytes → Bool) :
    (x.rowIssue k p).chip.bar = x.chip.bar ∧ (x.rowIssue k p).chip.stew = x.chip.stew ∧
    (x.rowIssue k p).chip.config = x.chip.config ∧ (x.rowIssue k p).chip.serve = x.chip.serve ∧
    (x.rowIssue k p).chip.mem = x.chip.mem ∧ (x.rowIssue k p).chip.fab = x.chip.fab ∧
    (x.rowIssue k p).chip.power = x.chip.power ∧ (x.rowIssue k p).chip.ledger = x.chip.ledger ∧ (x.rowIssue k p).c = x.c ∧
    (x.rowIssue k p).now = x.now := by
  unfold Ctx.rowIssue; dsimp only; (repeat' split) <;> simp

@[simp] theorem Ctx.holdRelease_keeps (x : Ctx) (k : Nat) (held : Nat) :
    (x.holdRelease k held).chip.config = x.chip.config ∧ (x.holdRelease k held).chip.serve = x.chip.serve ∧
    (x.holdRelease k held).chip.mem = x.chip.mem ∧ (x.holdRelease k held).chip.fab = x.chip.fab ∧
    (x.holdRelease k held).chip.power = x.chip.power ∧ (x.holdRelease k held).c = x.c ∧ (x.holdRelease k held).now = x.now := by
  unfold Ctx.holdRelease; dsimp only; (repeat' split) <;> simp

@[simp] theorem Ctx.readElems_keeps (x : Ctx) (q : QDesc) (die : Nat) (fmt : Nat) (a : Nat) (n : Nat) :
    (x.readElems q die fmt a n).1.chip.boot = x.chip.boot ∧ (x.readElems q die fmt a n).1.chip.config = x.chip.config ∧
    (x.readElems q die fmt a n).1.chip.eng = x.chip.eng ∧ (x.readElems q die fmt a n).1.chip.fab = x.chip.fab ∧
    (x.readElems q die fmt a n).1.chip.power = x.chip.power ∧ (x.readElems q die fmt a n).1.c = x.c ∧
    (x.readElems q die fmt a n).1.now = x.now := by
  unfold Ctx.readElems; simp

@[simp] theorem Ctx.writeElems_keeps (x : Ctx) (q : QDesc) (die : Nat) (w : Nat) (a : Nat) (vs : List Nat) (bad : List Nat) :
    (x.writeElems q die w a vs bad).chip.boot = x.chip.boot ∧ (x.writeElems q die w a vs bad).chip.config = x.chip.config ∧
    (x.writeElems q die w a vs bad).chip.serve = x.chip.serve ∧ (x.writeElems q die w a vs bad).chip.fab = x.chip.fab ∧
    (x.writeElems q die w a vs bad).chip.power = x.chip.power ∧ (x.writeElems q die w a vs bad).c = x.c ∧
    (x.writeElems q die w a vs bad).now = x.now := by
  unfold Ctx.writeElems; simp

@[simp] theorem Ctx.tileIn_keeps (x : Ctx) (s : SfuCtx) (die : Nat) :
    (x.tileIn s die).1.chip.boot = x.chip.boot ∧ (x.tileIn s die).1.chip.config = x.chip.config ∧
    (x.tileIn s die).1.chip.eng = x.chip.eng ∧ (x.tileIn s die).1.chip.fab = x.chip.fab ∧
    (x.tileIn s die).1.chip.power = x.chip.power ∧ (x.tileIn s die).1.c = x.c ∧ (x.tileIn s die).1.now = x.now := by
  unfold Ctx.tileIn; simp

@[simp] theorem Ctx.tileOut_keeps (x : Ctx) (s : SfuCtx) (die : Nat) (ys : List FR) (bad : List Nat) :
    (x.tileOut s die ys bad).1.chip.boot = x.chip.boot ∧ (x.tileOut s die ys bad).1.chip.config = x.chip.config ∧
    (x.tileOut s die ys bad).1.chip.serve = x.chip.serve ∧ (x.tileOut s die ys bad).1.chip.fab = x.chip.fab ∧
    (x.tileOut s die ys bad).1.chip.power = x.chip.power ∧ (x.tileOut s die ys bad).1.c = x.c ∧
    (x.tileOut s die ys bad).1.now = x.now := by
  unfold Ctx.tileOut; simp

@[simp] theorem Ctx.mapTile_keeps (x : Ctx) (s : SfuCtx) (die : Nat) :
    (x.mapTile s die).1.chip.boot = x.chip.boot ∧ (x.mapTile s die).1.chip.config = x.chip.config ∧
    (x.mapTile s die).1.chip.fab = x.chip.fab ∧ (x.mapTile s die).1.chip.power = x.chip.power ∧ (x.mapTile s die).1.c = x.c ∧
    (x.mapTile s die).1.now = x.now := by
  unfold Ctx.mapTile; simp

@[simp] theorem Ctx.softmaxFirst_keeps (x : Ctx) (s : SfuCtx) (die : Nat) :
    (x.softmaxFirst s die).1.chip.boot = x.chip.boot ∧ (x.softmaxFirst s die).1.chip.config = x.chip.config ∧
    (x.softmaxFirst s die).1.chip.fab = x.chip.fab ∧ (x.softmaxFirst s die).1.chip.power = x.chip.power ∧
    (x.softmaxFirst s die).1.c = x.c ∧ (x.softmaxFirst s die).1.now = x.now := by
  unfold Ctx.softmaxFirst; simp

@[simp] theorem Ctx.softmaxSecond_keeps (x : Ctx) (s : SfuCtx) (die : Nat) :
    (x.softmaxSecond s die).1.chip.boot = x.chip.boot ∧ (x.softmaxSecond s die).1.chip.config = x.chip.config ∧
    (x.softmaxSecond s die).1.chip.fab = x.chip.fab ∧ (x.softmaxSecond s die).1.chip.power = x.chip.power ∧
    (x.softmaxSecond s die).1.c = x.c ∧ (x.softmaxSecond s die).1.now = x.now := by
  unfold Ctx.softmaxSecond; simp

@[simp] theorem Ctx.normSum_keeps (x : Ctx) (s : SfuCtx) (die : Nat) :
    (x.normSum s die).1.chip.boot = x.chip.boot ∧ (x.normSum s die).1.chip.config = x.chip.config ∧
    (x.normSum s die).1.chip.eng = x.chip.eng ∧ (x.normSum s die).1.chip.fab = x.chip.fab ∧
    (x.normSum s die).1.chip.power = x.chip.power ∧ (x.normSum s die).1.c = x.c ∧ (x.normSum s die).1.now = x.now := by
  unfold Ctx.normSum; dsimp only; (repeat' split) <;> simp

@[simp] theorem Ctx.auxIn_keeps (x : Ctx) (s : SfuCtx) (die : Nat) (off : Nat) (d : Word32) :
    (x.auxIn s die off d).1.chip.boot = x.chip.boot ∧ (x.auxIn s die off d).1.chip.config = x.chip.config ∧
    (x.auxIn s die off d).1.chip.eng = x.chip.eng ∧ (x.auxIn s die off d).1.chip.fab = x.chip.fab ∧
    (x.auxIn s die off d).1.chip.power = x.chip.power ∧ (x.auxIn s die off d).1.c = x.c ∧ (x.auxIn s die off d).1.now = x.now := by
  unfold Ctx.auxIn; dsimp only; (repeat' split) <;> simp

@[simp] theorem Ctx.normLast_keeps (x : Ctx) (s : SfuCtx) (die : Nat) :
    (x.normLast s die).1.chip.boot = x.chip.boot ∧ (x.normLast s die).1.chip.config = x.chip.config ∧
    (x.normLast s die).1.chip.fab = x.chip.fab ∧ (x.normLast s die).1.chip.power = x.chip.power ∧
    (x.normLast s die).1.c = x.c ∧ (x.normLast s die).1.now = x.now := by
  unfold Ctx.normLast; dsimp only; (repeat' split) <;> simp

@[simp] theorem Ctx.serveTile_keeps (x : Ctx) (s : SfuCtx) (die : Nat) :
    (x.serveTile s die).1.chip.boot = x.chip.boot ∧ (x.serveTile s die).1.chip.config = x.chip.config ∧
    (x.serveTile s die).1.chip.fab = x.chip.fab ∧ (x.serveTile s die).1.chip.power = x.chip.power ∧
    (x.serveTile s die).1.c = x.c ∧ (x.serveTile s die).1.now = x.now := by
  unfold Ctx.serveTile; (repeat' split) <;> simp_all

@[simp] theorem Ctx.rowEnd_keeps (x : Ctx) (s : SfuCtx) (die : Nat) :
    (x.rowEnd s die).1.chip.boot = x.chip.boot ∧ (x.rowEnd s die).1.chip.config = x.chip.config ∧
    (x.rowEnd s die).1.chip.serve = x.chip.serve ∧ (x.rowEnd s die).1.chip.fab = x.chip.fab ∧
    (x.rowEnd s die).1.chip.power = x.chip.power ∧ (x.rowEnd s die).1.c = x.c ∧ (x.rowEnd s die).1.now = x.now := by
  unfold Ctx.rowEnd; simp

@[simp] theorem Ctx.afterTile_keeps (x : Ctx) (s : SfuCtx) (die : Nat) :
    (x.afterTile s die).1.chip.boot = x.chip.boot ∧ (x.afterTile s die).1.chip.config = x.chip.config ∧
    (x.afterTile s die).1.chip.serve = x.chip.serve ∧ (x.afterTile s die).1.chip.fab = x.chip.fab ∧
    (x.afterTile s die).1.chip.power = x.chip.power ∧ (x.afterTile s die).1.c = x.c ∧ (x.afterTile s die).1.now = x.now := by
  unfold Ctx.afterTile; dsimp only; (repeat' split) <;> simp

@[simp] theorem Ctx.rowOpEnd_keeps (x : Ctx) (k : Nat) (s : SfuCtx) :
    (x.rowOpEnd k s).chip.config = x.chip.config ∧ (x.rowOpEnd k s).chip.mem = x.chip.mem ∧
    (x.rowOpEnd k s).chip.fab = x.chip.fab ∧ (x.rowOpEnd k s).chip.power = x.chip.power ∧ (x.rowOpEnd k s).c = x.c ∧
    (x.rowOpEnd k s).now = x.now := by
  unfold Ctx.rowOpEnd; simp

@[simp] theorem Ctx.requeueSfu_keeps (x : Ctx) (k : Nat) :
    (x.requeueSfu k).chip.boot = x.chip.boot ∧ (x.requeueSfu k).chip.bar = x.chip.bar ∧
    (x.requeueSfu k).chip.stew = x.chip.stew ∧ (x.requeueSfu k).chip.config = x.chip.config ∧
    (x.requeueSfu k).chip.serve = x.chip.serve ∧ (x.requeueSfu k).chip.mem = x.chip.mem ∧
    (x.requeueSfu k).chip.fab = x.chip.fab ∧ (x.requeueSfu k).chip.power = x.chip.power ∧
    (x.requeueSfu k).chip.obs = x.chip.obs ∧ (x.requeueSfu k).chip.ledger = x.chip.ledger ∧ (x.requeueSfu k).c = x.c ∧
    (x.requeueSfu k).now = x.now := by
  unfold Ctx.requeueSfu; simp

@[simp] theorem Ctx.requeueSel_keeps (x : Ctx) (k : Nat) :
    (x.requeueSel k).chip.boot = x.chip.boot ∧ (x.requeueSel k).chip.bar = x.chip.bar ∧
    (x.requeueSel k).chip.stew = x.chip.stew ∧ (x.requeueSel k).chip.config = x.chip.config ∧
    (x.requeueSel k).chip.serve = x.chip.serve ∧ (x.requeueSel k).chip.mem = x.chip.mem ∧
    (x.requeueSel k).chip.fab = x.chip.fab ∧ (x.requeueSel k).chip.power = x.chip.power ∧
    (x.requeueSel k).chip.obs = x.chip.obs ∧ (x.requeueSel k).chip.ledger = x.chip.ledger ∧ (x.requeueSel k).c = x.c ∧
    (x.requeueSel k).now = x.now := by
  unfold Ctx.requeueSel; simp

@[simp] theorem Ctx.tileGrant_keeps (x : Ctx) (d : Nat) :
    (x.tileGrant d).chip.boot = x.chip.boot ∧ (x.tileGrant d).chip.bar = x.chip.bar ∧ (x.tileGrant d).chip.stew = x.chip.stew ∧
    (x.tileGrant d).chip.config = x.chip.config ∧ (x.tileGrant d).chip.serve = x.chip.serve ∧
    (x.tileGrant d).chip.mem = x.chip.mem ∧ (x.tileGrant d).chip.fab = x.chip.fab ∧ (x.tileGrant d).chip.power = x.chip.power ∧
    (x.tileGrant d).chip.obs = x.chip.obs ∧ (x.tileGrant d).chip.ledger = x.chip.ledger ∧ (x.tileGrant d).c = x.c ∧
    (x.tileGrant d).now = x.now := by
  unfold Ctx.tileGrant; dsimp only; (repeat' split) <;> simp

@[simp] theorem Ctx.tileEnd_keeps (x : Ctx) (d : Nat) (waited : List Nat) :
    (x.tileEnd d waited).chip.config = x.chip.config ∧ (x.tileEnd d waited).chip.fab = x.chip.fab ∧
    (x.tileEnd d waited).chip.power = x.chip.power ∧ (x.tileEnd d waited).c = x.c ∧ (x.tileEnd d waited).now = x.now := by
  unfold Ctx.tileEnd; dsimp only; (repeat' split) <;> simp

@[simp] theorem Ctx.selectionRow_keeps (x : Ctx) (d : Nat) :
    (x.selectionRow d).chip.config = x.chip.config ∧ (x.selectionRow d).chip.fab = x.chip.fab ∧
    (x.selectionRow d).chip.power = x.chip.power ∧ (x.selectionRow d).c = x.c ∧ (x.selectionRow d).now = x.now := by
  unfold Ctx.selectionRow; dsimp only; (repeat' split) <;> simp

end Sys2Proof.Machine
end

