-- ==== Sys2Proof/Laws/FrameCopies.lean ====
section
/-! SUPPORT. What the operations of Machine/Copies.lean leave unchanged of a chip. -/
namespace Sys2Proof.Machine

@[simp] theorem Ctx.foragerCopy_keeps (x : Ctx) (k : Cmd) (data : Bytes) :
    (x.foragerCopy k data).chip.config = x.chip.config ∧ (x.foragerCopy k data).chip.serve = x.chip.serve ∧
    (x.foragerCopy k data).chip.mem = x.chip.mem ∧ (x.foragerCopy k data).chip.fab = x.chip.fab ∧
    (x.foragerCopy k data).chip.power = x.chip.power ∧ (x.foragerCopy k data).c = x.c ∧ (x.foragerCopy k data).now = x.now := by
  unfold Ctx.foragerCopy; dsimp only; (repeat' split) <;> simp

@[simp] theorem Ctx.readRun_keeps (x : Ctx) (j : CopyJob) (p : Spc) (a : Nat) (n : Nat) (index : Nat) :
    (x.readRun j p a n index).1.chip.boot = x.chip.boot ∧ (x.readRun j p a n index).1.chip.config = x.chip.config ∧
    (x.readRun j p a n index).1.chip.serve = x.chip.serve ∧ (x.readRun j p a n index).1.chip.eng = x.chip.eng ∧
    (x.readRun j p a n index).1.chip.fab = x.chip.fab ∧ (x.readRun j p a n index).1.chip.power = x.chip.power ∧
    (x.readRun j p a n index).1.c = x.c ∧ (x.readRun j p a n index).1.now = x.now := by
  unfold Ctx.readRun; simp

@[simp] theorem Ctx.frameGranule_keeps (x : Ctx) (j : CopyJob) (t : Stream) (layer : Nat) (off : Nat) :
    (x.frameGranule j t layer off).1.chip.boot = x.chip.boot ∧ (x.frameGranule j t layer off).1.chip.config = x.chip.config ∧
    (x.frameGranule j t layer off).1.chip.serve = x.chip.serve ∧ (x.frameGranule j t layer off).1.chip.eng = x.chip.eng ∧
    (x.frameGranule j t layer off).1.chip.fab = x.chip.fab ∧ (x.frameGranule j t layer off).1.chip.power = x.chip.power ∧
    (x.frameGranule j t layer off).1.c = x.c ∧ (x.frameGranule j t layer off).1.now = x.now := by
  unfold Ctx.frameGranule; dsimp only; (repeat' split) <;> simp

@[simp] theorem Ctx.frameRun_keeps (x : Ctx) (j : CopyJob) (t : Stream) (layer : Nat) (z3 : Nat) (z4 : Nat) :
    (x.frameRun j t layer z3 z4).1.chip.boot = x.chip.boot ∧ (x.frameRun j t layer z3 z4).1.chip.config = x.chip.config ∧
    (x.frameRun j t layer z3 z4).1.chip.serve = x.chip.serve ∧ (x.frameRun j t layer z3 z4).1.chip.eng = x.chip.eng ∧
    (x.frameRun j t layer z3 z4).1.chip.fab = x.chip.fab ∧ (x.frameRun j t layer z3 z4).1.chip.power = x.chip.power ∧
    (x.frameRun j t layer z3 z4).1.c = x.c ∧ (x.frameRun j t layer z3 z4).1.now = x.now := by
  induction z4 generalizing x j t layer z3 <;> simp_all [Ctx.frameRun]

@[simp] theorem Ctx.sourceRow_keeps (x : Ctx) (j : CopyJob) (t : Stream) (host : Bytes) (bad : List (Nat × SrcErr)) (i : Nat) :
    (x.sourceRow j t host bad i).1.chip.boot = x.chip.boot ∧ (x.sourceRow j t host bad i).1.chip.config = x.chip.config ∧
    (x.sourceRow j t host bad i).1.chip.serve = x.chip.serve ∧ (x.sourceRow j t host bad i).1.chip.eng = x.chip.eng ∧
    (x.sourceRow j t host bad i).1.chip.fab = x.chip.fab ∧ (x.sourceRow j t host bad i).1.chip.power = x.chip.power ∧
    (x.sourceRow j t host bad i).1.c = x.c ∧ (x.sourceRow j t host bad i).1.now = x.now := by
  unfold Ctx.sourceRow; dsimp only; (repeat' split) <;> simp

@[simp] theorem Ctx.writeRun_keeps (x : Ctx) (j : CopyJob) (p : Spc) (a : Nat) (r : Run) :
    (x.writeRun j p a r).chip.boot = x.chip.boot ∧ (x.writeRun j p a r).chip.config = x.chip.config ∧
    (x.writeRun j p a r).chip.serve = x.chip.serve ∧ (x.writeRun j p a r).chip.fab = x.chip.fab ∧
    (x.writeRun j p a r).chip.power = x.chip.power ∧ (x.writeRun j p a r).c = x.c ∧ (x.writeRun j p a r).now = x.now := by
  unfold Ctx.writeRun; simp

@[simp] theorem Ctx.writeHost_keeps (x : Ctx) (a : Nat) (r : Run) :
    (x.writeHost a r).chip.boot = x.chip.boot ∧ (x.writeHost a r).chip.bar = x.chip.bar ∧
    (x.writeHost a r).chip.stew = x.chip.stew ∧ (x.writeHost a r).chip.config = x.chip.config ∧
    (x.writeHost a r).chip.serve = x.chip.serve ∧ (x.writeHost a r).chip.eng = x.chip.eng ∧
    (x.writeHost a r).chip.mem = x.chip.mem ∧ (x.writeHost a r).chip.fab = x.chip.fab ∧
    (x.writeHost a r).chip.power = x.chip.power ∧ (x.writeHost a r).chip.obs = x.chip.obs ∧ (x.writeHost a r).c = x.c ∧
    (x.writeHost a r).now = x.now := by
  unfold Ctx.writeHost; simp

@[simp] theorem Ctx.sendWrite_keeps (x : Ctx) (f : Nat) (j : CopyJob) (chip : Nat) (addr : Nat) (off : Nat) (bs : Bytes) (bad : List Nat) :
    (x.sendWrite f j chip addr off bs bad).chip.boot = x.chip.boot ∧
    (x.sendWrite f j chip addr off bs bad).chip.bar = x.chip.bar ∧
    (x.sendWrite f j chip addr off bs bad).chip.stew = x.chip.stew ∧
    (x.sendWrite f j chip addr off bs bad).chip.config = x.chip.config ∧
    (x.sendWrite f j chip addr off bs bad).chip.serve = x.chip.serve ∧
    (x.sendWrite f j chip addr off bs bad).chip.mem = x.chip.mem ∧
    (x.sendWrite f j chip addr off bs bad).chip.power = x.chip.power ∧
    (x.sendWrite f j chip addr off bs bad).chip.ledger = x.chip.ledger ∧ (x.sendWrite f j chip addr off bs bad).c = x.c ∧
    (x.sendWrite f j chip addr off bs bad).now = x.now := by
  unfold Ctx.sendWrite; simp

@[simp] theorem Ctx.sendColl_keeps (x : Ctx) (f : Nat) (j : CopyJob) (e : Nat × Nat) (addr : Nat) (off : Nat) (bs : Bytes) (bad : List Nat) :
    (x.sendColl f j e addr off bs bad).chip.boot = x.chip.boot ∧ (x.sendColl f j e addr off bs bad).chip.bar = x.chip.bar ∧
    (x.sendColl f j e addr off bs bad).chip.stew = x.chip.stew ∧
    (x.sendColl f j e addr off bs bad).chip.config = x.chip.config ∧
    (x.sendColl f j e addr off bs bad).chip.serve = x.chip.serve ∧ (x.sendColl f j e addr off bs bad).chip.mem = x.chip.mem ∧
    (x.sendColl f j e addr off bs bad).chip.power = x.chip.power ∧
    (x.sendColl f j e addr off bs bad).chip.ledger = x.chip.ledger ∧ (x.sendColl f j e addr off bs bad).c = x.c ∧
    (x.sendColl f j e addr off bs bad).now = x.now := by
  unfold Ctx.sendColl; simp

@[simp] theorem Ctx.writeRemote_keeps (x : Ctx) (f : Nat) (j : CopyJob) (chip : Nat) (addr : Nat) (off : Nat) (r : Run) :
    (x.writeRemote f j chip addr off r).chip.boot = x.chip.boot ∧ (x.writeRemote f j chip addr off r).chip.bar = x.chip.bar ∧
    (x.writeRemote f j chip addr off r).chip.stew = x.chip.stew ∧
    (x.writeRemote f j chip addr off r).chip.config = x.chip.config ∧
    (x.writeRemote f j chip addr off r).chip.serve = x.chip.serve ∧ (x.writeRemote f j chip addr off r).chip.mem = x.chip.mem ∧
    (x.writeRemote f j chip addr off r).chip.power = x.chip.power ∧
    (x.writeRemote f j chip addr off r).chip.ledger = x.chip.ledger ∧ (x.writeRemote f j chip addr off r).c = x.c ∧
    (x.writeRemote f j chip addr off r).now = x.now := by
  unfold Ctx.writeRemote; dsimp only; (repeat' split) <;> simp

@[simp] theorem Ctx.crossRow_keeps (x : Ctx) (f : Nat) (b : Bytes) :
    (x.crossRow f b).chip.boot = x.chip.boot ∧ (x.crossRow f b).chip.bar = x.chip.bar ∧
    (x.crossRow f b).chip.stew = x.chip.stew ∧ (x.crossRow f b).chip.config = x.chip.config ∧
    (x.crossRow f b).chip.serve = x.chip.serve ∧ (x.crossRow f b).chip.eng = x.chip.eng ∧
    (x.crossRow f b).chip.mem = x.chip.mem ∧ (x.crossRow f b).chip.fab = x.chip.fab ∧
    (x.crossRow f b).chip.power = x.chip.power ∧ (x.crossRow f b).chip.ledger = x.chip.ledger ∧ (x.crossRow f b).c = x.c ∧
    (x.crossRow f b).now = x.now := by
  unfold Ctx.crossRow; simp

@[simp] theorem Ctx.destRow_keeps (x : Ctx) (f : Nat) (j : CopyJob) (i : Nat) (r : Run) :
    (x.destRow f j i r).chip.boot = x.chip.boot ∧ (x.destRow f j i r).chip.config = x.chip.config ∧
    (x.destRow f j i r).chip.serve = x.chip.serve ∧ (x.destRow f j i r).chip.power = x.chip.power ∧
    (x.destRow f j i r).c = x.c ∧ (x.destRow f j i r).now = x.now := by
  unfold Ctx.destRow; dsimp only; (repeat' split) <;> simp

@[simp] theorem Ctx.copyBad_keeps (x : Ctx) (f : Nat) (j : CopyJob) (i : Nat) (bad : List (Nat × SrcErr × Nat × Nat)) :
    (x.copyBad f j i bad).chip.boot = x.chip.boot ∧ (x.copyBad f j i bad).chip.bar = x.chip.bar ∧
    (x.copyBad f j i bad).chip.stew = x.chip.stew ∧ (x.copyBad f j i bad).chip.config = x.chip.config ∧
    (x.copyBad f j i bad).chip.mem = x.chip.mem ∧ (x.copyBad f j i bad).chip.fab = x.chip.fab ∧
    (x.copyBad f j i bad).chip.power = x.chip.power ∧ (x.copyBad f j i bad).chip.ledger = x.chip.ledger ∧
    (x.copyBad f j i bad).c = x.c ∧ (x.copyBad f j i bad).now = x.now := by
  unfold Ctx.copyBad; dsimp only; (repeat' split) <;> simp

@[simp] theorem Ctx.moveEnergy_keeps (x : Ctx) (b : Bytes) :
    (x.moveEnergy b).chip.boot = x.chip.boot ∧ (x.moveEnergy b).chip.bar = x.chip.bar ∧
    (x.moveEnergy b).chip.stew = x.chip.stew ∧ (x.moveEnergy b).chip.config = x.chip.config ∧
    (x.moveEnergy b).chip.serve = x.chip.serve ∧ (x.moveEnergy b).chip.eng = x.chip.eng ∧
    (x.moveEnergy b).chip.mem = x.chip.mem ∧ (x.moveEnergy b).chip.fab = x.chip.fab ∧
    (x.moveEnergy b).chip.power = x.chip.power ∧ (x.moveEnergy b).chip.obs = x.chip.obs ∧ (x.moveEnergy b).c = x.c ∧
    (x.moveEnergy b).now = x.now := by
  unfold Ctx.moveEnergy; simp

@[simp] theorem Ctx.copyRows_keeps (x : Ctx) (f : Nat) (j : CopyJob) (t : Stream) (host : Bytes) (bad : List (Nat × SrcErr)) (z5 : Nat) (z6 : Nat) :
    (x.copyRows f j t host bad z5 z6).chip.boot = x.chip.boot ∧ (x.copyRows f j t host bad z5 z6).chip.config = x.chip.config ∧
    (x.copyRows f j t host bad z5 z6).chip.power = x.chip.power ∧ (x.copyRows f j t host bad z5 z6).c = x.c ∧
    (x.copyRows f j t host bad z5 z6).now = x.now := by
  induction z6 generalizing x f j t host bad z5 <;> simp_all [Ctx.copyRows]

@[simp] theorem Ctx.copyStart_keeps (x : Ctx) (f : Nat) (host : Bytes) (bad : List (Nat × SrcErr)) :
    (x.copyStart f host bad).chip.config = x.chip.config ∧ (x.copyStart f host bad).chip.power = x.chip.power ∧
    (x.copyStart f host bad).c = x.c ∧ (x.copyStart f host bad).now = x.now := by
  unfold Ctx.copyStart; dsimp only; (repeat' split) <;> simp

@[simp] theorem Ctx.copyCmdPart_keeps (x : Ctx) (id : Nat) (index : Nat) (failed : Option (Nat × Nat)) (bad : Nat) :
    (x.copyCmdPart id index failed bad).chip.boot = x.chip.boot ∧
    (x.copyCmdPart id index failed bad).chip.config = x.chip.config ∧
    (x.copyCmdPart id index failed bad).chip.serve = x.chip.serve ∧ (x.copyCmdPart id index failed bad).chip.mem = x.chip.mem ∧
    (x.copyCmdPart id index failed bad).chip.fab = x.chip.fab ∧ (x.copyCmdPart id index failed bad).chip.power = x.chip.power ∧
    (x.copyCmdPart id index failed bad).c = x.c ∧ (x.copyCmdPart id index failed bad).now = x.now := by
  unfold Ctx.copyCmdPart; dsimp only; (repeat' split) <;> simp

@[simp] theorem Ctx.copyEnd_keeps (x : Ctx) (f : Nat) :
    (x.copyEnd f).chip.config = x.chip.config ∧ (x.copyEnd f).chip.mem = x.chip.mem ∧ (x.copyEnd f).chip.fab = x.chip.fab ∧
    (x.copyEnd f).chip.power = x.chip.power ∧ (x.copyEnd f).c = x.c ∧ (x.copyEnd f).now = x.now := by
  unfold Ctx.copyEnd; dsimp only; (repeat' split) <;> simp

@[simp] theorem Ctx.copyTimeout_keeps (x : Ctx) (f : Nat) (off : Nat) :
    (x.copyTimeout f off).chip.boot = x.chip.boot ∧ (x.copyTimeout f off).chip.config = x.chip.config ∧
    (x.copyTimeout f off).chip.power = x.chip.power ∧ (x.copyTimeout f off).c = x.c ∧ (x.copyTimeout f off).now = x.now := by
  unfold Ctx.copyTimeout; dsimp only; (repeat' split) <;> simp

@[simp] theorem Ctx.tokensTimeout_keeps (x : Ctx) (id : Nat) (entry : Nat) :
    (x.tokensTimeout id entry).chip.boot = x.chip.boot ∧ (x.tokensTimeout id entry).chip.config = x.chip.config ∧
    (x.tokensTimeout id entry).chip.eng = x.chip.eng ∧ (x.tokensTimeout id entry).chip.mem = x.chip.mem ∧
    (x.tokensTimeout id entry).chip.fab = x.chip.fab ∧ (x.tokensTimeout id entry).chip.power = x.chip.power ∧
    (x.tokensTimeout id entry).c = x.c ∧ (x.tokensTimeout id entry).now = x.now := by
  unfold Ctx.tokensTimeout; (repeat' split) <;> simp_all

@[simp] theorem Ctx.sourceTimeout_keeps (x : Ctx) (id : Nat) (seg : Nat) (off : Nat) :
    (x.sourceTimeout id seg off).chip.boot = x.chip.boot ∧ (x.sourceTimeout id seg off).chip.config = x.chip.config ∧
    (x.sourceTimeout id seg off).chip.fab = x.chip.fab ∧ (x.sourceTimeout id seg off).chip.power = x.chip.power ∧
    (x.sourceTimeout id seg off).c = x.c ∧ (x.sourceTimeout id seg off).now = x.now := by
  unfold Ctx.sourceTimeout; (repeat' split) <;> simp_all

@[simp] theorem Ctx.hostTimeout_keeps (x : Ctx) (r : HostRead) :
    (x.hostTimeout r).chip.config = x.chip.config ∧ (x.hostTimeout r).chip.power = x.chip.power ∧ (x.hostTimeout r).c = x.c ∧
    (x.hostTimeout r).now = x.now := by
  unfold Ctx.hostTimeout; dsimp only; (repeat' split) <;> simp

end Sys2Proof.Machine
end

