-- ==== Sys2Proof/Laws/FramePowerCtl.lean ====
section
/-! SUPPORT. What the operations of Machine/PowerCtl.lean leave unchanged of a chip. -/
namespace Sys2Proof.Machine

@[simp] theorem Ctx.setMhz_keeps (x : Ctx) (d : Nat) (f : Nat) :
    (x.setMhz d f).chip.boot = x.chip.boot ∧ (x.setMhz d f).chip.bar = x.chip.bar ∧ (x.setMhz d f).chip.stew = x.chip.stew ∧
    (x.setMhz d f).chip.config = x.chip.config ∧ (x.setMhz d f).chip.serve = x.chip.serve ∧
    (x.setMhz d f).chip.mem = x.chip.mem ∧ (x.setMhz d f).chip.fab = x.chip.fab ∧ (x.setMhz d f).chip.power = x.chip.power ∧
    (x.setMhz d f).chip.obs = x.chip.obs ∧ (x.setMhz d f).chip.ledger = x.chip.ledger ∧ (x.setMhz d f).c = x.c ∧
    (x.setMhz d f).now = x.now := by
  unfold Ctx.setMhz; simp

@[simp] theorem Ctx.setAll_keeps (x : Ctx) (f : Nat) :
    (x.setAll f).chip.boot = x.chip.boot ∧ (x.setAll f).chip.bar = x.chip.bar ∧ (x.setAll f).chip.stew = x.chip.stew ∧
    (x.setAll f).chip.config = x.chip.config ∧ (x.setAll f).chip.serve = x.chip.serve ∧ (x.setAll f).chip.mem = x.chip.mem ∧
    (x.setAll f).chip.fab = x.chip.fab ∧ (x.setAll f).chip.power = x.chip.power ∧ (x.setAll f).chip.obs = x.chip.obs ∧
    (x.setAll f).chip.ledger = x.chip.ledger ∧ (x.setAll f).c = x.c ∧ (x.setAll f).now = x.now := by
  unfold Ctx.setAll; simp

@[simp] theorem Ctx.reportBreak_keeps (x : Ctx) (f : Nat) :
    (x.reportBreak f).chip.boot = x.chip.boot ∧ (x.reportBreak f).chip.config = x.chip.config ∧
    (x.reportBreak f).chip.serve = x.chip.serve ∧ (x.reportBreak f).chip.eng = x.chip.eng ∧
    (x.reportBreak f).chip.mem = x.chip.mem ∧ (x.reportBreak f).chip.fab = x.chip.fab ∧
    (x.reportBreak f).chip.power = x.chip.power ∧ (x.reportBreak f).c = x.c ∧ (x.reportBreak f).now = x.now := by
  unfold Ctx.reportBreak; simp

@[simp] theorem Ctx.lockBreak_keeps (x : Ctx) :
    (x.lockBreak).chip.boot = x.chip.boot ∧ (x.lockBreak).chip.config = x.chip.config ∧
    (x.lockBreak).chip.serve = x.chip.serve ∧ (x.lockBreak).chip.mem = x.chip.mem ∧ (x.lockBreak).chip.fab = x.chip.fab ∧
    (x.lockBreak).c = x.c ∧ (x.lockBreak).now = x.now := by
  unfold Ctx.lockBreak; simp

@[simp] theorem Ctx.controlActs_keeps (x : Ctx) :
    (x.controlActs).chip.boot = x.chip.boot ∧ (x.controlActs).chip.bar = x.chip.bar ∧ (x.controlActs).chip.stew = x.chip.stew ∧
    (x.controlActs).chip.config = x.chip.config ∧ (x.controlActs).chip.serve = x.chip.serve ∧
    (x.controlActs).chip.eng = x.chip.eng ∧ (x.controlActs).chip.mem = x.chip.mem ∧ (x.controlActs).chip.fab = x.chip.fab ∧
    (x.controlActs).chip.obs = x.chip.obs ∧ (x.controlActs).chip.ledger = x.chip.ledger ∧ (x.controlActs).c = x.c ∧
    (x.controlActs).now = x.now := by
  unfold Ctx.controlActs; simp

@[simp] theorem Ctx.lowerDies_keeps (x : Ctx) (l : List Nat) (n : Nat) :
    (x.lowerDies l n).chip.boot = x.chip.boot ∧ (x.lowerDies l n).chip.config = x.chip.config ∧
    (x.lowerDies l n).chip.serve = x.chip.serve ∧ (x.lowerDies l n).chip.mem = x.chip.mem ∧
    (x.lowerDies l n).chip.fab = x.chip.fab ∧ (x.lowerDies l n).c = x.c ∧ (x.lowerDies l n).now = x.now := by
  unfold Ctx.lowerDies; simp

@[simp] theorem Ctx.takeSample_keeps (x : Ctx) (l : List Nat) :
    (x.takeSample l).chip.boot = x.chip.boot ∧ (x.takeSample l).chip.config = x.chip.config ∧
    (x.takeSample l).chip.serve = x.chip.serve ∧ (x.takeSample l).chip.eng = x.chip.eng ∧
    (x.takeSample l).chip.mem = x.chip.mem ∧ (x.takeSample l).chip.fab = x.chip.fab ∧ (x.takeSample l).c = x.c ∧
    (x.takeSample l).now = x.now := by
  unfold Ctx.takeSample; simp

@[simp] theorem Ctx.powerSample_keeps (x : Ctx) (m : Meters) :
    (x.powerSample m).chip.boot = x.chip.boot ∧ (x.powerSample m).chip.config = x.chip.config ∧
    (x.powerSample m).chip.serve = x.chip.serve ∧ (x.powerSample m).chip.eng = x.chip.eng ∧
    (x.powerSample m).chip.mem = x.chip.mem ∧ (x.powerSample m).chip.fab = x.chip.fab ∧ (x.powerSample m).c = x.c ∧
    (x.powerSample m).now = x.now := by
  unfold Ctx.powerSample; simp

@[simp] theorem Ctx.noteWaits_keeps (x : Ctx) :
    (x.noteWaits).chip.boot = x.chip.boot ∧ (x.noteWaits).chip.bar = x.chip.bar ∧ (x.noteWaits).chip.stew = x.chip.stew ∧
    (x.noteWaits).chip.config = x.chip.config ∧ (x.noteWaits).chip.serve = x.chip.serve ∧ (x.noteWaits).chip.eng = x.chip.eng ∧
    (x.noteWaits).chip.mem = x.chip.mem ∧ (x.noteWaits).chip.fab = x.chip.fab ∧ (x.noteWaits).chip.obs = x.chip.obs ∧
    (x.noteWaits).chip.ledger = x.chip.ledger ∧ (x.noteWaits).c = x.c ∧ (x.noteWaits).now = x.now := by
  unfold Ctx.noteWaits; simp

@[simp] theorem Ctx.openGust_keeps (x : Ctx) :
    (x.openGust).chip.bar = x.chip.bar ∧ (x.openGust).chip.stew = x.chip.stew ∧ (x.openGust).chip.config = x.chip.config ∧
    (x.openGust).chip.serve = x.chip.serve ∧ (x.openGust).chip.eng = x.chip.eng ∧ (x.openGust).chip.mem = x.chip.mem ∧
    (x.openGust).chip.ledger = x.chip.ledger ∧ (x.openGust).c = x.c ∧ (x.openGust).now = x.now := by
  unfold Ctx.openGust; simp

@[simp] theorem Ctx.stepDie_keeps (x : Ctx) (d : Nat) (f : Nat) :
    (x.stepDie d f).chip.boot = x.chip.boot ∧ (x.stepDie d f).chip.bar = x.chip.bar ∧ (x.stepDie d f).chip.stew = x.chip.stew ∧
    (x.stepDie d f).chip.config = x.chip.config ∧ (x.stepDie d f).chip.serve = x.chip.serve ∧
    (x.stepDie d f).chip.mem = x.chip.mem ∧ (x.stepDie d f).chip.fab = x.chip.fab ∧ (x.stepDie d f).chip.power = x.chip.power ∧
    (x.stepDie d f).chip.obs = x.chip.obs ∧ (x.stepDie d f).chip.ledger = x.chip.ledger ∧ (x.stepDie d f).c = x.c ∧
    (x.stepDie d f).now = x.now := by
  unfold Ctx.stepDie; simp

@[simp] theorem Ctx.limitDown_keeps (x : Ctx) (way : Rounding) :
    (x.limitDown way).chip.bar = x.chip.bar ∧ (x.limitDown way).chip.stew = x.chip.stew ∧ (x.limitDown way).chip.config = x.chip.config ∧
    (x.limitDown way).chip.serve = x.chip.serve ∧ (x.limitDown way).chip.mem = x.chip.mem ∧ (x.limitDown way).chip.ledger = x.chip.ledger ∧
    (x.limitDown way).c = x.c ∧ (x.limitDown way).now = x.now := by
  unfold Ctx.limitDown; dsimp only; (repeat' split) <;> simp

@[simp] theorem Ctx.limitUp_keeps (x : Ctx) (way : Rounding) :
    (x.limitUp way).chip.boot = x.chip.boot ∧ (x.limitUp way).chip.bar = x.chip.bar ∧ (x.limitUp way).chip.stew = x.chip.stew ∧
    (x.limitUp way).chip.config = x.chip.config ∧ (x.limitUp way).chip.serve = x.chip.serve ∧ (x.limitUp way).chip.mem = x.chip.mem ∧
    (x.limitUp way).chip.fab = x.chip.fab ∧ (x.limitUp way).chip.power = x.chip.power ∧ (x.limitUp way).chip.obs = x.chip.obs ∧
    (x.limitUp way).chip.ledger = x.chip.ledger ∧ (x.limitUp way).c = x.c ∧ (x.limitUp way).now = x.now := by
  unfold Ctx.limitUp; (repeat' split) <;> simp_all

@[simp] theorem Ctx.intoWindow_keeps (x : Ctx) :
    (x.intoWindow).chip.boot = x.chip.boot ∧ (x.intoWindow).chip.bar = x.chip.bar ∧ (x.intoWindow).chip.stew = x.chip.stew ∧
    (x.intoWindow).chip.config = x.chip.config ∧ (x.intoWindow).chip.serve = x.chip.serve ∧
    (x.intoWindow).chip.mem = x.chip.mem ∧ (x.intoWindow).chip.fab = x.chip.fab ∧ (x.intoWindow).chip.power = x.chip.power ∧
    (x.intoWindow).chip.obs = x.chip.obs ∧ (x.intoWindow).chip.ledger = x.chip.ledger ∧ (x.intoWindow).c = x.c ∧
    (x.intoWindow).now = x.now := by
  unfold Ctx.intoWindow; simp

@[simp] theorem Ctx.lockTick_keeps (x : Ctx) :
    (x.lockTick).chip.boot = x.chip.boot ∧ (x.lockTick).chip.config = x.chip.config ∧ (x.lockTick).chip.serve = x.chip.serve ∧
    (x.lockTick).chip.mem = x.chip.mem ∧ (x.lockTick).chip.fab = x.chip.fab ∧ (x.lockTick).c = x.c ∧ (x.lockTick).now = x.now := by
  unfold Ctx.lockTick; simp

@[simp] theorem Ctx.limiterStep_keeps (x : Ctx) (way : Rounding) :
    (x.limiterStep way).chip.config = x.chip.config ∧ (x.limiterStep way).chip.serve = x.chip.serve ∧
    (x.limiterStep way).chip.mem = x.chip.mem ∧ (x.limiterStep way).c = x.c ∧ (x.limiterStep way).now = x.now := by
  unfold Ctx.limiterStep; simp

@[simp] theorem Ctx.limiterTick_keeps (x : Ctx) (way : Rounding) :
    (x.limiterTick way).chip.config = x.chip.config ∧ (x.limiterTick way).chip.serve = x.chip.serve ∧
    (x.limiterTick way).chip.mem = x.chip.mem ∧ (x.limiterTick way).c = x.c ∧ (x.limiterTick way).now = x.now := by
  unfold Ctx.limiterTick; simp

@[simp] theorem Ctx.shareTick_keeps (x : Ctx) (way : Rounding) :
    (x.shareTick way).chip.boot = x.chip.boot ∧ (x.shareTick way).chip.bar = x.chip.bar ∧ (x.shareTick way).chip.stew = x.chip.stew ∧
    (x.shareTick way).chip.config = x.chip.config ∧ (x.shareTick way).chip.serve = x.chip.serve ∧ (x.shareTick way).chip.eng = x.chip.eng ∧
    (x.shareTick way).chip.mem = x.chip.mem ∧ (x.shareTick way).chip.fab = x.chip.fab ∧ (x.shareTick way).chip.obs = x.chip.obs ∧
    (x.shareTick way).chip.ledger = x.chip.ledger ∧ (x.shareTick way).c = x.c ∧ (x.shareTick way).now = x.now := by
  unfold Ctx.shareTick; simp

@[simp] theorem Ctx.droop_keeps (x : Ctx) (d : Nat) :
    (x.droop d).chip.boot = x.chip.boot ∧ (x.droop d).chip.config = x.chip.config ∧ (x.droop d).chip.serve = x.chip.serve ∧
    (x.droop d).chip.mem = x.chip.mem ∧ (x.droop d).chip.fab = x.chip.fab ∧ (x.droop d).c = x.c ∧ (x.droop d).now = x.now := by
  unfold Ctx.droop; simp

@[simp] theorem Ctx.stormEnd_keeps (x : Ctx) (d : Nat) :
    (x.stormEnd d).chip.boot = x.chip.boot ∧ (x.stormEnd d).chip.bar = x.chip.bar ∧ (x.stormEnd d).chip.stew = x.chip.stew ∧
    (x.stormEnd d).chip.config = x.chip.config ∧ (x.stormEnd d).chip.serve = x.chip.serve ∧
    (x.stormEnd d).chip.mem = x.chip.mem ∧ (x.stormEnd d).chip.fab = x.chip.fab ∧ (x.stormEnd d).chip.power = x.chip.power ∧
    (x.stormEnd d).chip.obs = x.chip.obs ∧ (x.stormEnd d).chip.ledger = x.chip.ledger ∧ (x.stormEnd d).c = x.c ∧
    (x.stormEnd d).now = x.now := by
  unfold Ctx.stormEnd; simp

@[simp] theorem Ctx.endCopy_keeps (x : Ctx) (status : Nat) (r0 : Nat) (id : Nat) :
    (x.endCopy status r0 id).chip.config = x.chip.config ∧ (x.endCopy status r0 id).chip.serve = x.chip.serve ∧
    (x.endCopy status r0 id).chip.mem = x.chip.mem ∧ (x.endCopy status r0 id).chip.power = x.chip.power ∧
    (x.endCopy status r0 id).c = x.c ∧ (x.endCopy status r0 id).now = x.now := by
  unfold Ctx.endCopy; dsimp only; (repeat' split) <;> simp

@[simp] theorem Ctx.endStepWith_keeps (x : Ctx) (t : StepRec) (status : Nat) :
    (x.endStepWith t status).chip.config = x.chip.config ∧ (x.endStepWith t status).chip.fab = x.chip.fab ∧
    (x.endStepWith t status).chip.power = x.chip.power ∧ (x.endStepWith t status).c = x.c ∧ (x.endStepWith t status).now = x.now := by
  unfold Ctx.endStepWith; dsimp only; (repeat' split) <;> simp

@[simp] theorem Ctx.endWork_keeps (x : Ctx) (status : Nat) :
    (x.endWork status).chip.config = x.chip.config ∧ (x.endWork status).chip.power = x.chip.power ∧
    (x.endWork status).c = x.c ∧ (x.endWork status).now = x.now := by
  unfold Ctx.endWork; simp

@[simp] theorem Ctx.workStop_keeps (x : Ctx) :
    (x.workStop).chip.config = x.chip.config ∧ (x.workStop).chip.power = x.chip.power ∧ (x.workStop).c = x.c ∧
    (x.workStop).now = x.now := by
  unfold Ctx.workStop; simp

@[simp] theorem Ctx.hbmThrottle_keeps (x : Ctx) (g : Nat) (t : Nat) :
    (x.hbmThrottle g t).chip.boot = x.chip.boot ∧ (x.hbmThrottle g t).chip.bar = x.chip.bar ∧
    (x.hbmThrottle g t).chip.stew = x.chip.stew ∧ (x.hbmThrottle g t).chip.config = x.chip.config ∧
    (x.hbmThrottle g t).chip.serve = x.chip.serve ∧ (x.hbmThrottle g t).chip.eng = x.chip.eng ∧
    (x.hbmThrottle g t).chip.mem = x.chip.mem ∧ (x.hbmThrottle g t).chip.fab = x.chip.fab ∧
    (x.hbmThrottle g t).chip.obs = x.chip.obs ∧ (x.hbmThrottle g t).chip.ledger = x.chip.ledger ∧ (x.hbmThrottle g t).c = x.c ∧
    (x.hbmThrottle g t).now = x.now := by
  unfold Ctx.hbmThrottle; simp

@[simp] theorem Ctx.throttle_keeps (x : Ctx) (g : Nat) (t : Nat) :
    (x.throttle g t).chip.boot = x.chip.boot ∧ (x.throttle g t).chip.config = x.chip.config ∧
    (x.throttle g t).chip.serve = x.chip.serve ∧ (x.throttle g t).chip.mem = x.chip.mem ∧
    (x.throttle g t).chip.fab = x.chip.fab ∧ (x.throttle g t).c = x.c ∧ (x.throttle g t).now = x.now := by
  unfold Ctx.throttle; simp

@[simp] theorem Ctx.thermalStop_keeps (x : Ctx) (g : Nat) (t : Nat) :
    (x.thermalStop g t).chip.config = x.chip.config ∧ (x.thermalStop g t).c = x.c ∧ (x.thermalStop g t).now = x.now := by
  unfold Ctx.thermalStop; simp

@[simp] theorem Ctx.sensorRead_keeps (x : Ctx) (temps : List Nat) :
    (x.sensorRead temps).chip.config = x.chip.config ∧ (x.sensorRead temps).c = x.c ∧ (x.sensorRead temps).now = x.now := by
  unfold Ctx.sensorRead; simp

@[simp] theorem Ctx.takeOrder_keeps (x : Ctx) :
    (x.takeOrder).chip.bar = x.chip.bar ∧ (x.takeOrder).chip.stew = x.chip.stew ∧ (x.takeOrder).chip.config = x.chip.config ∧
    (x.takeOrder).chip.serve = x.chip.serve ∧ (x.takeOrder).chip.mem = x.chip.mem ∧ (x.takeOrder).chip.obs = x.chip.obs ∧
    (x.takeOrder).chip.ledger = x.chip.ledger ∧ (x.takeOrder).c = x.c ∧ (x.takeOrder).now = x.now := by
  unfold Ctx.takeOrder; dsimp only; (repeat' split) <;> simp

@[simp] theorem Ctx.takeAllotment_keeps (x : Ctx) :
    (x.takeAllotment).chip.boot = x.chip.boot ∧ (x.takeAllotment).chip.config = x.chip.config ∧
    (x.takeAllotment).chip.serve = x.chip.serve ∧ (x.takeAllotment).chip.eng = x.chip.eng ∧
    (x.takeAllotment).chip.mem = x.chip.mem ∧ (x.takeAllotment).chip.fab = x.chip.fab ∧ (x.takeAllotment).c = x.c ∧
    (x.takeAllotment).now = x.now := by
  unfold Ctx.takeAllotment; dsimp only; (repeat' split) <;> simp

@[simp] theorem Ctx.loseNdevas_keeps (x : Ctx) :
    (x.loseNdevas).chip.boot = x.chip.boot ∧ (x.loseNdevas).chip.config = x.chip.config ∧
    (x.loseNdevas).chip.serve = x.chip.serve ∧ (x.loseNdevas).chip.eng = x.chip.eng ∧ (x.loseNdevas).chip.mem = x.chip.mem ∧
    (x.loseNdevas).chip.fab = x.chip.fab ∧ (x.loseNdevas).c = x.c ∧ (x.loseNdevas).now = x.now := by
  unfold Ctx.loseNdevas; simp

@[simp] theorem Ctx.conflict_keeps (x : Ctx) (kind : Nat) (die : Nat) (way : Rounding) :
    (x.conflict kind die way).chip.boot = x.chip.boot ∧ (x.conflict kind die way).chip.config = x.chip.config ∧
    (x.conflict kind die way).chip.serve = x.chip.serve ∧ (x.conflict kind die way).chip.eng = x.chip.eng ∧
    (x.conflict kind die way).chip.mem = x.chip.mem ∧ (x.conflict kind die way).chip.fab = x.chip.fab ∧ (x.conflict kind die way).c = x.c ∧
    (x.conflict kind die way).now = x.now := by
  unfold Ctx.conflict; simp

@[simp] theorem Ctx.settleConflicts_keeps (x : Ctx) :
    (x.settleConflicts).chip.boot = x.chip.boot ∧ (x.settleConflicts).chip.bar = x.chip.bar ∧
    (x.settleConflicts).chip.stew = x.chip.stew ∧ (x.settleConflicts).chip.config = x.chip.config ∧
    (x.settleConflicts).chip.serve = x.chip.serve ∧ (x.settleConflicts).chip.eng = x.chip.eng ∧
    (x.settleConflicts).chip.mem = x.chip.mem ∧ (x.settleConflicts).chip.fab = x.chip.fab ∧
    (x.settleConflicts).chip.obs = x.chip.obs ∧ (x.settleConflicts).chip.ledger = x.chip.ledger ∧ (x.settleConflicts).c = x.c ∧
    (x.settleConflicts).now = x.now := by
  unfold Ctx.settleConflicts; simp

@[simp] theorem Ctx.powerCalibrate_keeps (x : Ctx) (k : Cmd) :
    (x.powerCalibrate k).chip.boot = x.chip.boot ∧ (x.powerCalibrate k).chip.config = x.chip.config ∧
    (x.powerCalibrate k).chip.serve = x.chip.serve ∧ (x.powerCalibrate k).chip.eng = x.chip.eng ∧
    (x.powerCalibrate k).chip.mem = x.chip.mem ∧ (x.powerCalibrate k).chip.fab = x.chip.fab ∧ (x.powerCalibrate k).c = x.c ∧
    (x.powerCalibrate k).now = x.now := by
  unfold Ctx.powerCalibrate; simp

@[simp] theorem Ctx.quietStart_keeps (x : Ctx) :
    (x.quietStart).chip.boot = x.chip.boot ∧ (x.quietStart).chip.bar = x.chip.bar ∧ (x.quietStart).chip.stew = x.chip.stew ∧
    (x.quietStart).chip.config = x.chip.config ∧ (x.quietStart).chip.serve = x.chip.serve ∧
    (x.quietStart).chip.eng = x.chip.eng ∧ (x.quietStart).chip.mem = x.chip.mem ∧ (x.quietStart).chip.fab = x.chip.fab ∧
    (x.quietStart).chip.obs = x.chip.obs ∧ (x.quietStart).c = x.c ∧ (x.quietStart).now = x.now := by
  unfold Ctx.quietStart; (repeat' split) <;> simp_all

@[simp] theorem Ctx.freshRail_keeps (x : Ctx) (r : Nat) :
    (x.freshRail r).chip.boot = x.chip.boot ∧ (x.freshRail r).chip.config = x.chip.config ∧
    (x.freshRail r).chip.serve = x.chip.serve ∧ (x.freshRail r).chip.eng = x.chip.eng ∧ (x.freshRail r).chip.mem = x.chip.mem ∧
    (x.freshRail r).chip.fab = x.chip.fab ∧ (x.freshRail r).c = x.c ∧ (x.freshRail r).now = x.now := by
  unfold Ctx.freshRail; simp

@[simp] theorem Ctx.takeFits_keeps (x : Ctx) (w : QuietWin) (way : Rounding) :
    (x.takeFits w way).1.chip.boot = x.chip.boot ∧ (x.takeFits w way).1.chip.config = x.chip.config ∧
    (x.takeFits w way).1.chip.serve = x.chip.serve ∧ (x.takeFits w way).1.chip.eng = x.chip.eng ∧
    (x.takeFits w way).1.chip.mem = x.chip.mem ∧ (x.takeFits w way).1.chip.fab = x.chip.fab ∧ (x.takeFits w way).1.c = x.c ∧
    (x.takeFits w way).1.now = x.now := by
  unfold Ctx.takeFits; simp

@[simp] theorem Ctx.quietEnd_keeps (x : Ctx) (way : Rounding) :
    (x.quietEnd way).chip.boot = x.chip.boot ∧ (x.quietEnd way).chip.config = x.chip.config ∧ (x.quietEnd way).chip.serve = x.chip.serve ∧
    (x.quietEnd way).chip.eng = x.chip.eng ∧ (x.quietEnd way).chip.mem = x.chip.mem ∧ (x.quietEnd way).chip.fab = x.chip.fab ∧
    (x.quietEnd way).c = x.c ∧ (x.quietEnd way).now = x.now := by
  unfold Ctx.quietEnd; dsimp only; (repeat' split) <;> simp

@[simp] theorem Ctx.drainTimeout_keeps (x : Ctx) :
    (x.drainTimeout).chip.boot = x.chip.boot ∧ (x.drainTimeout).chip.config = x.chip.config ∧
    (x.drainTimeout).chip.serve = x.chip.serve ∧ (x.drainTimeout).chip.eng = x.chip.eng ∧
    (x.drainTimeout).chip.mem = x.chip.mem ∧ (x.drainTimeout).chip.fab = x.chip.fab ∧ (x.drainTimeout).c = x.c ∧
    (x.drainTimeout).now = x.now := by
  unfold Ctx.drainTimeout; (repeat' split) <;> simp_all

@[simp] theorem Ctx.newInterval_keeps (x : Ctx) :
    (x.newInterval).chip.boot = x.chip.boot ∧ (x.newInterval).chip.bar = x.chip.bar ∧ (x.newInterval).chip.stew = x.chip.stew ∧
    (x.newInterval).chip.config = x.chip.config ∧ (x.newInterval).chip.serve = x.chip.serve ∧
    (x.newInterval).chip.eng = x.chip.eng ∧ (x.newInterval).chip.mem = x.chip.mem ∧ (x.newInterval).chip.fab = x.chip.fab ∧
    (x.newInterval).chip.obs = x.chip.obs ∧ (x.newInterval).c = x.c ∧ (x.newInterval).now = x.now := by
  unfold Ctx.newInterval; simp

end Sys2Proof.Machine
end

