-- ==== Sys2Proof/Laws/FrameEnergy.lean ====
section
/-! SUPPORT. What the operations of Machine/Energy.lean leave unchanged of a chip. -/
namespace Sys2Proof.Machine

@[simp] theorem Ctx.addShares_keeps (x : Ctx) (total : Nat) (l : List Share) :
    (x.addShares total l).chip.boot = x.chip.boot ∧ (x.addShares total l).chip.bar = x.chip.bar ∧
    (x.addShares total l).chip.stew = x.chip.stew ∧ (x.addShares total l).chip.config = x.chip.config ∧
    (x.addShares total l).chip.serve = x.chip.serve ∧ (x.addShares total l).chip.eng = x.chip.eng ∧
    (x.addShares total l).chip.mem = x.chip.mem ∧ (x.addShares total l).chip.fab = x.chip.fab ∧
    (x.addShares total l).chip.power = x.chip.power ∧ (x.addShares total l).chip.ledger = x.chip.ledger ∧
    (x.addShares total l).c = x.c ∧ (x.addShares total l).now = x.now := by
  unfold Ctx.addShares; simp

@[simp] theorem Ctx.disagreeOne_keeps (x : Ctx) (way : Rounding) (sums : List (Nat × Nat)) (was : List (Nat × Nat)) (u : Nat) :
    (x.disagreeOne way sums was u).chip.boot = x.chip.boot ∧ (x.disagreeOne way sums was u).chip.bar = x.chip.bar ∧
    (x.disagreeOne way sums was u).chip.stew = x.chip.stew ∧ (x.disagreeOne way sums was u).chip.config = x.chip.config ∧
    (x.disagreeOne way sums was u).chip.serve = x.chip.serve ∧ (x.disagreeOne way sums was u).chip.eng = x.chip.eng ∧
    (x.disagreeOne way sums was u).chip.mem = x.chip.mem ∧ (x.disagreeOne way sums was u).chip.fab = x.chip.fab ∧
    (x.disagreeOne way sums was u).chip.power = x.chip.power ∧ (x.disagreeOne way sums was u).chip.ledger = x.chip.ledger ∧
    (x.disagreeOne way sums was u).c = x.c ∧ (x.disagreeOne way sums was u).now = x.now := by
  unfold Ctx.disagreeOne; simp

@[simp] theorem Ctx.disagree_keeps (x : Ctx) (way : Rounding) :
    (x.disagree way).chip.boot = x.chip.boot ∧
    (x.disagree way).chip.bar = x.chip.bar ∧
    (x.disagree way).chip.stew = x.chip.stew ∧
    (x.disagree way).chip.config = x.chip.config ∧
    (x.disagree way).chip.serve = x.chip.serve ∧
    (x.disagree way).chip.eng = x.chip.eng ∧
    (x.disagree way).chip.mem = x.chip.mem ∧
    (x.disagree way).chip.fab = x.chip.fab ∧
    (x.disagree way).chip.ledger = x.chip.ledger ∧
    (x.disagree way).c = x.c ∧
    (x.disagree way).now = x.now := by
  unfold Ctx.disagree; dsimp only; split
  · refine ⟨(Ctx.onPower_boot _ _).trans (Ctx.foldl_boot _ (fun y u => by simp) _ _),
      (Ctx.onPower_bar _ _).trans (Ctx.foldl_bar _ (fun y u => by simp) _ _),
      (Ctx.onPower_stew _ _).trans (Ctx.foldl_stew _ (fun y u => by simp) _ _),
      (Ctx.onPower_config _ _).trans (Ctx.foldl_config _ (fun y u => by simp) _ _),
      (Ctx.onPower_serve _ _).trans (Ctx.foldl_serve _ (fun y u => by simp) _ _),
      (Ctx.onPower_eng _ _).trans (Ctx.foldl_eng _ (fun y u => by simp) _ _),
      (Ctx.onPower_mem _ _).trans (Ctx.foldl_mem _ (fun y u => by simp) _ _),
      (Ctx.onPower_fab _ _).trans (Ctx.foldl_fab _ (fun y u => by simp) _ _),
      (Ctx.onPower_ledger _ _).trans (Ctx.foldl_ledger _ (fun y u => by simp) _ _),
      (Ctx.onPower_c _ _).trans (Ctx.foldl_c _ (fun y u => by simp) _ _),
      (Ctx.onPower_now _ _).trans (Ctx.foldl_now _ (fun y u => by simp) _ _)⟩
  · simp

@[simp] theorem Ctx.noteSplit_keeps (x : Ctx) (e : Split) (rails : List Nat) :
    (x.noteSplit e rails).chip.boot = x.chip.boot ∧ (x.noteSplit e rails).chip.bar = x.chip.bar ∧
    (x.noteSplit e rails).chip.stew = x.chip.stew ∧ (x.noteSplit e rails).chip.config = x.chip.config ∧
    (x.noteSplit e rails).chip.serve = x.chip.serve ∧ (x.noteSplit e rails).chip.eng = x.chip.eng ∧
    (x.noteSplit e rails).chip.mem = x.chip.mem ∧ (x.noteSplit e rails).chip.fab = x.chip.fab ∧
    (x.noteSplit e rails).chip.obs = x.chip.obs ∧ (x.noteSplit e rails).chip.ledger = x.chip.ledger ∧
    (x.noteSplit e rails).c = x.c ∧ (x.noteSplit e rails).now = x.now := by
  unfold Ctx.noteSplit; simp

@[simp] theorem Ctx.lullSplit_keeps (x : Ctx) :
    (x.lullSplit).chip.boot = x.chip.boot ∧ (x.lullSplit).chip.bar = x.chip.bar ∧ (x.lullSplit).chip.stew = x.chip.stew ∧
    (x.lullSplit).chip.config = x.chip.config ∧ (x.lullSplit).chip.serve = x.chip.serve ∧ (x.lullSplit).chip.eng = x.chip.eng ∧
    (x.lullSplit).chip.mem = x.chip.mem ∧ (x.lullSplit).chip.fab = x.chip.fab ∧ (x.lullSplit).chip.ledger = x.chip.ledger ∧
    (x.lullSplit).c = x.c ∧ (x.lullSplit).now = x.now := by
  unfold Ctx.lullSplit; simp

@[simp] theorem Ctx.divide_keeps (x : Ctx) (e : Split) :
    (x.divide e).chip.boot = x.chip.boot ∧ (x.divide e).chip.bar = x.chip.bar ∧ (x.divide e).chip.stew = x.chip.stew ∧
    (x.divide e).chip.config = x.chip.config ∧ (x.divide e).chip.serve = x.chip.serve ∧ (x.divide e).chip.eng = x.chip.eng ∧
    (x.divide e).chip.mem = x.chip.mem ∧ (x.divide e).chip.fab = x.chip.fab ∧ (x.divide e).chip.ledger = x.chip.ledger ∧
    (x.divide e).c = x.c ∧ (x.divide e).now = x.now := by
  unfold Ctx.divide; simp

@[simp] theorem Ctx.nextSplit_keeps (x : Ctx) :
    (x.nextSplit).chip.boot = x.chip.boot ∧ (x.nextSplit).chip.bar = x.chip.bar ∧ (x.nextSplit).chip.stew = x.chip.stew ∧
    (x.nextSplit).chip.config = x.chip.config ∧ (x.nextSplit).chip.serve = x.chip.serve ∧ (x.nextSplit).chip.eng = x.chip.eng ∧
    (x.nextSplit).chip.mem = x.chip.mem ∧ (x.nextSplit).chip.fab = x.chip.fab ∧ (x.nextSplit).chip.obs = x.chip.obs ∧
    (x.nextSplit).c = x.c ∧ (x.nextSplit).now = x.now := by
  unfold Ctx.nextSplit; simp

@[simp] theorem Ctx.energySplit_keeps (x : Ctx) (way : Rounding) :
    (x.energySplit way).chip.boot = x.chip.boot ∧ (x.energySplit way).chip.bar = x.chip.bar ∧ (x.energySplit way).chip.stew = x.chip.stew ∧
    (x.energySplit way).chip.config = x.chip.config ∧ (x.energySplit way).chip.serve = x.chip.serve ∧
    (x.energySplit way).chip.eng = x.chip.eng ∧ (x.energySplit way).chip.mem = x.chip.mem ∧ (x.energySplit way).chip.fab = x.chip.fab ∧
    (x.energySplit way).c = x.c ∧ (x.energySplit way).now = x.now := by
  unfold Ctx.energySplit; simp

@[simp] theorem Ctx.reference_keeps (x : Ctx) (r : Nat) (way : Rounding) :
    (x.reference r way).chip.boot = x.chip.boot ∧ (x.reference r way).chip.config = x.chip.config ∧
    (x.reference r way).chip.serve = x.chip.serve ∧ (x.reference r way).chip.eng = x.chip.eng ∧ (x.reference r way).chip.mem = x.chip.mem ∧
    (x.reference r way).chip.fab = x.chip.fab ∧ (x.reference r way).c = x.c ∧ (x.reference r way).now = x.now := by
  unfold Ctx.reference; dsimp only; (repeat' split) <;> simp

@[simp] theorem Ctx.goStale_keeps (x : Ctx) (r : Nat) :
    (x.goStale r).chip.boot = x.chip.boot ∧ (x.goStale r).chip.config = x.chip.config ∧
    (x.goStale r).chip.serve = x.chip.serve ∧ (x.goStale r).chip.eng = x.chip.eng ∧ (x.goStale r).chip.mem = x.chip.mem ∧
    (x.goStale r).chip.fab = x.chip.fab ∧ (x.goStale r).c = x.c ∧ (x.goStale r).now = x.now := by
  unfold Ctx.goStale; simp

end Sys2Proof.Machine
end

