-- ==== Sys2Proof/Laws/FrameObserve.lean ====
section
/-! SUPPORT. What the operations of Machine/Observe.lean leave unchanged of a chip. -/
namespace Sys2Proof.Machine

@[simp] theorem Ctx.lullCut_keeps (x : Ctx) :
    (x.lullCut).chip.boot = x.chip.boot ∧ (x.lullCut).chip.config = x.chip.config ∧ (x.lullCut).chip.serve = x.chip.serve ∧
    (x.lullCut).chip.eng = x.chip.eng ∧ (x.lullCut).chip.mem = x.chip.mem ∧ (x.lullCut).chip.fab = x.chip.fab ∧
    (x.lullCut).chip.power = x.chip.power ∧ (x.lullCut).c = x.c ∧ (x.lullCut).now = x.now := by
  unfold Ctx.lullCut; simp

@[simp] theorem Ctx.traceConfig_keeps (x : Ctx) (k : Cmd) :
    (x.traceConfig k).chip.boot = x.chip.boot ∧ (x.traceConfig k).chip.config = x.chip.config ∧
    (x.traceConfig k).chip.serve = x.chip.serve ∧ (x.traceConfig k).chip.eng = x.chip.eng ∧
    (x.traceConfig k).chip.mem = x.chip.mem ∧ (x.traceConfig k).chip.fab = x.chip.fab ∧
    (x.traceConfig k).chip.power = x.chip.power ∧ (x.traceConfig k).c = x.c ∧ (x.traceConfig k).now = x.now := by
  unfold Ctx.traceConfig; simp

@[simp] theorem Ctx.copyRecord_keeps (x : Ctx) :
    (x.copyRecord).chip.boot = x.chip.boot ∧ (x.copyRecord).chip.config = x.chip.config ∧
    (x.copyRecord).chip.serve = x.chip.serve ∧ (x.copyRecord).chip.fab = x.chip.fab ∧
    (x.copyRecord).chip.power = x.chip.power ∧ (x.copyRecord).c = x.c ∧ (x.copyRecord).now = x.now := by
  unfold Ctx.copyRecord; dsimp only; (repeat' split) <;> simp

@[simp] theorem Ctx.readConsumer_keeps (x : Ctx) (v : Nat) :
    (x.readConsumer v).chip.boot = x.chip.boot ∧ (x.readConsumer v).chip.bar = x.chip.bar ∧
    (x.readConsumer v).chip.stew = x.chip.stew ∧ (x.readConsumer v).chip.config = x.chip.config ∧
    (x.readConsumer v).chip.serve = x.chip.serve ∧ (x.readConsumer v).chip.eng = x.chip.eng ∧
    (x.readConsumer v).chip.mem = x.chip.mem ∧ (x.readConsumer v).chip.fab = x.chip.fab ∧
    (x.readConsumer v).chip.power = x.chip.power ∧ (x.readConsumer v).chip.ledger = x.chip.ledger ∧
    (x.readConsumer v).c = x.c ∧ (x.readConsumer v).now = x.now := by
  unfold Ctx.readConsumer; simp

@[simp] theorem Ctx.healthClear_keeps (x : Ctx) (k : Cmd) :
    (x.healthClear k).chip.boot = x.chip.boot ∧ (x.healthClear k).chip.config = x.chip.config ∧
    (x.healthClear k).chip.serve = x.chip.serve ∧ (x.healthClear k).chip.eng = x.chip.eng ∧
    (x.healthClear k).chip.mem = x.chip.mem ∧ (x.healthClear k).chip.fab = x.chip.fab ∧
    (x.healthClear k).chip.power = x.chip.power ∧ (x.healthClear k).c = x.c ∧ (x.healthClear k).now = x.now := by
  unfold Ctx.healthClear; simp

end Sys2Proof.Machine
end

