-- ==== Sys2Proof/Laws/FrameBoot.lean ====
section
/-! SUPPORT. What the operations of Machine/Boot.lean leave unchanged of a chip. -/
namespace Sys2Proof.Machine

@[simp] theorem Ctx.railStep_keeps (x : Ctx) :
    (x.railStep).chip.bar = x.chip.bar ∧ (x.railStep).chip.stew = x.chip.stew ∧ (x.railStep).chip.config = x.chip.config ∧
    (x.railStep).chip.serve = x.chip.serve ∧ (x.railStep).chip.eng = x.chip.eng ∧ (x.railStep).chip.mem = x.chip.mem ∧
    (x.railStep).chip.fab = x.chip.fab ∧ (x.railStep).chip.power = x.chip.power ∧ (x.railStep).chip.obs = x.chip.obs ∧
    (x.railStep).c = x.c ∧ (x.railStep).now = x.now := by
  unfold Ctx.railStep; simp

@[simp] theorem Ctx.reset_keeps (x : Ctx) (kind : ResetKind) :
    (x.reset kind).c = x.c ∧ (x.reset kind).now = x.now := by
  unfold Ctx.reset; simp

@[simp] theorem Ctx.fundamental_keeps (x : Ctx) (kind : ResetKind) :
    (x.fundamental kind).c = x.c ∧ (x.fundamental kind).now = x.now := by
  unfold Ctx.fundamental; simp

@[simp] theorem Ctx.linkDown_keeps (x : Ctx) :
    (x.linkDown).c = x.c ∧ (x.linkDown).now = x.now := by
  unfold Ctx.linkDown; simp

@[simp] theorem Ctx.linkStart_keeps (x : Ctx) :
    (x.linkStart).chip.bar = x.chip.bar ∧ (x.linkStart).chip.stew = x.chip.stew ∧ (x.linkStart).chip.config = x.chip.config ∧
    (x.linkStart).chip.serve = x.chip.serve ∧ (x.linkStart).chip.eng = x.chip.eng ∧ (x.linkStart).chip.mem = x.chip.mem ∧
    (x.linkStart).chip.fab = x.chip.fab ∧ (x.linkStart).chip.power = x.chip.power ∧ (x.linkStart).chip.obs = x.chip.obs ∧
    (x.linkStart).chip.ledger = x.chip.ledger ∧ (x.linkStart).c = x.c ∧ (x.linkStart).now = x.now := by
  unfold Ctx.linkStart; simp

@[simp] theorem Ctx.setReady_keeps (x : Ctx) :
    (x.setReady).c = x.c ∧ (x.setReady).now = x.now := by
  unfold Ctx.setReady; simp

@[simp] theorem Ctx.tryReady_keeps (x : Ctx) :
    (x.tryReady).c = x.c ∧ (x.tryReady).now = x.now := by
  unfold Ctx.tryReady; simp

@[simp] theorem Ctx.linkL0_keeps (x : Ctx) :
    (x.linkL0).c = x.c ∧ (x.linkL0).now = x.now := by
  unfold Ctx.linkL0; simp

@[simp] theorem Ctx.firmwareLoaded_keeps (x : Ctx) (version : Word32) (build : Word32) (minor : Byte) :
    (x.firmwareLoaded version build minor).c = x.c ∧ (x.firmwareLoaded version build minor).now = x.now := by
  unfold Ctx.firmwareLoaded; simp

@[simp] theorem Ctx.firmwareFailed_keeps (x : Ctx) :
    (x.firmwareFailed).chip.bar = x.chip.bar ∧ (x.firmwareFailed).chip.stew = x.chip.stew ∧
    (x.firmwareFailed).chip.config = x.chip.config ∧ (x.firmwareFailed).chip.serve = x.chip.serve ∧
    (x.firmwareFailed).chip.eng = x.chip.eng ∧ (x.firmwareFailed).chip.mem = x.chip.mem ∧
    (x.firmwareFailed).chip.fab = x.chip.fab ∧ (x.firmwareFailed).chip.power = x.chip.power ∧ (x.firmwareFailed).c = x.c ∧
    (x.firmwareFailed).now = x.now := by
  unfold Ctx.firmwareFailed; simp

@[simp] theorem Ctx.hbmTrained_keeps (x : Ctx) :
    (x.hbmTrained).c = x.c ∧ (x.hbmTrained).now = x.now := by
  unfold Ctx.hbmTrained; simp

@[simp] theorem Ctx.hbmFailed_keeps (x : Ctx) :
    (x.hbmFailed).c = x.c ∧ (x.hbmFailed).now = x.now := by
  unfold Ctx.hbmFailed; simp

@[simp] theorem Ctx.zeroingDone_keeps (x : Ctx) :
    (x.zeroingDone).c = x.c ∧ (x.zeroingDone).now = x.now := by
  unfold Ctx.zeroingDone; simp

@[simp] theorem Ctx.resetDone_keeps (x : Ctx) :
    (x.resetDone).c = x.c ∧ (x.resetDone).now = x.now := by
  unfold Ctx.resetDone; simp

@[simp] theorem Ctx.flr_keeps (x : Ctx) :
    (x.flr).c = x.c ∧ (x.flr).now = x.now := by
  unfold Ctx.flr; simp

@[simp] theorem Ctx.faultCode_keeps (x : Ctx) (code : Nat) :
    (x.faultCode code).c = x.c ∧ (x.faultCode code).now = x.now := by
  unfold Ctx.faultCode; simp

@[simp] theorem Ctx.watchdog_keeps (x : Ctx) (code : Nat) :
    (x.watchdog code).c = x.c ∧ (x.watchdog code).now = x.now := by
  unfold Ctx.watchdog; simp

@[simp] theorem Ctx.stewardFault_keeps (x : Ctx) (code : Nat) (id : Nat) :
    (x.stewardFault code id).c = x.c ∧ (x.stewardFault code id).now = x.now := by
  unfold Ctx.stewardFault; dsimp only; (repeat' split) <;> simp

@[simp] theorem Ctx.hostLinkFatal_keeps (x : Ctx) (kind : LinkFatal) :
    (x.hostLinkFatal kind).c = x.c ∧ (x.hostLinkFatal kind).now = x.now := by
  unfold Ctx.hostLinkFatal; simp

@[simp] theorem Ctx.idleTimeout_keeps (x : Ctx) :
    (x.idleTimeout).chip.bar = x.chip.bar ∧ (x.idleTimeout).chip.stew = x.chip.stew ∧
    (x.idleTimeout).chip.config = x.chip.config ∧ (x.idleTimeout).chip.serve = x.chip.serve ∧
    (x.idleTimeout).chip.eng = x.chip.eng ∧ (x.idleTimeout).chip.mem = x.chip.mem ∧ (x.idleTimeout).chip.power = x.chip.power ∧
    (x.idleTimeout).chip.obs = x.chip.obs ∧ (x.idleTimeout).chip.ledger = x.chip.ledger ∧ (x.idleTimeout).c = x.c ∧
    (x.idleTimeout).now = x.now := by
  unfold Ctx.idleTimeout; simp

@[simp] theorem Ctx.dormantDelay_keeps (x : Ctx) :
    (x.dormantDelay).chip.bar = x.chip.bar ∧ (x.dormantDelay).chip.stew = x.chip.stew ∧
    (x.dormantDelay).chip.config = x.chip.config ∧ (x.dormantDelay).chip.serve = x.chip.serve ∧
    (x.dormantDelay).chip.eng = x.chip.eng ∧ (x.dormantDelay).chip.mem = x.chip.mem ∧
    (x.dormantDelay).chip.power = x.chip.power ∧ (x.dormantDelay).chip.obs = x.chip.obs ∧
    (x.dormantDelay).chip.ledger = x.chip.ledger ∧ (x.dormantDelay).c = x.c ∧ (x.dormantDelay).now = x.now := by
  unfold Ctx.dormantDelay; simp

@[simp] theorem Ctx.dormantEntered_keeps (x : Ctx) :
    (x.dormantEntered).c = x.c ∧ (x.dormantEntered).now = x.now := by
  unfold Ctx.dormantEntered; simp

@[simp] theorem Ctx.woken_keeps (x : Ctx) :
    (x.woken).c = x.c ∧ (x.woken).now = x.now := by
  unfold Ctx.woken; simp

@[simp] theorem Ctx.dormantNow_keeps (x : Ctx) (k : Cmd) :
    (x.dormantNow k).chip.config = x.chip.config ∧ (x.dormantNow k).chip.serve = x.chip.serve ∧
    (x.dormantNow k).chip.eng = x.chip.eng ∧ (x.dormantNow k).chip.mem = x.chip.mem ∧
    (x.dormantNow k).chip.power = x.chip.power ∧ (x.dormantNow k).c = x.c ∧ (x.dormantNow k).now = x.now := by
  unfold Ctx.dormantNow; (repeat' split) <;> simp_all

end Sys2Proof.Machine
end

