-- ==== Sys2Proof/Laws/FrameManage.lean ====
section
/-! SUPPORT. What the operations of Machine/Manage.lean leave unchanged of a chip. -/
namespace Sys2Proof.Machine

@[simp] theorem Ctx.noticed_keeps (x : Ctx) :
    (x.noticed).chip.config = x.chip.config ∧ (x.noticed).chip.power = x.chip.power ∧ (x.noticed).c = x.c ∧
    (x.noticed).now = x.now := by
  unfold Ctx.noticed; simp

end Sys2Proof.Machine
end

