-- ==== Sys2Proof/Laws/FrameTick.lean ====
section
/-! SUPPORT. What the operations of Machine/Tick.lean leave unchanged of a chip. -/
namespace Sys2Proof.Machine

@[simp] theorem Ctx.nsCounts_keeps (x : Ctx) :
    (x.nsCounts).chip.boot = x.chip.boot ∧ (x.nsCounts).chip.bar = x.chip.bar ∧ (x.nsCounts).chip.stew = x.chip.stew ∧
    (x.nsCounts).chip.config = x.chip.config ∧ (x.nsCounts).chip.serve = x.chip.serve ∧ (x.nsCounts).chip.eng = x.chip.eng ∧
    (x.nsCounts).chip.mem = x.chip.mem ∧ (x.nsCounts).chip.fab = x.chip.fab ∧ (x.nsCounts).chip.power = x.chip.power ∧
    (x.nsCounts).chip.ledger = x.chip.ledger ∧ (x.nsCounts).c = x.c ∧ (x.nsCounts).now = x.now := by
  unfold Ctx.nsCounts; simp

@[simp] theorem Ctx.arrayClocks_keeps (x : Ctx) :
    (x.arrayClocks).chip.boot = x.chip.boot ∧ (x.arrayClocks).chip.bar = x.chip.bar ∧ (x.arrayClocks).chip.stew = x.chip.stew ∧
    (x.arrayClocks).chip.config = x.chip.config ∧ (x.arrayClocks).chip.serve = x.chip.serve ∧
    (x.arrayClocks).chip.eng = x.chip.eng ∧ (x.arrayClocks).chip.mem = x.chip.mem ∧ (x.arrayClocks).chip.fab = x.chip.fab ∧
    (x.arrayClocks).chip.power = x.chip.power ∧ (x.arrayClocks).chip.obs = x.chip.obs ∧ (x.arrayClocks).c = x.c ∧
    (x.arrayClocks).now = x.now := by
  unfold Ctx.arrayClocks; simp

@[simp] theorem Ctx.takeUpset_keeps (x : Ctx) (u : Config.Upset) :
    (x.takeUpset u).chip.boot = x.chip.boot ∧ (x.takeUpset u).chip.bar = x.chip.bar ∧ (x.takeUpset u).chip.stew = x.chip.stew ∧
    (x.takeUpset u).chip.config = x.chip.config ∧ (x.takeUpset u).chip.serve = x.chip.serve ∧
    (x.takeUpset u).chip.fab = x.chip.fab ∧ (x.takeUpset u).chip.power = x.chip.power ∧ (x.takeUpset u).chip.obs = x.chip.obs ∧
    (x.takeUpset u).chip.ledger = x.chip.ledger ∧ (x.takeUpset u).c = x.c ∧ (x.takeUpset u).now = x.now := by
  unfold Ctx.takeUpset; dsimp only; (repeat' split) <;> simp

@[simp] theorem Ctx.maybeUpset_keeps (x : Ctx) :
    (x.maybeUpset).chip.boot = x.chip.boot ∧ (x.maybeUpset).chip.bar = x.chip.bar ∧ (x.maybeUpset).chip.stew = x.chip.stew ∧
    (x.maybeUpset).chip.config = x.chip.config ∧ (x.maybeUpset).chip.serve = x.chip.serve ∧
    (x.maybeUpset).chip.fab = x.chip.fab ∧ (x.maybeUpset).chip.power = x.chip.power ∧ (x.maybeUpset).chip.obs = x.chip.obs ∧
    (x.maybeUpset).chip.ledger = x.chip.ledger ∧ (x.maybeUpset).c = x.c ∧ (x.maybeUpset).now = x.now := by
  unfold Ctx.maybeUpset; (repeat' split) <;> simp_all

@[simp] theorem Ctx.bootRom_keeps (x : Ctx) :
    (x.bootRom).c = x.c ∧ (x.bootRom).now = x.now := by
  unfold Ctx.bootRom; simp

@[simp] theorem Ctx.railTick_keeps (x : Ctx) :
    (x.railTick).chip.bar = x.chip.bar ∧ (x.railTick).chip.stew = x.chip.stew ∧ (x.railTick).chip.config = x.chip.config ∧
    (x.railTick).chip.serve = x.chip.serve ∧ (x.railTick).chip.eng = x.chip.eng ∧ (x.railTick).chip.mem = x.chip.mem ∧
    (x.railTick).chip.fab = x.chip.fab ∧ (x.railTick).chip.power = x.chip.power ∧ (x.railTick).chip.obs = x.chip.obs ∧
    (x.railTick).c = x.c ∧ (x.railTick).now = x.now := by
  unfold Ctx.railTick; simp

@[simp] theorem Ctx.tick_keeps (x : Ctx) :
    (x.tick).c = x.c ∧ (x.tick).now = x.now := by
  unfold Ctx.tick; simp

end Sys2Proof.Machine
end

