-- ==== Sys2Proof/Laws/Tab.lean ====
section
/-! SUPPORT. Sparse tables and memories: a read after a write, and the canonical form kept by every memory operation. -/
namespace Sys2Proof.Machine

/-! ## Sparse tables -/

theorem tget_tdel_same {α : Type} (d : α) (t : Tab α) (k : Nat) : tget d (tdel t k) k = d := by
  induction t with
  | nil => rfl
  | cons e r ih =>
    by_cases h : e.1 = k
    · simpa [tdel, h] using ih
    · simpa [tdel, h, tget] using ih

theorem tget_tdel_other {α : Type} (d : α) (t : Tab α) (k j : Nat) (h : j ≠ k) : tget d (tdel t k) j = tget d t j := by
  induction t with
  | nil => rfl
  | cons e r ih =>
    by_cases g : e.1 = k
    · have : e.1 ≠ j := by omega
      simpa [tdel, g, tget, this, show k ≠ j by omega] using ih
    · by_cases g2 : e.1 = j
      · subst g2; simp [tdel, g, tget]
      · simpa [tdel, g, tget, g2] using ih

theorem tget_tins_same {α : Type} (d v : α) (t : Tab α) (k : Nat) (h : ∀ e ∈ t, e.1 ≠ k) : tget d (tins k v t) k = v := by
  induction t with
  | nil => simp [tins, tget]
  | cons e r ih =>
    by_cases g : k < e.1
    · simp [tins, g, tget]
    · have := h e (by simp)
      simpa [tins, g, tget, this] using ih fun e' he => h e' (by simp [he])

theorem tget_tins_other {α : Type} (d v : α) (t : Tab α) (k j : Nat) (h : j ≠ k) : tget d (tins k v t) j = tget d t j := by
  induction t with
  | nil => simp [tins, tget, Ne.symm h]
  | cons e r ih =>
    by_cases g : k < e.1
    · simp [tins, g, tget, Ne.symm h]
    · by_cases g2 : e.1 = j
      · subst g2; simp [tins, g, tget]
      · simpa [tins, g, tget, g2] using ih

/-- A key reads as the value last written to it. -/
@[simp] theorem tget_tset_same {α : Type} [DecidableEq α] (d v : α) (t : Tab α) (k : Nat) : tget d (tset d t k v) k = v := by
  unfold tset
  split
  · next h => rw [tget_tdel_same, h]
  · refine tget_tins_same _ _ _ _ fun e he => ?_
    simp [tdel] at he
    exact he.2

/-- Writing one key leaves every other as it was. -/
theorem tget_tset_other {α : Type} [DecidableEq α] (d v : α) (t : Tab α) (k j : Nat) (h : j ≠ k) :
    tget d (tset d t k v) j = tget d t j := by
  unfold tset
  split
  · exact tget_tdel_other _ _ _ _ h
  · rw [tget_tins_other _ _ _ _ _ h, tget_tdel_other _ _ _ _ h]

/-- Of two writes of one key the later counts. -/
theorem tset_tset {α : Type} [DecidableEq α] (d : α) (t : Tab α) (k : Nat) (v w : α) : tset d (tset d t k v) k w = tset d t k w := by
  have twice : ∀ t : Tab α, tdel (tdel t k) k = tdel t k := fun t => by simp [tdel, List.filter_filter]
  have ins : ∀ t : Tab α, tdel (tins k v t) k = tdel t k := fun t => by
    induction t with
    | nil => simp [tins, tdel]
    | cons e r ih =>
      unfold tins; split
      · simp [tdel]
      · simp only [tdel, List.filter_cons] at *; split <;> simp [ih]
  have e : tdel (tset d t k v) k = tdel t k := by
    unfold tset; split
    · exact twice t
    · rw [ins, twice]
  show (if w = d then tdel (tset d t k v) k else tins k w (tdel (tset d t k v) k)) = _
  rw [e]; rfl

@[simp] theorem tget_tupd_same {α : Type} [DecidableEq α] (d : α) (t : Tab α) (k : Nat) (f : α → α) :
    tget d (tupd d t k f) k = f (tget d t k) := tget_tset_same ..

theorem tget_tupd_other {α : Type} [DecidableEq α] (d : α) (t : Tab α) (k j : Nat) (f : α → α) (h : j ≠ k) :
    tget d (tupd d t k f) j = tget d t j := tget_tset_other _ _ _ _ _ h

/-! ## Sorted lists of cells -/

/-- Every key lies above the bound. -/
theorem tsorted_some {α : Type} (l : Nat) (t : Tab α) : tsorted (some l) t = true ↔ tsorted none t = true ∧ ∀ e ∈ t, l < e.1 := by
  induction t generalizing l with
  | nil => simp [tsorted]
  | cons e r ih =>
    simp only [tsorted, Bool.and_eq_true, decide_eq_true_eq, Bool.true_and, List.mem_cons, forall_eq_or_imp, ih e.1]
    constructor
    · rintro ⟨h, g, k⟩
      exact ⟨⟨g, k⟩, h, fun x hx => Nat.lt_trans h (k x hx)⟩
    · rintro ⟨⟨g, k⟩, h, -⟩
      exact ⟨h, g, k⟩

theorem tsorted_cons {α : Type} (e : Nat × α) (t : Tab α) :
    tsorted none (e :: t) = true ↔ tsorted none t = true ∧ ∀ x ∈ t, e.1 < x.1 := by
  simpa [tsorted] using tsorted_some e.1 t

theorem tsorted_filter {α : Type} (p : Nat × α → Bool) (t : Tab α) (h : tsorted none t = true) : tsorted none (t.filter p) = true := by
  induction t with
  | nil => rfl
  | cons e r ih =>
    rw [tsorted_cons] at h
    by_cases g : p e
    · simp only [List.filter_cons, g, if_true, tsorted_cons]
      exact ⟨ih h.1, fun x hx => h.2 x (List.mem_filter.1 hx).1⟩
    · simpa [g] using ih h.1

theorem tsorted_append {α : Type} (a b : Tab α) (ha : tsorted none a = true) (hb : tsorted none b = true)
    (h : ∀ x ∈ a, ∀ y ∈ b, x.1 < y.1) : tsorted none (a ++ b) = true := by
  induction a with
  | nil => simpa
  | cons e r ih =>
    rw [tsorted_cons] at ha
    rw [List.cons_append, tsorted_cons]
    refine ⟨ih ha.1 fun x hx => h x (by simp [hx]), fun x hx => ?_⟩
    rcases List.mem_append.1 hx with h1 | h1
    · exact ha.2 x h1
    · exact h e (by simp) x h1

theorem tsorted_map {α : Type} (t : Tab α) (f : Nat → Nat) (h : tsorted none t = true)
    (hf : ∀ x ∈ t, ∀ y ∈ t, x.1 < y.1 → f x.1 < f y.1) : tsorted none (t.map fun e => (f e.1, e.2)) = true := by
  induction t with
  | nil => rfl
  | cons e r ih =>
    rw [tsorted_cons] at h
    simp only [List.map_cons, tsorted_cons]
    refine ⟨ih h.1 fun x hx y hy => hf x (by simp [hx]) y (by simp [hy]), fun x hx => ?_⟩
    obtain ⟨y, hy, rfl⟩ := List.mem_map.1 hx
    exact hf e (by simp) y (by simp [hy]) (h.2 y hy)

/-- The cells of a run of bytes lie in its range, rise and are not zero. -/
theorem cellsOf_spec (bs : Bytes) (a : Nat) :
    tsorted none (cellsOf a bs) = true ∧ ∀ e ∈ cellsOf a bs, a ≤ e.1 ∧ e.1 < a + bs.length ∧ e.2 ≠ 0 := by
  induction bs generalizing a with
  | nil => simp [cellsOf, tsorted]
  | cons b r ih =>
    have h := ih (a + 1)
    by_cases g : b = 0
    · simp only [cellsOf, g, if_true, List.length_cons]
      refine ⟨h.1, fun e he => ?_⟩
      have := h.2 e he
      exact ⟨by omega, by omega, this.2.2⟩
    · simp only [cellsOf, g, if_false, List.length_cons, tsorted_cons, List.mem_cons, forall_eq_or_imp]
      refine ⟨⟨h.1, fun e he => ?_⟩, ⟨Nat.le_refl _, by omega, g⟩, fun e he => ?_⟩
      · have := h.2 e he; omega
      · have := h.2 e he
        exact ⟨by omega, by omega, this.2.2⟩

/-- A splice of sorted cells is sorted, and holds the old cells outside the range and the new ones. -/
theorem splice_spec (m mid : Mem) (a n : Nat) (hm : tsorted none m = true) (hs : tsorted none mid = true)
    (hr : ∀ e ∈ mid, a ≤ e.1 ∧ e.1 < a + n) :
    tsorted none (splice m a n mid) = true ∧
      ∀ e, e ∈ splice m a n mid ↔ (e ∈ m ∧ (e.1 < a ∨ a + n ≤ e.1)) ∨ e ∈ mid := by
  refine ⟨?_, fun e => ?_⟩
  · refine tsorted_append _ _ (tsorted_append _ _ (tsorted_filter _ _ hm) hs ?_) (tsorted_filter _ _ hm) ?_
    · intro x hx y hy
      have h1 := (List.mem_filter.1 hx).2
      have h2 := hr y hy
      simp at h1; omega
    · intro x hx y hy
      have h2 := (List.mem_filter.1 hy).2
      simp at h2
      rcases List.mem_append.1 hx with h | h
      · have h1 := (List.mem_filter.1 h).2
        simp at h1; omega
      · have := hr x h; omega
  · simp only [splice, List.mem_append, List.mem_filter, decide_eq_true_eq]
    constructor
    · rintro ((h | h) | h)
      · exact .inl ⟨h.1, .inl h.2⟩
      · exact .inr h
      · exact .inl ⟨h.1, .inr h.2⟩
    · rintro (⟨h, g | g⟩ | h)
      · exact .inl (.inl ⟨h, g⟩)
      · exact .inr ⟨h, g⟩
      · exact .inl (.inr h)

/-! ## Undefined ranges -/

theorem spanAt_none (l : List Span) (a : Nat) : spanAt l a = none ↔ ∀ s ∈ l, ¬ (s.lo ≤ a ∧ a < s.hi) := by
  simp [spanAt, List.find?_eq_none]

/-- Punching a hole leaves no range inside it and keeps the ranges outside. -/
theorem spanAt_punch (l : List Span) (lo hi a : Nat) :
    spanAt (punch lo hi l) a = none ↔ (lo ≤ a ∧ a < hi) ∨ spanAt l a = none := by
  rw [spanAt_none, spanAt_none]
  constructor
  · intro h
    by_cases g : lo ≤ a ∧ a < hi
    · exact .inl g
    · refine .inr fun s hs hc => ?_
      have h1 := h ⟨s.lo, min s.hi lo, s.stamp⟩
      have h2 := h ⟨max s.lo hi, s.hi, s.stamp⟩
      simp only [punch, List.mem_flatMap, List.mem_append] at h1 h2
      by_cases g1 : a < lo
      · refine h1 ⟨s, hs, .inl ?_⟩ (by omega)
        rw [if_pos (by omega)]; simp
      · refine h2 ⟨s, hs, .inr ?_⟩ (by omega)
        rw [if_pos (by omega)]; simp
  · rintro (g | h) s hs hc
    · simp only [punch, List.mem_flatMap, List.mem_append] at hs
      obtain ⟨r, -, h1 | h1⟩ := hs <;> split at h1 <;> simp at h1 <;> subst h1 <;> simp only at hc <;> omega
    · simp only [punch, List.mem_flatMap, List.mem_append] at hs
      obtain ⟨r, hr, h1 | h1⟩ := hs <;> split at h1 <;> simp at h1 <;> subst h1 <;> simp only at hc <;>
        exact h r hr (by omega)

/-! ## The canonical form of a memory -/

/-- The canonical form, as a proposition. -/
theorem Store.wf_iff (s : Store) :
    s.wf = true ↔ tsorted none s.cells = true ∧ ∀ e ∈ s.cells, e.2 ≠ 0 ∧ spanAt s.undef e.1 = none := by
  simp [Store.wf, List.all_eq_true, Option.isNone_iff_eq_none]

/-- Writing bytes keeps the canonical form. -/
@[simp] theorem Store.write_wf (s : Store) (a : Nat) (bs : Bytes) (h : s.wf = true) : (s.write a bs).wf = true := by
  rw [Store.wf_iff] at h ⊢
  have hc := cellsOf_spec bs a
  have hs := splice_spec s.cells (cellsOf a bs) a bs.length h.1 hc.1 fun e he => ⟨(hc.2 e he).1, (hc.2 e he).2.1⟩
  refine ⟨hs.1, fun e he => ?_⟩
  rcases (hs.2 e).1 he with ⟨g, o⟩ | g
  · exact ⟨(h.2 e g).1, (spanAt_punch _ _ _ _).2 (.inr (h.2 e g).2)⟩
  · have := hc.2 e g
    exact ⟨this.2.2, (spanAt_punch _ _ _ _).2 (.inl ⟨this.1, this.2.1⟩)⟩

/-- Giving a range undefined contents keeps the canonical form. -/
@[simp] theorem Store.blur_wf (s : Store) (a n stamp : Nat) (h : s.wf = true) : (s.blur a n stamp).wf = true := by
  unfold Store.blur
  split
  · exact h
  · rw [Store.wf_iff] at h ⊢
    have hs := splice_spec s.cells [] a n h.1 rfl (by simp)
    refine ⟨hs.1, fun e he => ?_⟩
    rcases (hs.2 e).1 he with ⟨g, o⟩ | g
    · refine ⟨(h.2 e g).1, ?_⟩
      have := (spanAt_punch s.undef a (a + n) e.1).2 (.inr (h.2 e g).2)
      rw [spanAt_none] at this ⊢
      intro r hr
      rcases List.mem_cons.1 hr with rfl | hr
      · simp only; omega
      · exact this r hr
    · simp at g

/-- A piece lies in its range, and its cells and ranges keep apart. -/
theorem Store.cut_wf (s : Store) (a n b : Nat) (h : s.wf = true) :
    (s.cut a n b).wf = true ∧ (∀ e ∈ (s.cut a n b).cells, b ≤ e.1 ∧ e.1 < b + n) ∧
      ∀ r ∈ (s.cut a n b).undef, b ≤ r.lo ∧ r.hi ≤ b + n := by
  rw [Store.wf_iff] at h
  refine ⟨?_, ?_, ?_⟩
  · rw [Store.wf_iff]
    refine ⟨tsorted_map _ (fun k => k - a + b) (tsorted_filter _ _ h.1) ?_, fun e he => ?_⟩
    · intro x hx y hy hlt
      have h1 := (List.mem_filter.1 hx).2
      have h2 := (List.mem_filter.1 hy).2
      simp at h1 h2 ⊢; omega
    · obtain ⟨x, hx, rfl⟩ := List.mem_map.1 he
      have hx' := List.mem_filter.1 hx
      have hr := hx'.2
      simp at hr
      have hh := h.2 x hx'.1
      refine ⟨hh.1, ?_⟩
      rw [spanAt_none] at *
      intro r hr'
      simp only [Store.cut, List.mem_filterMap] at hr'
      obtain ⟨q, hq, hq2⟩ := hr'
      split at hq2 <;> simp at hq2
      subst hq2
      have := hh.2 q hq
      simp only; omega
  · intro e he
    obtain ⟨x, hx, rfl⟩ := List.mem_map.1 he
    have hr := (List.mem_filter.1 hx).2
    simp at hr ⊢; omega
  · intro r hr
    simp only [Store.cut, List.mem_filterMap] at hr
    obtain ⟨q, hq, hq2⟩ := hr
    split at hq2 <;> simp at hq2
    subst hq2
    simp only; omega

/-- Overlaying a piece that lies in its range keeps the canonical form. -/
theorem Store.paste_wf (s p : Store) (b n : Nat) (h : s.wf = true) (hp : p.wf = true)
    (hc : ∀ e ∈ p.cells, b ≤ e.1 ∧ e.1 < b + n) (hu : ∀ r ∈ p.undef, b ≤ r.lo ∧ r.hi ≤ b + n) : (s.paste b n p).wf = true := by
  rw [Store.wf_iff] at h hp ⊢
  have hs := splice_spec s.cells p.cells b n h.1 hp.1 hc
  refine ⟨hs.1, fun e he => ?_⟩
  have key : ∀ a, spanAt (p.undef ++ punch b (b + n) s.undef) a = none ↔
      spanAt p.undef a = none ∧ spanAt (punch b (b + n) s.undef) a = none := by
    intro a; simp only [spanAt_none, List.mem_append]
    exact ⟨fun h => ⟨fun s hs => h s (.inl hs), fun s hs => h s (.inr hs)⟩, fun h s hs => hs.elim (h.1 s) (h.2 s)⟩
  rcases (hs.2 e).1 he with ⟨g, o⟩ | g
  · refine ⟨(h.2 e g).1, (key _).2 ⟨(spanAt_none _ _).2 fun r hr => ?_, (spanAt_punch _ _ _ _).2 (.inr (h.2 e g).2)⟩⟩
    have := hu r hr; omega
  · have := hc e g
    exact ⟨(hp.2 e g).1, (key _).2 ⟨(hp.2 e g).2, (spanAt_punch _ _ _ _).2 (.inl this)⟩⟩

/-! ## A read after a write -/

theorem lookup_append {α : Type} (a b : Tab α) (k : Nat) :
    List.lookup k (a ++ b) = (List.lookup k a).or (List.lookup k b) := by
  induction a with
  | nil => simp
  | cons e r ih =>
    obtain ⟨x, v⟩ := e
    simp only [List.cons_append, List.lookup_cons]
    split <;> simp [ih]

theorem lookup_filter_key {α : Type} (p : Nat → Bool) (t : Tab α) (k : Nat) :
    List.lookup k (t.filter fun e => p e.1) = if p k then List.lookup k t else none := by
  induction t with
  | nil => simp
  | cons e r ih =>
    obtain ⟨x, v⟩ := e
    by_cases h : k = x
    · subst h
      by_cases g : p k <;> simp [g, ih]
    · have h' : (k == x) = false := by simpa using h
      by_cases g : p x <;> simp [g, ih, List.lookup_cons, h']

theorem lookup_cellsOf (bs : Bytes) (a k : Nat) :
    (List.lookup k (cellsOf a bs)).getD 0 = if a ≤ k ∧ k < a + bs.length then bs.getD (k - a) 0 else 0 := by
  induction bs generalizing a with
  | nil => simp [cellsOf]
  | cons b r ih =>
    have e := ih (a + 1)
    by_cases g : b = 0
    · simp only [cellsOf, g, if_true, e, List.length_cons]
      by_cases h : k = a
      · subst h; rw [if_neg (by omega)]; simp
      · split
        · rw [if_pos (by omega), show k - a = k - (a + 1) + 1 by omega]; simp
        · rw [if_neg (by omega)]
    · simp only [cellsOf, g, if_false, List.lookup_cons, List.length_cons]
      by_cases h : k = a
      · subst h; simp
      · have h' : (k == a) = false := by simpa using h
        simp only [h', e]
        split
        · rw [if_pos (by omega), show k - a = k - (a + 1) + 1 by omega]; simp
        · rw [if_neg (by omega)]

theorem lookup_cellsOf_none (bs : Bytes) (a k : Nat) (h : ¬(a ≤ k ∧ k < a + bs.length)) : List.lookup k (cellsOf a bs) = none := by
  induction bs generalizing a with
  | nil => rfl
  | cons b r ih =>
    have h1 : ¬(a + 1 ≤ k ∧ k < a + 1 + r.length) := by simp only [List.length_cons] at h; omega
    have h2 : (k == a) = false := by simp only [List.length_cons] at h; simp; omega
    unfold cellsOf; split
    · exact ih _ h1
    · rw [List.lookup_cons, h2]; exact ih _ h1

theorem find_none (lo hi t k : Nat) (p : Prop) [Decidable p] (h : ¬(p ∧ lo ≤ k ∧ k < hi)) :
    (if p then [(⟨lo, hi, t⟩ : Span)] else []).find? (fun s => decide (s.lo ≤ k ∧ k < s.hi)) = none := by
  split
  · next g => simp only [List.find?_cons]; rw [show decide (lo ≤ k ∧ k < hi) = false from decide_eq_false fun e => h ⟨g, e⟩]; rfl
  · rfl

theorem find_some (lo hi t k : Nat) (p : Prop) [Decidable p] (hp : p) (h : lo ≤ k ∧ k < hi) :
    (if p then [(⟨lo, hi, t⟩ : Span)] else []).find? (fun s => decide (s.lo ≤ k ∧ k < s.hi)) = some ⟨lo, hi, t⟩ := by
  rw [if_pos hp, List.find?_cons]; rw [show decide (lo ≤ k ∧ k < hi) = true by simpa using h]

theorem stamp_punch (lo hi k : Nat) (l : List Span) :
    (spanAt (punch lo hi l) k).map Span.stamp = if lo ≤ k ∧ k < hi then none else (spanAt l k).map Span.stamp := by
  induction l with
  | nil => simp [punch, spanAt]
  | cons s r ih =>
    unfold punch spanAt at ih ⊢
    rw [List.flatMap_cons, List.find?_append, List.find?_append, List.find?_cons]
    by_cases h : lo ≤ k ∧ k < hi
    · rw [find_none _ _ _ _ _ (by omega), find_none _ _ _ _ _ (by omega)]
      simp only [Option.none_or]; rw [ih, if_pos h, if_pos h]
    · rw [if_neg h] at ih ⊢
      by_cases g : s.lo ≤ k ∧ k < s.hi
      · have g' : decide (s.lo ≤ k ∧ k < s.hi) = true := by simpa using g
        rw [g']
        by_cases b : k < lo
        · rw [find_some _ _ _ _ _ (by omega) (by omega)]; rfl
        · rw [find_none _ _ _ _ _ (by omega), find_some _ _ _ _ _ (by omega) (by omega)]; rfl
      · have g' : decide (s.lo ≤ k ∧ k < s.hi) = false := by simpa using g
        rw [find_none _ _ _ _ _ (by omega), find_none _ _ _ _ _ (by omega), g']; simp only [Option.none_or]; exact ih

theorem unlisted_stamp (s : Store) (k : Nat) :
    s.unlisted k = match (spanAt s.undef k).map Span.stamp with | none => 0 | some t => Config.freeByte t k := by
  unfold Store.unlisted; cases spanAt s.undef k <;> rfl

/-- A byte written reads as written; every other reads as before. -/
theorem Store.read_write (s : Store) (a : Nat) (bs : Bytes) (k : Nat) :
    (s.write a bs).read k = if a ≤ k ∧ k < a + bs.length then bs.getD (k - a) 0 else s.read k := by
  have hl : List.lookup k (s.write a bs).cells = if a ≤ k ∧ k < a + bs.length then List.lookup k (cellsOf a bs) else List.lookup k s.cells := by
    show List.lookup k (splice s.cells a bs.length (cellsOf a bs)) = _
    unfold splice
    rw [lookup_append, lookup_append, lookup_filter_key (fun x => decide (x < a)), lookup_filter_key (fun x => decide (a + bs.length ≤ x))]
    by_cases h : a ≤ k ∧ k < a + bs.length
    · rw [if_pos h]; simp [show ¬k < a by omega, show ¬a + bs.length ≤ k by omega]
    · rw [if_neg h, lookup_cellsOf_none _ _ _ h]
      by_cases g : k < a
      · simp [g, show ¬a + bs.length ≤ k by omega]
      · simp [g, show a + bs.length ≤ k by omega]
  have hu : (s.write a bs).unlisted k = if a ≤ k ∧ k < a + bs.length then 0 else s.unlisted k := by
    rw [unlisted_stamp, unlisted_stamp]
    show (match (spanAt (punch a (a + bs.length) s.undef) k).map Span.stamp with | none => 0 | some t => Config.freeByte t k) = _
    rw [stamp_punch]
    by_cases h : a ≤ k ∧ k < a + bs.length
    · rw [if_pos h, if_pos h]
    · rw [if_neg h, if_neg h]
  unfold Store.read
  rw [hl, hu]
  by_cases h : a ≤ k ∧ k < a + bs.length
  · simp only [if_pos h]
    have := lookup_cellsOf bs a k
    rw [if_pos h] at this
    rw [← this]
    cases List.lookup k (cellsOf a bs) <;> rfl
  · simp only [if_neg h]

end Sys2Proof.Machine
end

