-- ==== Sys2Proof/Laws/MemBase.lean ====
section
/-! SUPPORT. The canonical form of the memories through single stores, choices and folds. -/
namespace Sys2Proof.Machine

theorem Memory.wf_iff (m : Memory) :
    m.wf = true ↔ m.sram0.wf = true ∧ m.sram1.wf = true ∧ m.sram2.wf = true ∧ m.sram3.wf = true ∧ m.hbm.wf = true ∧
      m.system.wf = true := by
  simp [Memory.wf, and_assoc]

@[simp] theorem Memory.zeroed_wf : Memory.zeroed.wf = true := by decide

/-- Every store of canonical memories is canonical. -/
theorem Memory.store_wf (m : Memory) (p : Spc) (h : m.wf = true) : (m.store p).wf = true := by
  obtain ⟨a, b, c, d, e, f⟩ := (Memory.wf_iff m).1 h
  unfold Memory.store; split <;> assumption

/-- Replacing a store by a canonical one keeps the memories canonical. -/
@[simp] theorem Memory.setStore_wf (m : Memory) (p : Spc) (s : Store) (h : m.wf = true) (hs : s.wf = true) : (m.setStore p s).wf = true := by
  obtain ⟨a, b, c, d, e, f⟩ := (Memory.wf_iff m).1 h
  rw [Memory.wf_iff]; unfold Memory.setStore; split <;> exact ⟨by assumption, by assumption, by assumption, by assumption, by assumption, by assumption⟩

/-- The canonical form looks at bytes and undefined ranges only. -/
theorem Store.wf_congr (s t : Store) (hc : t.cells = s.cells) (hu : t.undef = s.undef) : t.wf = s.wf := by
  simp [Store.wf, hc, hu]

@[simp] theorem Store.wf_mk (s : Store) (a b c d e : List Nat) : Store.wf ⟨s.cells, s.undef, a, b, c, d, e⟩ = s.wf := rfl

@[simp] theorem Memory.wf_mk (m : Memory) (a : Tab (List Nat)) (b : Tab Nat) :
    Memory.wf ⟨m.sram0, m.sram1, m.sram2, m.sram3, m.hbm, a, m.system, b⟩ = m.wf := rfl

@[simp] theorem Ctx.store_wf (x : Ctx) (p : Spc) (h : x.chip.mem.wf = true) : (x.store p).wf = true := Memory.store_wf _ _ h

@[simp] theorem Memory.ite_wf (p : Prop) [Decidable p] (m n : Memory) (hm : m.wf = true) (hn : n.wf = true) :
    (if p then m else n).wf = true := by split <;> assumption

@[simp] theorem Ctx.foldl_wf {α : Type} (g : Ctx → α → Ctx) (hg : ∀ x a, x.chip.mem.wf = true → (g x a).chip.mem.wf = true) (l : List α)
    (x : Ctx) (h : x.chip.mem.wf = true) : (l.foldl g x).chip.mem.wf = true := by
  induction l generalizing x with
  | nil => exact h
  | cons a r ih => exact ih _ (hg _ _ h)

@[simp] theorem Ctx.pair_wf {α β : Type} (g : Ctx × β → α → Ctx × β)
    (hg : ∀ a e, a.1.chip.mem.wf = true → (g a e).1.chip.mem.wf = true) (l : List α) (a : Ctx × β) (h : a.1.chip.mem.wf = true) :
    (l.foldl g a).1.chip.mem.wf = true := by
  induction l generalizing a with
  | nil => exact h
  | cons e r ih => exact ih _ (hg _ _ h)

theorem Ctx.onlyIf_wf (p : Bool) (g : Ctx → Ctx) (x : Ctx) (hg : (g x).chip.mem.wf = true) (h : x.chip.mem.wf = true) :
    (onlyIf p g x).chip.mem.wf = true := by
  unfold onlyIf; split <;> assumption

end Sys2Proof.Machine
end

