-- ==== Sys2Proof/Laws/MemAdmit.lean ====
section
/-! SUPPORT. The operations of Machine/Admit.lean keep the canonical form of the memories. -/
namespace Sys2Proof.Machine

@[simp] theorem Ctx.run_wf (x : Ctx) (id : Nat) (op : Nat) (sub : Cmd → Bool) (f : Cmd → Ctx → Ctx)
    (hf : ∀ y0 y1, y1.chip.mem.wf = true → (f y0 y1).chip.mem.wf = true) (h : x.chip.mem.wf = true) :
    (x.run id op sub f).chip.mem.wf = true := by
  unfold Ctx.run; (try dsimp only)
  repeat' (first | with_reducible assumption | intro _ | with_reducible apply hf | simp | split)

end Sys2Proof.Machine
end

