-- ==== Sys2Proof/Laws/MemSteward.lean ====
section
/-! SUPPORT. The operations of Machine/Steward.lean keep the canonical form of the memories. -/
namespace Sys2Proof.Machine

@[simp] theorem Ctx.restLink_wf (x : Ctx) (h : x.chip.mem.wf = true) :
    (x.restLink).chip.mem.wf = true := by
  unfold Ctx.restLink; (try dsimp only)
  repeat' (first | with_reducible assumption | intro _ | simp | split)

@[simp] theorem Ctx.cfgServe_wf (x : Ctx) (bootRom : Bool) (z1 : CfgReq) (h : x.chip.mem.wf = true) :
    (x.cfgServe bootRom z1).chip.mem.wf = true := by
  unfold Ctx.cfgServe; (try dsimp only)
  repeat' (first | with_reducible assumption | intro _ | with_reducible apply Ctx.restLink_wf | simp | split)

@[simp] theorem Ctx.cfgRequest_wf (x : Ctx) (req : CfgReq) (h : x.chip.mem.wf = true) :
    (x.cfgRequest req).chip.mem.wf = true := by
  unfold Ctx.cfgRequest; (try dsimp only)
  repeat' (first | with_reducible assumption | intro _ | with_reducible apply Ctx.cfgServe_wf | simp | split)

@[simp] theorem Ctx.advance_wf (x : Ctx) (q : Nat) (h : x.chip.mem.wf = true) :
    (x.advance q).chip.mem.wf = true := by
  unfold Ctx.advance; (try dsimp only)
  repeat' (first | with_reducible assumption | intro _ | simp | split)

@[simp] theorem Ctx.fetchEntry_wf (x : Ctx) (q : Nat) (e : Bytes) (h : x.chip.mem.wf = true) :
    (x.fetchEntry q e).chip.mem.wf = true := by
  unfold Ctx.fetchEntry; (try dsimp only)
  repeat' (first | with_reducible assumption | intro _ | with_reducible apply Ctx.advance_wf | simp | split)

@[simp] theorem Ctx.fetchError_wf (x : Ctx) (q : Nat) (h : x.chip.mem.wf = true) :
    (x.fetchError q).chip.mem.wf = true := by
  unfold Ctx.fetchError; (try dsimp only)
  repeat' (first | with_reducible assumption | intro _ | with_reducible apply Ctx.advance_wf | simp | split)

end Sys2Proof.Machine
end

