-- ==== Sys2Proof/Laws/MemMemOps.lean ====
section
/-! SUPPORT. The operations of Machine/MemOps.lean keep the canonical form of the memories. -/
namespace Sys2Proof.Machine

@[simp] theorem Store.poisoned_wf (s : Store) (g : Nat) : (s.poisoned g).wf = s.wf := rfl

@[simp] theorem Store.poisoned_cells (s : Store) (g : Nat) : (s.poisoned g).cells = s.cells ∧ (s.poisoned g).undef = s.undef := ⟨rfl, rfl⟩

@[simp] theorem Ctx.setStore_wf (x : Ctx) (p : Spc) (s : Store) (h : x.chip.mem.wf = true) (hs : s.wf = true) :
    (x.setStore p s).chip.mem.wf = true := by
  unfold Ctx.setStore; simp [h, hs]

@[simp] theorem Ctx.ceWindow_wf (x : Ctx) (p : Spc) (a : Nat) (h : x.chip.mem.wf = true) :
    (x.ceWindow p a).chip.mem.wf = true := by
  unfold Ctx.ceWindow; dsimp only
  repeat' (first | with_reducible assumption | intro _ | simp | split)

@[simp] theorem Ctx.corrected_wf (x : Ctx) (p : Spc) (a : Nat) (h : x.chip.mem.wf = true) :
    (x.corrected p a).chip.mem.wf = true := by
  unfold Ctx.corrected; dsimp only
  repeat' (first | with_reducible assumption | intro _ | with_reducible apply Ctx.ceWindow_wf | simp | split)

@[simp] theorem Ctx.foundUe_wf (x : Ctx) (p : Spc) (super : Option Nat) (a : Nat) (h : x.chip.mem.wf = true) :
    (x.foundUe p super a).chip.mem.wf = true := by
  unfold Ctx.foundUe; dsimp only
  repeat' (first | with_reducible assumption | intro _ | with_reducible apply Ctx.setStore_wf | rw [Store.poisoned_wf] | with_reducible apply Ctx.store_wf | with_reducible apply Memory.store_wf | with_reducible apply Memory.setStore_wf | with_reducible apply Store.write_wf | with_reducible apply Store.blur_wf | simp only [Store.wf_mk] | simp | split)

@[simp] theorem Ctx.onDieRead_wf (x : Ctx) (p : Spc) (a : Nat) (h : x.chip.mem.wf = true) :
    (x.onDieRead p a).chip.mem.wf = true := by
  unfold Ctx.onDieRead; (try dsimp only)
  repeat' (first | with_reducible assumption | intro _ | with_reducible apply Ctx.ceWindow_wf | simp | split)

@[simp] theorem Ctx.inspect_wf (x : Ctx) (p : Spc) (super : Option Nat) (a : Nat) (n : Nat) (h : x.chip.mem.wf = true) :
    (x.inspect p super a n).1.chip.mem.wf = true := by
  unfold Ctx.inspect; (try dsimp only)
  repeat' (first | with_reducible assumption | intro _ | with_reducible apply Ctx.setStore_wf | with_reducible apply Ctx.onDieRead_wf | with_reducible apply Ctx.foundUe_wf | with_reducible apply Ctx.foldl_wf | with_reducible apply Ctx.pair_wf | rw [Store.poisoned_wf] | with_reducible apply Ctx.store_wf | with_reducible apply Memory.store_wf | with_reducible apply Memory.setStore_wf | with_reducible apply Store.write_wf | with_reducible apply Store.blur_wf | simp only [Store.wf_mk] | simp | split)

@[simp] theorem Ctx.overwrite_wf (x : Ctx) (p : Spc) (super : Option Nat) (a : Nat) (n : Nat) (f : Store → Store)
    (hf : ∀ s, s.wf = true → (f s).wf = true) (h : x.chip.mem.wf = true) :
    (x.overwrite p super a n f).chip.mem.wf = true := by
  unfold Ctx.overwrite; (try dsimp only)
  repeat' (first | with_reducible assumption | intro _ | with_reducible apply hf | with_reducible apply Ctx.setStore_wf | with_reducible apply Ctx.onDieRead_wf | with_reducible apply Ctx.corrected_wf | with_reducible apply Ctx.foundUe_wf | with_reducible apply Ctx.foldl_wf | with_reducible apply Ctx.pair_wf | rw [Store.poisoned_wf] | with_reducible apply Ctx.store_wf | with_reducible apply Memory.store_wf | with_reducible apply Memory.setStore_wf | with_reducible apply Store.write_wf | with_reducible apply Store.blur_wf | simp only [Store.wf_mk] | simp | split)

@[simp] theorem Ctx.put_wf (x : Ctx) (p : Spc) (super : Option Nat) (a : Nat) (bs : Bytes) (h : x.chip.mem.wf = true) :
    (x.put p super a bs).chip.mem.wf = true := by
  unfold Ctx.put; (try dsimp only); (repeat' split) <;> simp +contextual [h]

@[simp] theorem Ctx.putOpen_wf (x : Ctx) (p : Spc) (super : Option Nat) (a : Nat) (n : Nat) (h : x.chip.mem.wf = true) :
    (x.putOpen p super a n).chip.mem.wf = true := by
  unfold Ctx.putOpen; (try dsimp only); (repeat' split) <;> simp +contextual [h]

@[simp] theorem Ctx.poisonGranule_wf (x : Ctx) (p : Spc) (g : Nat) (h : x.chip.mem.wf = true) :
    (x.poisonGranule p g).chip.mem.wf = true := by
  unfold Ctx.poisonGranule
  repeat' (first | with_reducible assumption | intro _ | with_reducible apply Ctx.setStore_wf | rw [Store.poisoned_wf] | with_reducible apply Ctx.store_wf | with_reducible apply Memory.store_wf | with_reducible apply Memory.setStore_wf | with_reducible apply Store.write_wf | with_reducible apply Store.blur_wf | simp only [Store.wf_mk] | simp | split)

@[simp] theorem Ctx.poisonRange_wf (x : Ctx) (p : Spc) (a : Nat) (n : Nat) (h : x.chip.mem.wf = true) :
    (x.poisonRange p a n).chip.mem.wf = true := by
  unfold Ctx.poisonRange; (try dsimp only); (repeat' split) <;> simp +contextual [h]

@[simp] theorem Ctx.blur_wf (x : Ctx) (p : Spc) (a : Nat) (n : Nat) (h : x.chip.mem.wf = true) :
    (x.blur p a n).chip.mem.wf = true := by
  unfold Ctx.blur; dsimp only
  repeat' (first | with_reducible assumption | intro _ | with_reducible apply Ctx.setStore_wf | with_reducible apply Ctx.store_wf | with_reducible apply Memory.store_wf | with_reducible apply Memory.setStore_wf | with_reducible apply Store.write_wf | with_reducible apply Store.blur_wf | simp only [Store.wf_mk] | simp | split)

@[simp] theorem Ctx.readRing_wf (x : Ctx) (n : Nat) (h : x.chip.mem.wf = true) :
    (x.readRing n).1.chip.mem.wf = true := by
  unfold Ctx.readRing; (try dsimp only)
  repeat' (first | with_reducible assumption | intro _ | with_reducible apply Ctx.inspect_wf | simp | split)

@[simp] theorem Ctx.scrubOn_wf (x : Ctx) (p : Spc) (g : Nat) (h : x.chip.mem.wf = true) :
    (x.scrubOn p g).chip.mem.wf = true := by
  unfold Ctx.scrubOn; (try dsimp only)
  repeat' (first | with_reducible assumption | intro _ | rw [Store.poisoned_wf] | with_reducible apply Ctx.store_wf | with_reducible apply Memory.store_wf | with_reducible apply Memory.setStore_wf | with_reducible apply Store.write_wf | with_reducible apply Store.blur_wf | simp only [Store.wf_mk] | simp | split)

@[simp] theorem Ctx.scrub_wf (x : Ctx) (p : Spc) (a : Nat) (size : Nat) (h : x.chip.mem.wf = true) :
    (x.scrub p a size).chip.mem.wf = true := by
  unfold Ctx.scrub; (try dsimp only)
  repeat' (first | with_reducible assumption | intro _ | with_reducible apply Ctx.inspect_wf | with_reducible apply Ctx.setStore_wf | with_reducible apply Ctx.corrected_wf | with_reducible apply Ctx.scrubOn_wf | with_reducible apply Ctx.foldl_wf | with_reducible apply Ctx.pair_wf | rw [Store.poisoned_wf] | with_reducible apply Ctx.store_wf | with_reducible apply Memory.store_wf | with_reducible apply Memory.setStore_wf | with_reducible apply Store.write_wf | with_reducible apply Store.blur_wf | simp only [Store.wf_mk] | simp | split)

@[simp] theorem Ctx.writeBack_wf (x : Ctx) (p : Spc) (a : Nat) (h : x.chip.mem.wf = true) :
    (x.writeBack p a).chip.mem.wf = true := by
  unfold Ctx.writeBack; dsimp only
  repeat' (first | with_reducible assumption | intro _ | with_reducible apply Ctx.corrected_wf | with_reducible apply Ctx.setStore_wf | with_reducible apply Ctx.store_wf | with_reducible apply Memory.store_wf | with_reducible apply Memory.setStore_wf | with_reducible apply Store.write_wf | with_reducible apply Store.blur_wf | simp only [Store.wf_mk] | simp | split)

@[simp] theorem Ctx.bar2Read_wf (x : Ctx) (off : Nat) (len : Nat) (h : x.chip.mem.wf = true) :
    (x.bar2Read off len).chip.mem.wf = true := by
  unfold Ctx.bar2Read; dsimp only
  repeat' (first | with_reducible assumption | intro _ | with_reducible apply Ctx.inspect_wf | with_reducible apply Ctx.store_wf | with_reducible apply Memory.store_wf | with_reducible apply Memory.setStore_wf | with_reducible apply Store.write_wf | with_reducible apply Store.blur_wf | simp only [Store.wf_mk] | simp | split)

@[simp] theorem Ctx.bar2Write_wf (x : Ctx) (off : Nat) (data : Bytes) (h : x.chip.mem.wf = true) :
    (x.bar2Write off data).chip.mem.wf = true := by
  unfold Ctx.bar2Write; (try dsimp only); (repeat' split) <;> simp +contextual [h]

end Sys2Proof.Machine
end

