-- ==== Sys2Proof/Laws/MemStreams.lean ====
section
/-! SUPPORT. The operations of Machine/Streams.lean keep the canonical form of the memories. -/
namespace Sys2Proof.Machine

@[simp] theorem Ctx.dropRef_wf (x : Ctx) (s : Nat) (k : Nat) (h : x.chip.mem.wf = true) :
    (x.dropRef s k).chip.mem.wf = true := by
  unfold Ctx.dropRef; dsimp only
  repeat' (first | with_reducible assumption | intro _ | with_reducible apply Ctx.blur_wf | simp | split)

@[simp] theorem Ctx.cutTable_wf (x : Ctx) (s : Nat) (i : Nat) (n : Nat) (h : x.chip.mem.wf = true) :
    (x.cutTable s i n).chip.mem.wf = true := by
  unfold Ctx.cutTable; dsimp only
  repeat' (first | with_reducible assumption | intro _ | with_reducible apply Ctx.dropRef_wf | with_reducible apply Ctx.foldl_wf | with_reducible apply Ctx.pair_wf | simp | split)

@[simp] theorem Ctx.dropTent_wf (x : Ctx) (s : Nat) (i : Nat) (frames : Bool) (h : x.chip.mem.wf = true) :
    (x.dropTent s i frames).chip.mem.wf = true := by
  unfold Ctx.dropTent; dsimp only
  repeat' (first | with_reducible assumption | intro _ | with_reducible apply Ctx.cutTable_wf | simp | split)

@[simp] theorem Ctx.onStreamCmd_wf (x : Ctx) (k : Cmd) (copies : Bool) (states : List StreamState) (f : Nat → Nat → Ctx)
    (hf : ∀ y0 y1, (f y0 y1).chip.mem.wf = true) (h : x.chip.mem.wf = true) :
    (x.onStreamCmd k copies states f).chip.mem.wf = true := by
  unfold Ctx.onStreamCmd; dsimp only; (repeat' split) <;> simp_all

@[simp] theorem Ctx.streamClose_wf (x : Ctx) (k : Cmd) (h : x.chip.mem.wf = true) :
    (x.streamClose k).chip.mem.wf = true := by
  unfold Ctx.streamClose; dsimp only
  repeat' (first | with_reducible assumption | intro _ | with_reducible apply Ctx.dropTent_wf | with_reducible apply Ctx.onStreamCmd_wf | simp | split)

@[simp] theorem Ctx.streamCloseFree_wf (x : Ctx) (k : Cmd) (h : x.chip.mem.wf = true) :
    (x.streamCloseFree k).chip.mem.wf = true := by
  unfold Ctx.streamCloseFree; dsimp only
  repeat' (first | with_reducible assumption | intro _ | with_reducible apply Ctx.cutTable_wf | with_reducible apply Ctx.dropTent_wf | with_reducible apply Ctx.onStreamCmd_wf | simp | split)

@[simp] theorem Ctx.streamCancel_wf (x : Ctx) (k : Cmd) (h : x.chip.mem.wf = true) :
    (x.streamCancel k).chip.mem.wf = true := by
  unfold Ctx.streamCancel; dsimp only
  repeat' (first | with_reducible assumption | intro _ | with_reducible apply Ctx.dropTent_wf | with_reducible apply Ctx.onStreamCmd_wf | simp | split)

@[simp] theorem Ctx.frameRelease_wf (x : Ctx) (k : Cmd) (h : x.chip.mem.wf = true) :
    (x.frameRelease k).chip.mem.wf = true := by
  unfold Ctx.frameRelease; dsimp only
  repeat' (first | with_reducible assumption | intro _ | with_reducible apply Ctx.cutTable_wf | with_reducible apply Ctx.dropTent_wf | with_reducible apply Ctx.onStreamCmd_wf | simp | split)

end Sys2Proof.Machine
end

