-- ==== Sys2Proof/Laws/MemEngine.lean ====
section
/-! SUPPORT. The operations of Machine/Engine.lean keep the canonical form of the memories. -/
namespace Sys2Proof.Machine

@[simp] theorem Ctx.copyBytes_wf (x : Ctx) (super : Option Nat) (p : Spc) (a : Nat) (q : Spc) (b : Nat) (n : Nat) (h : x.chip.mem.wf = true) :
    (x.copyBytes super p a q b n).1.chip.mem.wf = true := by
  unfold Ctx.copyBytes; dsimp only
  repeat' (first | with_reducible assumption | intro _ | with_reducible apply Ctx.inspect_wf | with_reducible apply Ctx.poisonGranule_wf | with_reducible apply Ctx.put_wf | with_reducible apply Ctx.foldl_wf | with_reducible apply Ctx.pair_wf | with_reducible apply Ctx.store_wf | with_reducible apply Memory.store_wf | with_reducible apply Memory.setStore_wf | with_reducible apply Store.write_wf | with_reducible apply Store.blur_wf | simp only [Store.wf_mk] | simp | split)

end Sys2Proof.Machine
end

