-- ==== Sys2Proof/Laws/MemSteps.lean ====
section
/-! SUPPORT. The operations of Machine/Steps.lean keep the canonical form of the memories. -/
namespace Sys2Proof.Machine

@[simp] theorem Ctx.copyOnWrite_wf (x : Ctx) (s : Nat) (n : Nat) (z2 : List Nat) (h : x.chip.mem.wf = true) :
    (x.copyOnWrite s n z2).1.chip.mem.wf = true := by
  fun_induction Ctx.copyOnWrite x s n z2
  all_goals repeat' (first | with_reducible assumption | intro _ | with_reducible apply Ctx.copyBytes_wf | with_reducible apply Ctx.put_wf | with_reducible apply Ctx.dropRef_wf | simp | split | apply_assumption | simp_all)

@[simp] theorem Ctx.dispatchEntry_wf (x : Ctx) (s : Nat) (layers : Nat) (e : PlanEntry) (h : x.chip.mem.wf = true) :
    (x.dispatchEntry s layers e).1.chip.mem.wf = true := by
  unfold Ctx.dispatchEntry; dsimp only
  repeat' (first | with_reducible assumption | intro _ | with_reducible apply Ctx.copyOnWrite_wf | simp | split)

@[simp] theorem Ctx.dispatchEntries_wf (x : Ctx) (s : Nat) (layers : Nat) (z2 : List PlanEntry) (h : x.chip.mem.wf = true) :
    (x.dispatchEntries s layers z2).1.chip.mem.wf = true := by
  fun_induction Ctx.dispatchEntries x s layers z2
  all_goals repeat' (first | with_reducible assumption | intro _ | with_reducible apply Ctx.dispatchEntry_wf | simp | split | apply_assumption | simp_all)

@[simp] theorem Ctx.stepDispatch_wf (x : Ctx) (id : Nat) (h : x.chip.mem.wf = true) :
    (x.stepDispatch id).chip.mem.wf = true := by
  unfold Ctx.stepDispatch; dsimp only
  repeat' (first | with_reducible assumption | intro _ | with_reducible apply Ctx.dispatchEntries_wf | simp | split)

@[simp] theorem Ctx.errorEntry_wf (x : Ctx) (s : Nat) (verify : Bool) (e : PlanEntry) (h : x.chip.mem.wf = true) :
    (x.errorEntry s verify e).chip.mem.wf = true := by
  unfold Ctx.errorEntry; dsimp only
  repeat' (first | with_reducible assumption | intro _ | with_reducible apply Ctx.cutTable_wf | with_reducible apply Ctx.dropTent_wf | simp | split)

@[simp] theorem Ctx.errorEnd_wf (x : Ctx) (k : Cmd) (t : StepRec) (status : Nat) (r0 : Nat) (r1 : Nat) (h : x.chip.mem.wf = true) :
    (x.errorEnd k t status r0 r1).chip.mem.wf = true := by
  unfold Ctx.errorEnd; dsimp only
  repeat' (first | with_reducible assumption | intro _ | with_reducible apply Ctx.errorEntry_wf | with_reducible apply Ctx.foldl_wf | with_reducible apply Ctx.pair_wf | simp | split)

@[simp] theorem Ctx.writeSlots_wf (x : Ctx) (s : Nat) (table : List (List Nat)) (lo : Nat) (n : Nat) (h : x.chip.mem.wf = true) :
    (x.writeSlots s table lo n).chip.mem.wf = true := by
  unfold Ctx.writeSlots; (try dsimp only)
  repeat' (first | with_reducible assumption | intro _ | with_reducible apply Ctx.putOpen_wf | with_reducible apply Ctx.foldl_wf | with_reducible apply Ctx.pair_wf | simp | split)

@[simp] theorem Ctx.commitEntry_wf (x : Ctx) (t : StepRec) (g : Nat × Nat) (e : PlanEntry) (st : Staged) (h : x.chip.mem.wf = true) :
    (x.commitEntry t g e st).1.chip.mem.wf = true := by
  unfold Ctx.commitEntry; dsimp only
  repeat' (first | with_reducible assumption | intro _ | with_reducible apply Ctx.cutTable_wf | with_reducible apply Ctx.writeSlots_wf | simp | split)

@[simp] theorem Ctx.commitEntries_wf (x : Ctx) (t : StepRec) (g : Nat × Nat) (z2 : List PlanEntry) (z3 : List Staged) (h : x.chip.mem.wf = true) :
    (x.commitEntries t g z2 z3).1.chip.mem.wf = true := by
  fun_induction Ctx.commitEntries x t g z2 z3
  all_goals repeat' (first | with_reducible assumption | intro _ | with_reducible apply Ctx.commitEntry_wf | simp | split | apply_assumption | simp_all)

@[simp] theorem Ctx.commitStep_wf (x : Ctx) (k : Cmd) (t : StepRec) (staged : List Staged) (h : x.chip.mem.wf = true) :
    (x.commitStep k t staged).chip.mem.wf = true := by
  unfold Ctx.commitStep; dsimp only
  repeat' (first | with_reducible assumption | intro _ | with_reducible apply Ctx.commitEntries_wf | with_reducible apply Ctx.foldl_wf | with_reducible apply Ctx.pair_wf | simp | split)

@[simp] theorem Ctx.leaveBarrier_wf (x : Ctx) (id : Nat) (h : x.chip.mem.wf = true) :
    (x.leaveBarrier id).chip.mem.wf = true := by
  unfold Ctx.leaveBarrier; (try dsimp only); (repeat' split) <;> simp +contextual [h]

@[simp] theorem Ctx.cancelRun_wf (x : Ctx) (id : Nat) (h : x.chip.mem.wf = true) :
    (x.cancelRun id).chip.mem.wf = true := by
  unfold Ctx.cancelRun; (try dsimp only)
  repeat' (first | with_reducible assumption | intro _ | with_reducible apply Ctx.run_wf | with_reducible apply Ctx.streamCancel_wf | with_reducible apply Ctx.leaveBarrier_wf | with_reducible apply Ctx.foldl_wf | with_reducible apply Ctx.pair_wf | simp | split)

@[simp] theorem Ctx.fetch_wf (x : Ctx) (q : Nat) (e : Bytes) (h : x.chip.mem.wf = true) :
    (x.fetch q e).chip.mem.wf = true := by
  unfold Ctx.fetch; (try dsimp only)
  repeat' (first | with_reducible assumption | intro _ | with_reducible apply Ctx.fetchEntry_wf | with_reducible apply Ctx.cancelRun_wf | simp | split)

@[simp] theorem Ctx.readDescs_wf (x : Ctx) (t : StepRec) (layer : Nat) (g : Seg) (h : x.chip.mem.wf = true) :
    (x.readDescs t layer g).1.chip.mem.wf = true := by
  unfold Ctx.readDescs; dsimp only
  repeat' (first | with_reducible assumption | intro _ | with_reducible apply Ctx.inspect_wf | with_reducible apply Ctx.foldl_wf | with_reducible apply Ctx.pair_wf | with_reducible apply Ctx.store_wf | with_reducible apply Memory.store_wf | with_reducible apply Memory.setStore_wf | with_reducible apply Store.write_wf | with_reducible apply Store.blur_wf | simp only [Store.wf_mk] | simp | split)

@[simp] theorem Ctx.layerWork_wf (x : Ctx) (t : StepRec) (m : Model) (layer : Nat) (h : x.chip.mem.wf = true) :
    (x.layerWork t m layer).1.chip.mem.wf = true := by
  unfold Ctx.layerWork; dsimp only
  repeat' (first | with_reducible assumption | intro _ | with_reducible apply Ctx.readDescs_wf | with_reducible apply Ctx.foldl_wf | with_reducible apply Ctx.pair_wf | simp | split)

@[simp] theorem Ctx.unitWork_wf (x : Ctx) (t : StepRec) (m : Model) (ops : List (Nat × QDesc)) (copies : List (Bytes × Option (Nat × Nat))) (layer : Nat) (z5 : Nat) (h : x.chip.mem.wf = true) :
    (x.unitWork t m ops copies layer z5).1.chip.mem.wf = true := by
  fun_induction Ctx.unitWork x t m ops copies layer z5
  all_goals repeat' (first | with_reducible assumption | intro _ | with_reducible apply Ctx.layerWork_wf | simp | split | apply_assumption | simp_all)

@[simp] theorem Ctx.unitEntry_wf (x : Ctx) (id : Nat) (unit : Nat) (ops : List (Fin 4 × Bytes)) (copies : List BuiltCopy) (h : x.chip.mem.wf = true) :
    (x.unitEntry id unit ops copies).chip.mem.wf = true := by
  unfold Ctx.unitEntry; dsimp only
  repeat' (first | with_reducible assumption | intro _ | with_reducible apply Ctx.leaveBarrier_wf | with_reducible apply Ctx.unitWork_wf | simp | split)

@[simp] theorem Ctx.stepCommit_wf (x : Ctx) (id : Nat) (staged : List Staged) (h : x.chip.mem.wf = true) :
    (x.stepCommit id staged).chip.mem.wf = true := by
  unfold Ctx.stepCommit; (try dsimp only); (repeat' split) <;> simp +contextual [h]

@[simp] theorem Ctx.stepErrorEnd_wf (x : Ctx) (id : Nat) (err : StepErr) (h : x.chip.mem.wf = true) :
    (x.stepErrorEnd id err).chip.mem.wf = true := by
  unfold Ctx.stepErrorEnd; (try dsimp only); (repeat' split) <;> simp +contextual [h]

@[simp] theorem Ctx.holdLimit_wf (x : Ctx) (id : Nat) (h : x.chip.mem.wf = true) :
    (x.holdLimit id).chip.mem.wf = true := by
  unfold Ctx.holdLimit; (try dsimp only); (repeat' split) <;> simp +contextual [h]

@[simp] theorem Ctx.stepStall_wf (x : Ctx) (id : Nat) (remote : Bool) (h : x.chip.mem.wf = true) :
    (x.stepStall id remote).chip.mem.wf = true := by
  unfold Ctx.stepStall; (try dsimp only); (repeat' split) <;> simp +contextual [h]

@[simp] theorem Ctx.verifyCommitEntry_wf (x : Ctx) (super : Nat) (e : PlanEntry) (h : x.chip.mem.wf = true) :
    (x.verifyCommitEntry super e).1.chip.mem.wf = true := by
  unfold Ctx.verifyCommitEntry; dsimp only
  repeat' (first | with_reducible assumption | intro _ | with_reducible apply Ctx.cutTable_wf | with_reducible apply Ctx.dropTent_wf | simp | split)

@[simp] theorem Ctx.verifyCommitEntries_wf (x : Ctx) (super : Nat) (z1 : List PlanEntry) (h : x.chip.mem.wf = true) :
    (x.verifyCommitEntries super z1).1.chip.mem.wf = true := by
  fun_induction Ctx.verifyCommitEntries x super z1
  all_goals repeat' (first | with_reducible assumption | intro _ | with_reducible apply Ctx.verifyCommitEntry_wf | simp | split | apply_assumption | simp_all)

@[simp] theorem Ctx.verifyCommit_wf (x : Ctx) (id : Nat) (h : x.chip.mem.wf = true) :
    (x.verifyCommit id).chip.mem.wf = true := by
  unfold Ctx.verifyCommit; dsimp only
  repeat' (first | with_reducible assumption | intro _ | with_reducible apply Ctx.verifyCommitEntries_wf | simp | split)

end Sys2Proof.Machine
end

