-- ==== Sys2Proof/Laws/MemLink.lean ====
section
/-! SUPPORT. The operations of Machine/Link.lean keep the canonical form of the memories. -/
namespace Sys2Proof.Machine

@[simp] theorem Ctx.flitReceive_wf (x : Ctx) (p : Nat) (flit : Bytes) (unc : Option Nat) (corrected : Nat) (stamp : Word64) (h : x.chip.mem.wf = true) :
    (x.flitReceive p flit unc corrected stamp).chip.mem.wf = true := by
  unfold Ctx.flitReceive; (try dsimp only)
  repeat' (first | with_reducible assumption | intro _ | with_reducible apply Ctx.corrected_wf | simp | split)

@[simp] theorem Ctx.onMgmt_wf (x : Ctx) (p : Nat) (code : Nat) (f : Ctx → Ctx)
    (hf : ∀ y0, y0.chip.mem.wf = true → (f y0).chip.mem.wf = true) (h : x.chip.mem.wf = true) :
    (x.onMgmt p code f).chip.mem.wf = true := by
  unfold Ctx.onMgmt; split
  · exact h
  · rename_i g
    refine hf _ ?_
    rw [(Ctx.takeMgmt_keeps g).2.2.2.2.2.2.1]; exact h

end Sys2Proof.Machine
end

