-- ==== Sys2Proof/Laws/MemTime.lean ====
section
/-! SUPPORT. The operations of Machine/Time.lean keep the canonical form of the memories. -/
namespace Sys2Proof.Machine

@[simp] theorem Ctx.ringWrite_wf (x : Ctx) (rec : Bytes) (h : x.chip.mem.wf = true) :
    (x.ringWrite rec).chip.mem.wf = true := by
  unfold Ctx.ringWrite; (try dsimp only)
  repeat' (first | with_reducible assumption | intro _ | with_reducible apply Ctx.overwrite_wf | simp | split)

@[simp] theorem Ctx.ringPut_wf (x : Ctx) (rec : Bytes) (h : x.chip.mem.wf = true) :
    (x.ringPut rec).chip.mem.wf = true := by
  unfold Ctx.ringPut; (try dsimp only)
  repeat' (first | with_reducible assumption | intro _ | with_reducible apply Ctx.ringWrite_wf | simp | split)

@[simp] theorem Ctx.tellLoss_wf (x : Ctx) (h : x.chip.mem.wf = true) :
    (x.tellLoss).chip.mem.wf = true := by
  unfold Ctx.tellLoss; (try dsimp only)
  repeat' (first | with_reducible assumption | intro _ | with_reducible apply Ctx.ringWrite_wf | simp | split)

@[simp] theorem Ctx.takeSource_wf (x : Ctx) (k : Nat) (h : x.chip.mem.wf = true) :
    (x.takeSource k).chip.mem.wf = true := by
  unfold Ctx.takeSource; (try dsimp only)
  repeat' (first | with_reducible assumption | intro _ | with_reducible apply Ctx.ringPut_wf | with_reducible apply Ctx.tellLoss_wf | simp | split)

@[simp] theorem Ctx.traceCycle_wf (x : Ctx) (h : x.chip.mem.wf = true) :
    (x.traceCycle).chip.mem.wf = true := by
  unfold Ctx.traceCycle; (try dsimp only)
  repeat' (first | with_reducible assumption | intro _ | with_reducible apply Ctx.tellLoss_wf | with_reducible apply Ctx.takeSource_wf | simp | split)

@[simp] theorem Ctx.traceDrain_wf (x : Ctx) (h : x.chip.mem.wf = true) :
    (x.traceDrain).chip.mem.wf = true := by
  unfold Ctx.traceDrain; (try dsimp only)
  repeat' (first | with_reducible assumption | intro _ | with_reducible apply Ctx.takeSource_wf | with_reducible apply Ctx.foldl_wf | with_reducible apply Ctx.pair_wf | simp | split)

@[simp] theorem Ctx.traceLull_wf (x : Ctx) (what : Nat) (id : Nat) (t : Nat) (h : x.chip.mem.wf = true) :
    (x.traceLull what id t).chip.mem.wf = true := by
  unfold Ctx.traceLull; (try dsimp only)
  repeat' (first | with_reducible assumption | intro _ | with_reducible apply Ctx.ringPut_wf | simp | split)

@[simp] theorem Ctx.freeze_wf (x : Ctx) (h : x.chip.mem.wf = true) :
    (x.freeze).chip.mem.wf = true := by
  unfold Ctx.freeze; (try dsimp only)
  repeat' (first | with_reducible assumption | intro _ | with_reducible apply Ctx.traceLull_wf | with_reducible apply Ctx.lullRelease_wf | with_reducible apply Ctx.foldl_wf | with_reducible apply Ctx.pair_wf | simp | split)

@[simp] theorem Ctx.lullFreeze_wf (x : Ctx) (h : x.chip.mem.wf = true) :
    (x.lullFreeze).chip.mem.wf = true := by
  unfold Ctx.lullFreeze; (try dsimp only)
  repeat' (first | with_reducible assumption | intro _ | with_reducible apply Ctx.freeze_wf | simp | split)

@[simp] theorem Ctx.release_wf (x : Ctx) (h : x.chip.mem.wf = true) :
    (x.release).chip.mem.wf = true := by
  unfold Ctx.release; (try dsimp only)
  repeat' (first | with_reducible assumption | intro _ | with_reducible apply Ctx.traceLull_wf | with_reducible apply Ctx.foldl_wf | with_reducible apply Ctx.pair_wf | simp | split)

@[simp] theorem Ctx.lullRelease_wf (x : Ctx) (h : x.chip.mem.wf = true) :
    (x.lullRelease).chip.mem.wf = true := by
  unfold Ctx.lullRelease; (try dsimp only)
  repeat' (first | with_reducible assumption | intro _ | with_reducible apply Ctx.release_wf | simp | split)

@[simp] theorem Ctx.routed_wf (x : Ctx) (p : Nat) (h : x.chip.mem.wf = true) :
    (x.routed p).chip.mem.wf = true := by
  unfold Ctx.routed; (try dsimp only)
  repeat' (first | with_reducible assumption | intro _ | with_reducible apply Ctx.lullRelease_wf | (simp [*, Ctx.takeMgmt_keeps (by assumption)]; done) | split)

@[simp] theorem Ctx.stepTime_wf (x : Ctx) (n : Int) (h : x.chip.mem.wf = true) :
    (x.stepTime n).chip.mem.wf = true := by
  unfold Ctx.stepTime; (try dsimp only)
  repeat' (first | with_reducible assumption | intro _ | with_reducible apply Ctx.freeze_wf | simp | split)

@[simp] theorem Ctx.steer_wf (x : Ctx) (p : Nat) (off : Int) (delay : Int) (h : x.chip.mem.wf = true) :
    (x.steer p off delay).chip.mem.wf = true := by
  unfold Ctx.steer; (try dsimp only)
  repeat' (first | with_reducible assumption | intro _ | with_reducible apply Ctx.stepTime_wf | simp | split)

@[simp] theorem Ctx.syncResponse_wf (x : Ctx) (p : Nat) (h : x.chip.mem.wf = true) :
    (x.syncResponse p).chip.mem.wf = true := by
  unfold Ctx.syncResponse; (try dsimp only)
  repeat' (first | with_reducible assumption | intro _ | with_reducible apply Ctx.steer_wf | (simp [*, Ctx.takeSync_keeps (by assumption)]; done) | split)

end Sys2Proof.Machine
end

