-- ==== Sys2Proof/Laws/MemFabric.lean ====
section
/-! SUPPORT. The operations of Machine/Fabric.lean keep the canonical form of the memories. -/
namespace Sys2Proof.Machine

@[simp] theorem Ctx.onMsg_wf (x : Ctx) (p : Nat) (vc : Nat) (op : Nat) (stale : Ctx → Bytes → Ctx) (f : Ctx → Bytes → Ctx)
    (hstale : ∀ y0 y1, y0.chip.mem.wf = true → (stale y0 y1).chip.mem.wf = true)
    (hf : ∀ y0 y1, y0.chip.mem.wf = true → (f y0 y1).chip.mem.wf = true) (h : x.chip.mem.wf = true) :
    (x.onMsg p vc op stale f).chip.mem.wf = true := by
  unfold Ctx.onMsg; split
  · exact h
  split
  · exact h
  rename_i y b g
  have hy : y.chip.mem.wf = true := by simp [Ctx.takeMsg_keeps g, h]
  have hv : ∀ n, (y.violation p n).chip.mem.wf = true := fun n => by simp [hy]
  split
  · exact hv 4
  split
  · exact h
  split
  · exact hf _ _ hy
  · exact hstale _ _ (hv 5)

@[simp] theorem Ctx.putMsg_wf (x : Ctx) (super : Nat) (a : Nat) (b : Bytes) (h : x.chip.mem.wf = true) :
    (x.putMsg super a b).chip.mem.wf = true := by
  unfold Ctx.putMsg; (try dsimp only)
  repeat' (first | with_reducible assumption | intro _ | with_reducible apply Ctx.poisonGranule_wf | with_reducible apply Ctx.put_wf | with_reducible apply Ctx.foldl_wf | with_reducible apply Ctx.pair_wf | simp | split)

@[simp] theorem Ctx.writeReceive_wf (x : Ctx) (p : Nat) (vc : Nat) (h : x.chip.mem.wf = true) :
    (x.writeReceive p vc).chip.mem.wf = true := by
  unfold Ctx.writeReceive; (try dsimp only)
  repeat' (first | with_reducible assumption | intro _ | with_reducible apply Ctx.onMsg_wf | with_reducible apply Ctx.putMsg_wf | simp | split)

@[simp] theorem Ctx.collective_wf (x : Ctx) (p : Nat) (vc : Nat) (h : x.chip.mem.wf = true) :
    (x.collective p vc).chip.mem.wf = true := by
  unfold Ctx.collective; (try dsimp only)
  repeat' (first | with_reducible assumption | intro _ | with_reducible apply Ctx.onMsg_wf | with_reducible apply Ctx.putMsg_wf | simp | split)

end Sys2Proof.Machine
end

