-- ==== Sys2Proof/Laws/MemModels.lean ====
section
/-! SUPPORT. The operations of Machine/Models.lean keep the canonical form of the memories. -/
namespace Sys2Proof.Machine

@[simp] theorem Ctx.putSeg_wf (x : Ctx) (m : Model) (g : Seg) (off : Nat) (bs : Bytes) (h : x.chip.mem.wf = true) :
    (x.putSeg m g off bs).chip.mem.wf = true := by
  unfold Ctx.putSeg; (try dsimp only)
  repeat' (first | with_reducible assumption | intro _ | with_reducible apply Ctx.put_wf | simp | split)

@[simp] theorem Ctx.blurModel_wf (x : Ctx) (m : Model) (h : x.chip.mem.wf = true) :
    (x.blurModel m).chip.mem.wf = true := by
  unfold Ctx.blurModel; (try dsimp only)
  repeat' (first | with_reducible assumption | intro _ | with_reducible apply Ctx.blur_wf | with_reducible apply Ctx.foldl_wf | with_reducible apply Ctx.pair_wf | simp | split)

@[simp] theorem Ctx.areaData_wf (x : Ctx) (m : Model) (g : Seg) (h : x.chip.mem.wf = true) :
    (x.areaData m g).1.chip.mem.wf = true := by
  unfold Ctx.areaData; (try dsimp only)
  repeat' (first | with_reducible assumption | intro _ | with_reducible apply Ctx.inspect_wf | with_reducible apply Ctx.store_wf | with_reducible apply Memory.store_wf | with_reducible apply Memory.setStore_wf | with_reducible apply Store.write_wf | with_reducible apply Store.blur_wf | simp only [Store.wf_mk] | simp | split)

@[simp] theorem Ctx.segData_wf (x : Ctx) (m : Model) (source : Nat) (reads : Seg → Bool) (src : List SegData) (z4 : List Seg) (h : x.chip.mem.wf = true) :
    (x.segData m source reads src z4).1.chip.mem.wf = true := by
  induction z4 generalizing x src with
  | nil => exact h
  | cons g r ih => simp only [Ctx.segData]; apply ih; (repeat' split) <;> simp [h]

@[simp] theorem Ctx.abortLoad_wf (x : Ctx) (id : Nat) (f : Refuse) (h : x.chip.mem.wf = true) :
    (x.abortLoad id f).chip.mem.wf = true := by
  unfold Ctx.abortLoad; (try dsimp only)
  repeat' (first | with_reducible assumption | intro _ | with_reducible apply Ctx.blurModel_wf | simp | split)

@[simp] theorem Ctx.placeSegs_wf (x : Ctx) (m : Model) (i : Nat) (z2 : List Seg) (z3 : List SegData) (h : x.chip.mem.wf = true) :
    (x.placeSegs m i z2 z3).1.chip.mem.wf = true := by
  fun_induction Ctx.placeSegs x m i z2 z3
  all_goals repeat' (first | with_reducible assumption | intro _ | with_reducible apply Ctx.putSeg_wf | simp | split | apply_assumption | simp_all)

@[simp] theorem Ctx.modelLoad_wf (x : Ctx) (k : Cmd) (manifest : Bytes) (src : List SegData) (h : x.chip.mem.wf = true) :
    (x.modelLoad k manifest src).chip.mem.wf = true := by
  unfold Ctx.modelLoad; (try dsimp only)
  repeat' (first | with_reducible assumption | intro _ | with_reducible apply Ctx.blurModel_wf | with_reducible apply Ctx.placeSegs_wf | with_reducible apply Ctx.segData_wf | with_reducible apply Ctx.foldl_wf | with_reducible apply Ctx.pair_wf | simp | split)

@[simp] theorem Ctx.pieceIn_wf (x : Ctx) (b : Bytes) (id : Nat) (m : Model) (t : Tree) (i : Nat) (g : Seg) (h : x.chip.mem.wf = true) :
    (x.pieceIn b id m t i g).chip.mem.wf = true := by
  unfold Ctx.pieceIn; (try dsimp only)
  repeat' (first | with_reducible assumption | intro _ | with_reducible apply Ctx.abortLoad_wf | with_reducible apply Ctx.putSeg_wf | with_reducible apply Ctx.foldl_wf | with_reducible apply Ctx.pair_wf | simp | split)

@[simp] theorem Ctx.segmentIn_wf (x : Ctx) (b : Bytes) (h : x.chip.mem.wf = true) :
    (x.segmentIn b).chip.mem.wf = true := by
  unfold Ctx.segmentIn; (try dsimp only); (repeat' split) <;> simp +contextual [h]

@[simp] theorem Ctx.segmentReceive_wf (x : Ctx) (p : Nat) (vc : Nat) (h : x.chip.mem.wf = true) :
    (x.segmentReceive p vc).chip.mem.wf = true := by
  unfold Ctx.segmentReceive; (try dsimp only)
  repeat' (first | with_reducible assumption | intro _ | with_reducible apply Ctx.onMsg_wf | with_reducible apply Ctx.segmentIn_wf | simp | split)

@[simp] theorem Ctx.loadTimeout_wf (x : Ctx) (id : Nat) (h : x.chip.mem.wf = true) :
    (x.loadTimeout id).chip.mem.wf = true := by
  unfold Ctx.loadTimeout; (try dsimp only); (repeat' split) <;> simp +contextual [h]

@[simp] theorem Ctx.swapLayer_wf (x : Ctx) (k : Cmd) (data : Bytes) (src : List SegData) (h : x.chip.mem.wf = true) :
    (x.swapLayer k data src).chip.mem.wf = true := by
  unfold Ctx.swapLayer; (try dsimp only)
  repeat' (first | with_reducible assumption | intro _ | with_reducible apply Ctx.segData_wf | simp | split)

@[simp] theorem Ctx.swapStart_wf (x : Ctx) (mid : Nat) (h : x.chip.mem.wf = true) :
    (x.swapStart mid).chip.mem.wf = true := by
  unfold Ctx.swapStart; (try dsimp only)
  repeat' (first | with_reducible assumption | intro _ | with_reducible apply Ctx.blur_wf | with_reducible apply Ctx.foldl_wf | with_reducible apply Ctx.pair_wf | simp | split)

@[simp] theorem Ctx.writeUnit_wf (x : Ctx) (m : Model) (z1 : List Seg) (z2 : List SegData) (h : x.chip.mem.wf = true) :
    (x.writeUnit m z1 z2).chip.mem.wf = true := by
  fun_induction Ctx.writeUnit x m z1 z2
  all_goals repeat' (first | with_reducible assumption | intro _ | with_reducible apply Ctx.putSeg_wf | simp | split | apply_assumption | simp_all)

@[simp] theorem Ctx.layerData_wf (x : Ctx) (m : Model) (k : Cmd) (segs : List Seg) (data : List SegData) (h : x.chip.mem.wf = true) :
    (x.layerData m k segs data).1.chip.mem.wf = true := by
  unfold Ctx.layerData; (try dsimp only)
  repeat' (first | with_reducible assumption | intro _ | with_reducible apply Ctx.segData_wf | simp | split)

@[simp] theorem Ctx.swapComplete_wf (x : Ctx) (mid : Nat) (h : x.chip.mem.wf = true) :
    (x.swapComplete mid).chip.mem.wf = true := by
  unfold Ctx.swapComplete; (try dsimp only)
  repeat' (first | with_reducible assumption | intro _ | with_reducible apply Ctx.layerData_wf | with_reducible apply Ctx.writeUnit_wf | simp | split)

@[simp] theorem Ctx.swapErr_wf (x : Ctx) (m : Model) (k : Cmd) (segs : List Seg) (data : List SegData) (host : SrcErr × Nat × Nat) (h : x.chip.mem.wf = true) :
    (x.swapErr m k segs data host).1.chip.mem.wf = true := by
  unfold Ctx.swapErr; (try dsimp only)
  repeat' (first | with_reducible assumption | intro _ | with_reducible apply Ctx.layerData_wf | simp | split)

@[simp] theorem Ctx.swapFail_wf (x : Ctx) (mid : Nat) (err : SrcErr) (seg : Nat) (off : Nat) (h : x.chip.mem.wf = true) :
    (x.swapFail mid err seg off).chip.mem.wf = true := by
  unfold Ctx.swapFail; (try dsimp only)
  repeat' (first | with_reducible assumption | intro _ | with_reducible apply Ctx.swapErr_wf | with_reducible apply Ctx.blur_wf | with_reducible apply Ctx.foldl_wf | with_reducible apply Ctx.pair_wf | simp | split)

end Sys2Proof.Machine
end

