-- ==== Sys2Proof/Laws/MemConfigCmds.lean ====
section
/-! SUPPORT. The operations of Machine/ConfigCmds.lean keep the canonical form of the memories. -/
namespace Sys2Proof.Machine

@[simp] theorem Ctx.moveSupers_wf (x : Ctx) (o : Mem) (n : Mem) (h : x.chip.mem.wf = true) :
    (x.moveSupers o n).chip.mem.wf = true := by
  have hf : ∀ (l : List (Nat × Nat × Nat)) (old st : Store), old.wf = true → st.wf = true →
      (l.foldl (fun st p =>
        let c := old.cut p.1 p.2.2 p.2.1
        st.paste p.2.1 p.2.2 (if p.1 = p.2.1 then c else { c with ue := [], ce := [], fix := [], onDie := [] })) st).wf = true := by
    intro l old st ho hs
    induction l generalizing st with
    | nil => exact hs
    | cons p r ih =>
      refine ih _ ?_
      have hc := Store.cut_wf old p.1 p.2.2 p.2.1 ho
      dsimp only
      split
      · exact Store.paste_wf _ _ _ _ hs hc.1 hc.2.1 hc.2.2
      · exact Store.paste_wf _ _ _ _ hs (by rw [Store.wf_mk]; exact hc.1) hc.2.1 hc.2.2
  unfold Ctx.moveSupers
  refine Ctx.foldl_wf _ (fun x s hx => Ctx.foldl_wf _ (fun x d hx => Ctx.blur_wf _ _ _ _ hx) _ _ hx) _ _ ?_
  rw [Ctx.bump_chip]
  have hi : ∀ l : List (Nat × Nat × Nat),
      (l.foldl (fun x p => if p.1 = p.2.1 then x else (x.inspect .hbm none p.1 p.2.2).1) x).chip.mem.wf = true := fun l =>
    Ctx.foldl_wf _ (fun x p hx => by
      split
      · exact hx
      · exact Ctx.inspect_wf _ _ _ _ _ hx) _ _ h
  exact Ctx.setStore_wf _ _ _ (hi _) (hf _ _ _ (Ctx.store_wf _ _ (hi _)) (Store.blur_wf _ _ _ _ (Ctx.store_wf _ _ (hi _))))

@[simp] theorem Ctx.exchange_wf (x : Ctx) (n : Nat) (h : x.chip.mem.wf = true) :
    (x.exchange n).chip.mem.wf = true := by
  unfold Ctx.exchange; (try dsimp only)
  repeat' (first | with_reducible assumption | intro _ | with_reducible apply Ctx.moveSupers_wf | simp | split)

@[simp] theorem Ctx.exchangeSome_wf (x : Ctx) (p : Nat → Bool) (h : x.chip.mem.wf = true) :
    (x.exchangeSome p).chip.mem.wf = true := by
  unfold Ctx.exchangeSome; (try dsimp only)
  repeat' (first | with_reducible assumption | intro _ | with_reducible apply Ctx.exchange_wf | with_reducible apply Ctx.foldl_wf | with_reducible apply Ctx.pair_wf | simp | split)

@[simp] theorem Ctx.configCommit_wf (x : Ctx) (k : Cmd) (h : x.chip.mem.wf = true) :
    (x.configCommit k).chip.mem.wf = true := by
  unfold Ctx.configCommit; (try dsimp only)
  repeat' (first | with_reducible assumption | intro _ | with_reducible apply Ctx.exchangeSome_wf | simp | split)

@[simp] theorem Ctx.sectionExchange_wf (x : Ctx) (n : Nat) (h : x.chip.mem.wf = true) :
    (x.sectionExchange n).chip.mem.wf = true := by
  unfold Ctx.sectionExchange; (try dsimp only)
  repeat' (first | with_reducible assumption | intro _ | with_reducible apply Ctx.exchangeSome_wf | simp | split)

end Sys2Proof.Machine
end

