-- ==== Sys2Proof/Laws/MemComb.lean ====
section
/-! SUPPORT. The operations of Machine/Comb.lean keep the canonical form of the memories. -/
namespace Sys2Proof.Machine

@[simp] theorem Ctx.readFor_wf (x : Ctx) (q : QDesc) (die : Nat) (a : Nat) (n : Nat) (h : x.chip.mem.wf = true) :
    (x.readFor q die a n).1.chip.mem.wf = true := by
  unfold Ctx.readFor; (try dsimp only)
  repeat' (first | with_reducible assumption | intro _ | with_reducible apply Ctx.inspect_wf | with_reducible apply Ctx.store_wf | with_reducible apply Memory.store_wf | with_reducible apply Memory.setStore_wf | with_reducible apply Store.write_wf | with_reducible apply Store.blur_wf | simp only [Store.wf_mk] | simp | split)

@[simp] theorem Ctx.readRuns_wf (x : Ctx) (q : QDesc) (die : Nat) (z2 : List (Nat × Nat)) (h : x.chip.mem.wf = true) :
    (x.readRuns q die z2).1.chip.mem.wf = true := by
  fun_induction Ctx.readRuns x q die z2
  all_goals repeat' (first | with_reducible assumption | intro _ | with_reducible apply Ctx.readFor_wf | simp | split | apply_assumption | simp_all)

@[simp] theorem Ctx.groupQuad_wf (x : Ctx) (q : QDesc) (die : Nat) (u : Nat) (row : Nat) (t : TileOf) (h : x.chip.mem.wf = true) :
    (x.groupQuad q die u row t).1.chip.mem.wf = true := by
  unfold Ctx.groupQuad; (try dsimp only)
  repeat' (first | with_reducible assumption | intro _ | with_reducible apply Ctx.readRuns_wf | with_reducible apply Ctx.foldl_wf | with_reducible apply Ctx.pair_wf | simp | split)

@[simp] theorem Ctx.groupQuads_wf (x : Ctx) (q : QDesc) (die : Nat) (row : Nat) (z3 : Nat) (z4 : List TileOf) (h : x.chip.mem.wf = true) :
    (x.groupQuads q die row z3 z4).1.chip.mem.wf = true := by
  fun_induction Ctx.groupQuads x q die row z3 z4
  all_goals repeat' (first | with_reducible assumption | intro _ | with_reducible apply Ctx.groupQuad_wf | simp | split | apply_assumption | simp_all)

@[simp] theorem Ctx.groupsOf_wf (x : Ctx) (q : QDesc) (die : Nat) (tiles : List TileOf) (bad : List Nat) (cycles : Nat) (frozen : Nat) (z6 : Nat) (z7 : Nat) (h : x.chip.mem.wf = true) :
    (x.groupsOf q die tiles bad cycles frozen z6 z7).1.chip.mem.wf = true := by
  fun_induction Ctx.groupsOf x q die tiles bad cycles frozen z6 z7
  all_goals repeat' (first | with_reducible assumption | intro _ | with_reducible apply Ctx.groupQuads_wf | simp | split | apply_assumption | simp_all)

@[simp] theorem Ctx.issue_wf (x : Ctx) (k : Nat) (q : QDesc) (f : Freezes) (tiles : List TileOf) (bad : List Nat) (h : x.chip.mem.wf = true) :
    (x.issue k q f tiles bad).chip.mem.wf = true := by
  unfold Ctx.issue; (try dsimp only)
  repeat' (first | with_reducible assumption | intro _ | with_reducible apply Ctx.groupsOf_wf | simp | split)

@[simp] theorem Ctx.readTile_wf (x : Ctx) (q : QDesc) (die : Nat) (u : Nat) (h : x.chip.mem.wf = true) :
    (x.readTile q die u).1.chip.mem.wf = true := by
  unfold Ctx.readTile; (try dsimp only)
  repeat' (first | with_reducible assumption | intro _ | with_reducible apply Ctx.readFor_wf | with_reducible apply Ctx.readRuns_wf | simp | split)

@[simp] theorem Ctx.readTiles_wf (x : Ctx) (q : QDesc) (die : Nat) (u : Nat) (z3 : Nat) (h : x.chip.mem.wf = true) :
    (x.readTiles q die u z3).1.chip.mem.wf = true := by
  fun_induction Ctx.readTiles x q die u z3
  all_goals repeat' (first | with_reducible assumption | intro _ | with_reducible apply Ctx.readTile_wf | simp | split | apply_assumption | simp_all)

@[simp] theorem Ctx.fill_wf (x : Ctx) (k : Nat) (f : Freezes) (h : x.chip.mem.wf = true) :
    (x.fill k f).chip.mem.wf = true := by
  unfold Ctx.fill; (try dsimp only)
  repeat' (first | with_reducible assumption | intro _ | with_reducible apply Ctx.issue_wf | with_reducible apply Ctx.readTiles_wf | simp | split)

@[simp] theorem Ctx.stream'_wf (x : Ctx) (k : Nat) (f : Freezes) (h : x.chip.mem.wf = true) :
    (x.stream' k f).chip.mem.wf = true := by
  unfold Ctx.stream'; (try dsimp only)
  repeat' (first | with_reducible assumption | intro _ | with_reducible apply Ctx.issue_wf | with_reducible apply Ctx.foldl_wf | with_reducible apply Ctx.pair_wf | with_reducible apply Ctx.store_wf | with_reducible apply Memory.store_wf | with_reducible apply Memory.setStore_wf | with_reducible apply Store.write_wf | with_reducible apply Store.blur_wf | simp only [Store.wf_mk] | simp | split)

@[simp] theorem Ctx.tileComplete_wf (x : Ctx) (k : Nat) (h : x.chip.mem.wf = true) :
    (x.tileComplete k).chip.mem.wf = true := by
  unfold Ctx.tileComplete; (try dsimp only)
  repeat' (first | with_reducible assumption | intro _ | with_reducible apply Ctx.readTiles_wf | simp | split)

@[simp] theorem Ctx.drainRow_wf (x : Ctx) (q : QDesc) (die : Nat) (a : Nat) (es : List AccElem) (h : x.chip.mem.wf = true) :
    (x.drainRow q die a es).1.chip.mem.wf = true := by
  unfold Ctx.drainRow; (try dsimp only)
  repeat' (first | with_reducible assumption | intro _ | with_reducible apply Ctx.put_wf | with_reducible apply Ctx.readFor_wf | with_reducible apply Ctx.foldl_wf | with_reducible apply Ctx.pair_wf | simp | split)

@[simp] theorem Ctx.drainRows_wf (x : Ctx) (q : QDesc) (die : Nat) (a : Nat) (z3 : List (List AccElem)) (h : x.chip.mem.wf = true) :
    (x.drainRows q die a z3).1.chip.mem.wf = true := by
  fun_induction Ctx.drainRows x q die a z3
  all_goals repeat' (first | with_reducible assumption | intro _ | with_reducible apply Ctx.drainRow_wf | simp | split | apply_assumption | simp_all)

@[simp] theorem Ctx.poisonQuad_wf (x : Ctx) (g : Group) (die : Nat) (u : Nat) (h : x.chip.mem.wf = true) :
    (x.poisonQuad g die u).chip.mem.wf = true := by
  unfold Ctx.poisonQuad; (try dsimp only)
  repeat' (first | with_reducible assumption | intro _ | with_reducible apply Ctx.poisonRange_wf | with_reducible apply Ctx.foldl_wf | with_reducible apply Ctx.pair_wf | simp | split)

@[simp] theorem Ctx.drainQuads_wf (x : Ctx) (g : Group) (die : Nat) (z2 : Nat) (z3 : List (List (List AccElem))) (h : x.chip.mem.wf = true) :
    (x.drainQuads g die z2 z3).1.chip.mem.wf = true := by
  induction z3 generalizing x g die z2
  all_goals (try simp only [Ctx.drainQuads])
  all_goals repeat' (first | with_reducible assumption | intro _ | with_reducible apply Ctx.drainRows_wf | with_reducible apply Ctx.poisonQuad_wf | simp | split | (apply_assumption))

@[simp] theorem Ctx.groupDrain_wf (x : Ctx) (k : Nat) (h : x.chip.mem.wf = true) :
    (x.groupDrain k).chip.mem.wf = true := by
  unfold Ctx.groupDrain; (try dsimp only)
  repeat' (first | with_reducible assumption | intro _ | with_reducible apply Ctx.drainQuads_wf | simp | split)

end Sys2Proof.Machine
end

