-- ==== Sys2Proof/Laws/MemRowOps.lean ====
section
/-! SUPPORT. The operations of Machine/RowOps.lean keep the canonical form of the memories. -/
namespace Sys2Proof.Machine

@[simp] theorem Ctx.readElems_wf (x : Ctx) (q : QDesc) (die : Nat) (fmt : Nat) (a : Nat) (n : Nat) (h : x.chip.mem.wf = true) :
    (x.readElems q die fmt a n).1.chip.mem.wf = true := by
  unfold Ctx.readElems; (try dsimp only)
  repeat' (first | with_reducible assumption | intro _ | with_reducible apply Ctx.inspect_wf | with_reducible apply Ctx.store_wf | with_reducible apply Memory.store_wf | with_reducible apply Memory.setStore_wf | with_reducible apply Store.write_wf | with_reducible apply Store.blur_wf | simp only [Store.wf_mk] | simp | split)

@[simp] theorem Ctx.writeElems_wf (x : Ctx) (q : QDesc) (die : Nat) (w : Nat) (a : Nat) (vs : List Nat) (bad : List Nat) (h : x.chip.mem.wf = true) :
    (x.writeElems q die w a vs bad).chip.mem.wf = true := by
  unfold Ctx.writeElems; (try dsimp only)
  repeat' (first | with_reducible assumption | intro _ | with_reducible apply Ctx.poisonRange_wf | with_reducible apply Ctx.put_wf | with_reducible apply Ctx.foldl_wf | with_reducible apply Ctx.pair_wf | simp | split)

@[simp] theorem Ctx.tileIn_wf (x : Ctx) (s : SfuCtx) (die : Nat) (h : x.chip.mem.wf = true) :
    (x.tileIn s die).1.chip.mem.wf = true := by
  unfold Ctx.tileIn; (try dsimp only)
  repeat' (first | with_reducible assumption | intro _ | with_reducible apply Ctx.readElems_wf | simp | split)

@[simp] theorem Ctx.tileOut_wf (x : Ctx) (s : SfuCtx) (die : Nat) (ys : List FR) (bad : List Nat) (h : x.chip.mem.wf = true) :
    (x.tileOut s die ys bad).1.chip.mem.wf = true := by
  unfold Ctx.tileOut; (try dsimp only)
  repeat' (first | with_reducible assumption | intro _ | with_reducible apply Ctx.writeElems_wf | with_reducible apply Ctx.foldl_wf | with_reducible apply Ctx.pair_wf | simp | split)

@[simp] theorem Ctx.mapTile_wf (x : Ctx) (s : SfuCtx) (die : Nat) (h : x.chip.mem.wf = true) :
    (x.mapTile s die).1.chip.mem.wf = true := by
  unfold Ctx.mapTile; (try dsimp only)
  repeat' (first | with_reducible assumption | intro _ | with_reducible apply Ctx.tileIn_wf | with_reducible apply Ctx.tileOut_wf | simp | split)

@[simp] theorem Ctx.softmaxFirst_wf (x : Ctx) (s : SfuCtx) (die : Nat) (h : x.chip.mem.wf = true) :
    (x.softmaxFirst s die).1.chip.mem.wf = true := by
  unfold Ctx.softmaxFirst; (try dsimp only)
  repeat' (first | with_reducible assumption | intro _ | with_reducible apply Ctx.tileIn_wf | with_reducible apply Ctx.writeElems_wf | with_reducible apply Ctx.foldl_wf | with_reducible apply Ctx.pair_wf | simp | split)

@[simp] theorem Ctx.softmaxSecond_wf (x : Ctx) (s : SfuCtx) (die : Nat) (h : x.chip.mem.wf = true) :
    (x.softmaxSecond s die).1.chip.mem.wf = true := by
  unfold Ctx.softmaxSecond; (try dsimp only)
  repeat' (first | with_reducible assumption | intro _ | with_reducible apply Ctx.readElems_wf | with_reducible apply Ctx.tileOut_wf | simp | split)

@[simp] theorem Ctx.normSum_wf (x : Ctx) (s : SfuCtx) (die : Nat) (h : x.chip.mem.wf = true) :
    (x.normSum s die).1.chip.mem.wf = true := by
  unfold Ctx.normSum; (try dsimp only)
  repeat' (first | with_reducible assumption | intro _ | with_reducible apply Ctx.tileIn_wf | simp | split)

@[simp] theorem Ctx.auxIn_wf (x : Ctx) (s : SfuCtx) (die : Nat) (off : Nat) (d : Word32) (h : x.chip.mem.wf = true) :
    (x.auxIn s die off d).1.chip.mem.wf = true := by
  unfold Ctx.auxIn; (try dsimp only)
  repeat' (first | with_reducible assumption | intro _ | with_reducible apply Ctx.readElems_wf | simp | split)

@[simp] theorem Ctx.normLast_wf (x : Ctx) (s : SfuCtx) (die : Nat) (h : x.chip.mem.wf = true) :
    (x.normLast s die).1.chip.mem.wf = true := by
  unfold Ctx.normLast; (try dsimp only)
  repeat' (first | with_reducible assumption | intro _ | with_reducible apply Ctx.auxIn_wf | with_reducible apply Ctx.tileIn_wf | with_reducible apply Ctx.tileOut_wf | simp | split)

@[simp] theorem Ctx.serveTile_wf (x : Ctx) (s : SfuCtx) (die : Nat) (h : x.chip.mem.wf = true) :
    (x.serveTile s die).1.chip.mem.wf = true := by
  unfold Ctx.serveTile; (try dsimp only)
  repeat' (first | with_reducible assumption | intro _ | with_reducible apply Ctx.mapTile_wf | with_reducible apply Ctx.normLast_wf | with_reducible apply Ctx.normSum_wf | with_reducible apply Ctx.softmaxFirst_wf | with_reducible apply Ctx.softmaxSecond_wf | simp | split)

@[simp] theorem Ctx.rowEnd_wf (x : Ctx) (s : SfuCtx) (die : Nat) (h : x.chip.mem.wf = true) :
    (x.rowEnd s die).1.chip.mem.wf = true := by
  unfold Ctx.rowEnd; (try dsimp only)
  repeat' (first | with_reducible assumption | intro _ | with_reducible apply Ctx.poisonRange_wf | with_reducible apply Ctx.put_wf | simp | split)

@[simp] theorem Ctx.afterTile_wf (x : Ctx) (s : SfuCtx) (die : Nat) (h : x.chip.mem.wf = true) :
    (x.afterTile s die).1.chip.mem.wf = true := by
  unfold Ctx.afterTile; (try dsimp only)
  repeat' (first | with_reducible assumption | intro _ | with_reducible apply Ctx.rowEnd_wf | simp | split)

@[simp] theorem Ctx.tileEnd_wf (x : Ctx) (d : Nat) (waited : List Nat) (h : x.chip.mem.wf = true) :
    (x.tileEnd d waited).chip.mem.wf = true := by
  unfold Ctx.tileEnd; (try dsimp only)
  repeat' (first | with_reducible assumption | intro _ | with_reducible apply Ctx.afterTile_wf | with_reducible apply Ctx.serveTile_wf | simp | split)

@[simp] theorem Ctx.selectionRow_wf (x : Ctx) (d : Nat) (h : x.chip.mem.wf = true) :
    (x.selectionRow d).chip.mem.wf = true := by
  unfold Ctx.selectionRow; (try dsimp only)
  repeat' (first | with_reducible assumption | intro _ | with_reducible apply Ctx.blur_wf | with_reducible apply Ctx.inspect_wf | with_reducible apply Ctx.poisonRange_wf | with_reducible apply Ctx.put_wf | with_reducible apply Ctx.readElems_wf | simp | split)

end Sys2Proof.Machine
end

