-- ==== Sys2Proof/Laws/MemCopies.lean ====
section
/-! SUPPORT. The operations of Machine/Copies.lean keep the canonical form of the memories. -/
namespace Sys2Proof.Machine

@[simp] theorem Ctx.readRun_wf (x : Ctx) (j : CopyJob) (p : Spc) (a : Nat) (n : Nat) (index : Nat) (h : x.chip.mem.wf = true) :
    (x.readRun j p a n index).1.chip.mem.wf = true := by
  unfold Ctx.readRun; (try dsimp only)
  repeat' (first | with_reducible assumption | intro _ | with_reducible apply Ctx.inspect_wf | with_reducible apply Ctx.store_wf | with_reducible apply Memory.store_wf | with_reducible apply Memory.setStore_wf | with_reducible apply Store.write_wf | with_reducible apply Store.blur_wf | simp only [Store.wf_mk] | simp | split)

@[simp] theorem Ctx.frameGranule_wf (x : Ctx) (j : CopyJob) (t : Stream) (layer : Nat) (off : Nat) (h : x.chip.mem.wf = true) :
    (x.frameGranule j t layer off).1.chip.mem.wf = true := by
  unfold Ctx.frameGranule; (try dsimp only)
  repeat' (first | with_reducible assumption | intro _ | with_reducible apply Ctx.readRun_wf | simp | split)

@[simp] theorem Ctx.frameRun_wf (x : Ctx) (j : CopyJob) (t : Stream) (layer : Nat) (z3 : Nat) (z4 : Nat) (h : x.chip.mem.wf = true) :
    (x.frameRun j t layer z3 z4).1.chip.mem.wf = true := by
  fun_induction Ctx.frameRun x j t layer z3 z4
  all_goals repeat' (first | with_reducible assumption | intro _ | with_reducible apply Ctx.frameGranule_wf | simp | split | apply_assumption | simp_all)

@[simp] theorem Ctx.sourceRow_wf (x : Ctx) (j : CopyJob) (t : Stream) (host : Bytes) (bad : List (Nat × SrcErr)) (i : Nat) (h : x.chip.mem.wf = true) :
    (x.sourceRow j t host bad i).1.chip.mem.wf = true := by
  unfold Ctx.sourceRow; (try dsimp only)
  repeat' (first | with_reducible assumption | intro _ | with_reducible apply Ctx.frameRun_wf | with_reducible apply Ctx.readRun_wf | with_reducible apply Ctx.foldl_wf | with_reducible apply Ctx.pair_wf | simp | split)

@[simp] theorem Ctx.writeRun_wf (x : Ctx) (j : CopyJob) (p : Spc) (a : Nat) (r : Run) (h : x.chip.mem.wf = true) :
    (x.writeRun j p a r).chip.mem.wf = true := by
  unfold Ctx.writeRun; (try dsimp only)
  repeat' (first | with_reducible assumption | intro _ | with_reducible apply Ctx.poisonGranule_wf | with_reducible apply Ctx.put_wf | with_reducible apply Ctx.foldl_wf | with_reducible apply Ctx.pair_wf | simp | split)

@[simp] theorem Ctx.destRow_wf (x : Ctx) (f : Nat) (j : CopyJob) (i : Nat) (r : Run) (h : x.chip.mem.wf = true) :
    (x.destRow f j i r).chip.mem.wf = true := by
  unfold Ctx.destRow; (try dsimp only)
  repeat' (first | with_reducible assumption | intro _ | with_reducible apply Ctx.writeRun_wf | simp | split)

@[simp] theorem Ctx.copyRows_wf (x : Ctx) (f : Nat) (j : CopyJob) (t : Stream) (host : Bytes) (bad : List (Nat × SrcErr)) (z5 : Nat) (z6 : Nat) (h : x.chip.mem.wf = true) :
    (x.copyRows f j t host bad z5 z6).chip.mem.wf = true := by
  induction z6 generalizing x f j t host bad z5
  all_goals (try simp only [Ctx.copyRows])
  all_goals repeat' (first | with_reducible assumption | intro _ | with_reducible apply Ctx.destRow_wf | with_reducible apply Ctx.sourceRow_wf | simp | split | (apply_assumption))

@[simp] theorem Ctx.copyStart_wf (x : Ctx) (f : Nat) (host : Bytes) (bad : List (Nat × SrcErr)) (h : x.chip.mem.wf = true) :
    (x.copyStart f host bad).chip.mem.wf = true := by
  unfold Ctx.copyStart; (try dsimp only)
  repeat' (first | with_reducible assumption | intro _ | with_reducible apply Ctx.copyRows_wf | simp | split)

@[simp] theorem Ctx.copyTimeout_wf (x : Ctx) (f : Nat) (off : Nat) (h : x.chip.mem.wf = true) :
    (x.copyTimeout f off).chip.mem.wf = true := by
  unfold Ctx.copyTimeout; (try dsimp only)
  repeat' (first | with_reducible assumption | intro _ | with_reducible apply Ctx.writeRun_wf | simp | split)

@[simp] theorem Ctx.sourceTimeout_wf (x : Ctx) (id : Nat) (seg : Nat) (off : Nat) (h : x.chip.mem.wf = true) :
    (x.sourceTimeout id seg off).chip.mem.wf = true := by
  unfold Ctx.sourceTimeout; (try dsimp only)
  repeat' (first | with_reducible assumption | intro _ | with_reducible apply Ctx.swapFail_wf | simp | split)

@[simp] theorem Ctx.hostTimeout_wf (x : Ctx) (r : HostRead) (h : x.chip.mem.wf = true) :
    (x.hostTimeout r).chip.mem.wf = true := by
  unfold Ctx.hostTimeout; (try dsimp only)
  repeat' (first | with_reducible assumption | intro _ | with_reducible apply Ctx.fetchError_wf | with_reducible apply Ctx.sourceTimeout_wf | with_reducible apply Ctx.copyTimeout_wf | simp | split)

end Sys2Proof.Machine
end

