-- ==== Sys2Proof/Laws/MemPowerCtl.lean ====
section
/-! SUPPORT. The operations of Machine/PowerCtl.lean keep the canonical form of the memories. -/
namespace Sys2Proof.Machine

@[simp] theorem Ctx.endStepWith_wf (x : Ctx) (t : StepRec) (status : Nat) (h : x.chip.mem.wf = true) :
    (x.endStepWith t status).chip.mem.wf = true := by
  unfold Ctx.endStepWith; (try dsimp only)
  repeat' (first | with_reducible assumption | intro _ | with_reducible apply Ctx.errorEnd_wf | simp | split)

@[simp] theorem Ctx.endWork_wf (x : Ctx) (status : Nat) (h : x.chip.mem.wf = true) :
    (x.endWork status).chip.mem.wf = true := by
  unfold Ctx.endWork; (try dsimp only)
  repeat' (first | with_reducible assumption | intro _ | with_reducible apply Ctx.endStepWith_wf | with_reducible apply Ctx.foldl_wf | with_reducible apply Ctx.pair_wf | simp | split)

@[simp] theorem Ctx.workStop_wf (x : Ctx) (h : x.chip.mem.wf = true) :
    (x.workStop).chip.mem.wf = true := by
  unfold Ctx.workStop; (try dsimp only)
  repeat' (first | with_reducible assumption | intro _ | with_reducible apply Ctx.endWork_wf | simp | split)

@[simp] theorem Ctx.thermalStop_wf (x : Ctx) (g : Nat) (t : Nat) (h : x.chip.mem.wf = true) :
    (x.thermalStop g t).chip.mem.wf = true := by
  unfold Ctx.thermalStop; (try dsimp only)
  repeat' (first | with_reducible assumption | intro _ | with_reducible apply Ctx.workStop_wf | simp | split)

@[simp] theorem Ctx.sensorRead_wf (x : Ctx) (temps : List Nat) (h : x.chip.mem.wf = true) :
    (x.sensorRead temps).chip.mem.wf = true := by
  unfold Ctx.sensorRead; (try dsimp only)
  repeat' (first | with_reducible assumption | intro _ | with_reducible apply Ctx.thermalStop_wf | with_reducible apply Ctx.foldl_wf | with_reducible apply Ctx.pair_wf | simp | split)

end Sys2Proof.Machine
end

