-- ==== Sys2Proof/Laws/MemObserve.lean ====
section
/-! SUPPORT. The operations of Machine/Observe.lean keep the canonical form of the memories. -/
namespace Sys2Proof.Machine

@[simp] theorem Ctx.copyRecord_wf (x : Ctx) (h : x.chip.mem.wf = true) :
    (x.copyRecord).chip.mem.wf = true := by
  unfold Ctx.copyRecord; (try dsimp only)
  repeat' (first | with_reducible assumption | intro _ | with_reducible apply Ctx.readRing_wf | with_reducible apply Ctx.tellLoss_wf | simp | split)

end Sys2Proof.Machine
end

