-- ==== Sys2Proof/Laws/MemBoot.lean ====
section
/-! SUPPORT. The operations of Machine/Boot.lean keep the canonical form of the memories. -/
namespace Sys2Proof.Machine

@[simp] theorem Ctx.reset_wf (x : Ctx) (kind : ResetKind) (h : x.chip.mem.wf = true) :
    (x.reset kind).chip.mem.wf = true := by
  induction kind generalizing x
  all_goals (try simp only [Ctx.reset])
  all_goals repeat' (first | with_reducible assumption | intro _ | with_reducible apply Ctx.fundamental_wf | with_reducible apply Ctx.watchdog_wf | simp | split | (apply_assumption))

@[simp] theorem Ctx.fundamental_wf (x : Ctx) (kind : ResetKind) (h : x.chip.mem.wf = true) :
    (x.fundamental kind).chip.mem.wf = true := by
  unfold Ctx.fundamental; (try dsimp only)
  repeat' (first | with_reducible assumption | intro _ | with_reducible apply Ctx.reset_wf | simp | split)

@[simp] theorem Ctx.linkDown_wf (x : Ctx) (h : x.chip.mem.wf = true) :
    (x.linkDown).chip.mem.wf = true := by
  unfold Ctx.linkDown; (try dsimp only)
  repeat' (first | with_reducible assumption | intro _ | with_reducible apply Ctx.linkL0_wf | simp | split)

@[simp] theorem Ctx.setReady_wf (x : Ctx) (h : x.chip.mem.wf = true) :
    (x.setReady).chip.mem.wf = true := by
  unfold Ctx.setReady; (try dsimp only)
  repeat' (first | with_reducible assumption | intro _ | with_reducible apply Ctx.stewardFault_wf | with_reducible apply Ctx.watchdog_wf | with_reducible apply Ctx.foldl_wf | with_reducible apply Ctx.pair_wf | simp | split)

@[simp] theorem Ctx.tryReady_wf (x : Ctx) (h : x.chip.mem.wf = true) :
    (x.tryReady).chip.mem.wf = true := by
  unfold Ctx.tryReady; (try dsimp only)
  repeat' (first | with_reducible assumption | intro _ | with_reducible apply Ctx.fundamental_wf | with_reducible apply Ctx.setReady_wf | simp | split)

@[simp] theorem Ctx.linkL0_wf (x : Ctx) (h : x.chip.mem.wf = true) :
    (x.linkL0).chip.mem.wf = true := by
  unfold Ctx.linkL0; (try dsimp only)
  repeat' (first | with_reducible assumption | intro _ | with_reducible apply Ctx.tryReady_wf | simp | split)

@[simp] theorem Ctx.firmwareLoaded_wf (x : Ctx) (version : Word32) (build : Word32) (minor : Byte) (h : x.chip.mem.wf = true) :
    (x.firmwareLoaded version build minor).chip.mem.wf = true := by
  unfold Ctx.firmwareLoaded; (try dsimp only)
  repeat' (first | with_reducible assumption | intro _ | with_reducible apply Ctx.hbmTrained_wf | with_reducible apply Ctx.tryReady_wf | simp | split)

@[simp] theorem Ctx.hbmTrained_wf (x : Ctx) (h : x.chip.mem.wf = true) :
    (x.hbmTrained).chip.mem.wf = true := by
  unfold Ctx.hbmTrained; (try dsimp only)
  repeat' (first | with_reducible assumption | intro _ | with_reducible apply Ctx.tryReady_wf | simp | split)

@[simp] theorem Ctx.hbmFailed_wf (x : Ctx) (h : x.chip.mem.wf = true) :
    (x.hbmFailed).chip.mem.wf = true := by
  unfold Ctx.hbmFailed; (try dsimp only)
  repeat' (first | with_reducible assumption | intro _ | with_reducible apply Ctx.hbmTrained_wf | simp | split)

@[simp] theorem Ctx.zeroingDone_wf (x : Ctx) (h : x.chip.mem.wf = true) :
    (x.zeroingDone).chip.mem.wf = true := by
  unfold Ctx.zeroingDone; (try dsimp only)
  repeat' (first | with_reducible assumption | intro _ | with_reducible apply Ctx.hbmTrained_wf | with_reducible apply Ctx.tryReady_wf | simp | split)

@[simp] theorem Ctx.resetDone_wf (x : Ctx) (h : x.chip.mem.wf = true) :
    (x.resetDone).chip.mem.wf = true := by
  unfold Ctx.resetDone; (try dsimp only)
  repeat' (first | with_reducible assumption | intro _ | with_reducible apply Ctx.fundamental_wf | with_reducible apply Ctx.setReady_wf | simp | split)

@[simp] theorem Ctx.flr_wf (x : Ctx) (h : x.chip.mem.wf = true) :
    (x.flr).chip.mem.wf = true := by
  unfold Ctx.flr; (try dsimp only)
  repeat' (first | with_reducible assumption | intro _ | with_reducible apply Ctx.linkL0_wf | with_reducible apply Ctx.reset_wf | with_reducible apply Ctx.watchdog_wf | simp | split)

@[simp] theorem Ctx.faultCode_wf (x : Ctx) (code : Nat) (h : x.chip.mem.wf = true) :
    (x.faultCode code).chip.mem.wf = true := by
  unfold Ctx.faultCode; (try dsimp only)
  repeat' (first | with_reducible assumption | intro _ | with_reducible apply Ctx.stewardFault_wf | simp | split)

@[simp] theorem Ctx.watchdog_wf (x : Ctx) (code : Nat) (h : x.chip.mem.wf = true) :
    (x.watchdog code).chip.mem.wf = true := by
  unfold Ctx.watchdog; (try dsimp only)
  repeat' (first | with_reducible assumption | intro _ | with_reducible apply Ctx.faultCode_wf | with_reducible apply Ctx.reset_wf | with_reducible apply Ctx.flr_wf | simp | split)

@[simp] theorem Ctx.stewardFault_wf (x : Ctx) (code : Nat) (id : Nat) (h : x.chip.mem.wf = true) :
    (x.stewardFault code id).chip.mem.wf = true := by
  unfold Ctx.stewardFault; (try dsimp only)
  repeat' (first | with_reducible assumption | intro _ | with_reducible apply Ctx.errorEnd_wf | with_reducible apply Ctx.stepStall_wf | with_reducible apply Ctx.watchdog_wf | simp | split)

@[simp] theorem Ctx.hostLinkFatal_wf (x : Ctx) (kind : LinkFatal) (h : x.chip.mem.wf = true) :
    (x.hostLinkFatal kind).chip.mem.wf = true := by
  unfold Ctx.hostLinkFatal; (try dsimp only)
  repeat' (first | with_reducible assumption | intro _ | with_reducible apply Ctx.linkL0_wf | simp | split)

@[simp] theorem Ctx.dormantEntered_wf (x : Ctx) (h : x.chip.mem.wf = true) :
    (x.dormantEntered).chip.mem.wf = true := by
  unfold Ctx.dormantEntered; (try dsimp only)
  repeat' (first | with_reducible assumption | intro _ | with_reducible apply Ctx.restLink_wf | simp | split)

@[simp] theorem Ctx.woken_wf (x : Ctx) (h : x.chip.mem.wf = true) :
    (x.woken).chip.mem.wf = true := by
  unfold Ctx.woken; (try dsimp only)
  repeat' (first | with_reducible assumption | intro _ | with_reducible apply Ctx.restLink_wf | simp | split)

end Sys2Proof.Machine
end

