-- ==== Sys2Proof/Laws/MemManage.lean ====
section
/-! SUPPORT. The operations of Machine/Manage.lean keep the canonical form of the memories. -/
namespace Sys2Proof.Machine

@[simp] theorem Ctx.noticed_wf (x : Ctx) (h : x.chip.mem.wf = true) :
    (x.noticed).chip.mem.wf = true := by
  unfold Ctx.noticed; (try dsimp only)
  repeat' (first | with_reducible assumption | intro _ | with_reducible apply Ctx.endWork_wf | simp | split)

end Sys2Proof.Machine
end

