-- ==== Sys2Proof/Laws/MemTick.lean ====
section
/-! SUPPORT. The operations of Machine/Tick.lean keep the canonical form of the memories. -/
namespace Sys2Proof.Machine

@[simp] theorem Ctx.takeUpset_wf (x : Ctx) (u : Config.Upset) (h : x.chip.mem.wf = true) :
    (x.takeUpset u).chip.mem.wf = true := by
  unfold Ctx.takeUpset; (try dsimp only)
  repeat' (first | with_reducible assumption | intro _ | with_reducible apply Ctx.setStore_wf | with_reducible apply Ctx.store_wf | with_reducible apply Memory.store_wf | with_reducible apply Memory.setStore_wf | with_reducible apply Store.write_wf | with_reducible apply Store.blur_wf | simp only [Store.wf_mk] | simp | split)

@[simp] theorem Ctx.maybeUpset_wf (x : Ctx) (h : x.chip.mem.wf = true) :
    (x.maybeUpset).chip.mem.wf = true := by
  unfold Ctx.maybeUpset; (try dsimp only)
  repeat' (first | with_reducible assumption | intro _ | with_reducible apply Ctx.takeUpset_wf | simp | split)

@[simp] theorem Ctx.bootRom_wf (x : Ctx) (h : x.chip.mem.wf = true) :
    (x.bootRom).chip.mem.wf = true := by
  unfold Ctx.bootRom; (try dsimp only)
  repeat' (first | with_reducible assumption | intro _ | with_reducible apply Ctx.hbmTrained_wf | simp | split)

@[simp] theorem Ctx.tick_wf (x : Ctx) (h : x.chip.mem.wf = true) :
    (x.tick).chip.mem.wf = true := by
  unfold Ctx.tick; (try dsimp only)
  repeat' (first | with_reducible assumption | intro _ | with_reducible apply Ctx.bootRom_wf | with_reducible apply Ctx.maybeUpset_wf | with_reducible apply Ctx.traceCycle_wf | simp | split)

end Sys2Proof.Machine
end

