-- ==== Sys2Proof/Laws/Runs.lean ====
section
/-! SUPPORT. How to show that a command completes. -/
namespace Sys2Proof

open Machine

@[simp] theorem ctxOf_c (s : State) (c : Fin 8) : (ctxOf s c).c = c := rfl
@[simp] theorem ctxOf_now (s : State) (c : Fin 8) : (ctxOf s c).now = s.now := rfl
@[simp] theorem ctxOf_chip (s : State) (c : Fin 8) : (ctxOf s c).chip = chipAt s c := rfl
@[simp] theorem ctxOf_out (s : State) (c : Fin 8) : (ctxOf s c).out = [] := rfl

/-- A meaning that acts on one chip of `s'` runs there. -/
theorem runsFrom_of_chip {c : Fin 8} {i : Instr} {s s' : State} {f : Ctx → Ctx} {P : Chip → List Out → Prop}
    (h : exec i s = chipNext c f s') (hp : P (f (ctxOf s' c)).chip (f (ctxOf s' c)).out) : RunsFrom c i s s' P :=
  ⟨onChip c f s', h, fun _ hd => onChip_other _ _ _ _ hd, rfl, rfl, rfl, _, onChip_out .., onChip_ring .., by
    have : chipAt (onChip c f s') c = (f (ctxOf s' c)).chip := onChip_same ..
    rw [this]; exact hp⟩

/-- A meaning that acts on one chip runs there. -/
theorem runs_of_chip {c : Fin 8} {i : Instr} {s : State} {f : Ctx → Ctx} {P : Chip → List Out → Prop}
    (h : exec i s = chipNext c f s) (hp : P (f (ctxOf s c)).chip (f (ctxOf s c)).out) : Runs c i s P := runsFrom_of_chip h hp

end Sys2Proof
end

