-- ==== Sys2Proof/Laws/Ops.lean ====
section
/-! SUPPORT. What ending a command does: its completion is sent, and it is no longer among the fetched commands. -/
namespace Sys2Proof.Machine

/-! ## What has been sent stays sent -/

/-- `y` has sent all that `x` has, and holds no command that `x` does not. -/
def Ctx.Follows (x y : Ctx) : Prop := x.out <+: y.out ∧ ∀ k ∈ y.chip.stew.cmds, ∃ j ∈ x.chip.stew.cmds, k.id = j.id

theorem Ctx.Follows.refl (x : Ctx) : x.Follows x := ⟨List.prefix_rfl, fun k h => ⟨k, h, rfl⟩⟩

theorem Ctx.Follows.trans {x y z : Ctx} (a : x.Follows y) (b : y.Follows z) : x.Follows z :=
  ⟨a.1.trans b.1, fun k h => by
    obtain ⟨j, hj, e⟩ := b.2 k h
    obtain ⟨i, hi, f⟩ := a.2 j hj
    exact ⟨i, hi, e.trans f⟩⟩

/-- A change of a chip that keeps its Steward and sends more. -/
theorem Ctx.Follows.of_stew {x y : Ctx} (h : y.chip.stew.cmds = x.chip.stew.cmds) (ho : x.out <+: y.out) : x.Follows y :=
  ⟨ho, fun k hk => ⟨k, h ▸ hk, rfl⟩⟩

theorem Ctx.Follows.mem {x y : Ctx} (h : x.Follows y) {o : Out} (ho : o ∈ x.out) : o ∈ y.out := h.1.subset ho

theorem Ctx.Follows.ended {x y : Ctx} (h : x.Follows y) {id : Nat} (hx : Ended id x.chip) : Ended id y.chip := fun k hk => by
  obtain ⟨j, hj, e⟩ := h.2 k hk
  exact e ▸ hx j hj

theorem Ctx.foldl_follows {α : Type} (g : Ctx → α → Ctx) (hg : ∀ (x : Ctx) (a : α), x.Follows (g x a)) (l : List α) (x : Ctx) :
    x.Follows (l.foldl g x) := by
  induction l generalizing x with
  | nil => exact .refl x
  | cons a r ih => exact (hg x a).trans (ih _)

theorem Ctx.postWrite_follows (x : Ctx) (relaxed : Bool) (a : Nat) (d : Bytes) : x.Follows (x.postWrite relaxed a d) := by
  unfold Ctx.postWrite; split
  · exact .refl x
  · exact .of_stew (by simp) (by simp)

theorem Ctx.hostWrite_follows (x : Ctx) (a : Nat) (d : Bytes) : x.Follows (x.hostWrite a d) := Ctx.postWrite_follows _ _ _ _

theorem Ctx.raise_follows (x : Ctx) (v : Nat) : x.Follows (x.raise v) := by
  unfold Ctx.raise; dsimp only; split
  · exact .refl x
  · split
    · exact .of_stew (by simp) (by simp)
    · exact .of_stew (by simp) (by simp)

theorem Ctx.signal_follows (x : Ctx) (q : Nat) (quiet : Bool) : x.Follows (x.signal q quiet) := by
  unfold Ctx.signal; dsimp only; split
  · exact .refl x
  · split
    · exact (Ctx.Follows.of_stew (y := x.setQp q _) rfl (by simp [Ctx.setQp])).trans (Ctx.raise_follows _ _)
    · exact .of_stew rfl (by simp [Ctx.setQp])

theorem Ctx.writeEntry_follows (x : Ctx) (k : Cpl) : x.Follows (x.writeEntry k) :=
  have h := Ctx.hostWrite_follows (x.workFor (.qp k.qp)) ((x.qp k.qp).cqBase + 32 * ((x.qp k.qp).posted % (x.qp k.qp).cqDepth))
    (cplBytes (x.qp k.qp) k)
  ⟨by simpa [Ctx.writeEntry, Ctx.setQp] using h.1, by simpa [Ctx.writeEntry, Ctx.setQp] using h.2⟩

theorem Ctx.post_follows (x : Ctx) (k : Cpl) : x.Follows (x.post k) := by
  unfold Ctx.post; split
  · exact (Ctx.writeEntry_follows _ _).trans (Ctx.signal_follows _ _ _)
  · exact .of_stew rfl (by simp)

theorem Ctx.dropCmd_follows (x : Ctx) (id : Nat) : x.Follows (x.dropCmd id) :=
  ⟨by simp [Ctx.dropCmd], fun k h => ⟨k, (List.mem_filter.1 h).1, rfl⟩⟩

theorem Ctx.dropCmd_ended (x : Ctx) (id : Nat) : Ended id (x.dropCmd id).chip := fun k h => by
  simpa using (List.mem_filter.1 h).2

theorem Ctx.endCmd_follows (x : Ctx) (k : Cmd) (late : Bool) (s r0 r1 : Nat) : x.Follows (x.endCmd k late s r0 r1) :=
  (Ctx.dropCmd_follows _ _).trans (Ctx.post_follows _ _)

theorem Ctx.settleDelete_follows (x : Ctx) (k : Cmd) : x.Follows (x.settleDelete k) := by
  unfold Ctx.settleDelete; dsimp only; split
  · exact (Ctx.Follows.of_stew (y := x.setQp _ _) rfl (by simp [Ctx.setQp])).trans (Ctx.endCmd_follows _ _ _ _ _ _)
  · exact .refl x

theorem Ctx.settle_follows (x : Ctx) : x.Follows x.settle := Ctx.foldl_follows _ Ctx.settleDelete_follows _ _

/-! ## Posting a completion -/

theorem Ctx.hostWrite_out (x : Ctx) (a : Nat) (d : Bytes) (h : x.chip.boot.linkFatal = false) (hd : d ≠ []) :
    (x.hostWrite a d).out = x.out ++ [.hostWrite x.c a d false false] := by
  unfold Ctx.hostWrite Ctx.postWrite; simp [h, hd]

theorem cplBytes_ne (p : QPair) (k : Cpl) : cplBytes p k ≠ [] := by simp [cplBytes, toLE]

/-- A completion that its queue takes is written to the queue's next entry. -/
theorem Ctx.post_mem (x : Ctx) (k : Cpl) (hc : x.canPost k.qp false = true) (hh : ∀ h ∈ x.chip.stew.held, h.qp ≠ k.qp) :
    Out.hostWrite x.c ((x.qp k.qp).cqBase + 32 * ((x.qp k.qp).posted % (x.qp k.qp).cqDepth)) (cplBytes (x.qp k.qp) k) false false ∈ (x.post k).out := by
  have hf : x.chip.boot.linkFatal = false := by
    unfold Ctx.canPost at hc; simp only [Bool.and_eq_true, Bool.not_eq_true'] at hc; exact hc.1.2
  have hn : (x.chip.stew.held.any fun h => h.qp == k.qp) = false := by
    simpa using hh
  unfold Ctx.post
  rw [if_pos (by simp [hc]; exact hh)]
  refine (Ctx.signal_follows _ _ _).mem ?_
  unfold Ctx.writeEntry
  simp [Ctx.setQp, Ctx.hostWrite_out (x.workFor _) _ _ (by simpa using hf) (cplBytes_ne _ _)]

@[simp] theorem Ctx.dropCmd_qp (x : Ctx) (id q : Nat) : (x.dropCmd id).qp q = x.qp q := rfl

/-! ## Ending a command -/

theorem Ctx.logStatus_stew (x : Ctx) (k : Cmd) (s r0 r1 : Nat) :
    (x.logStatus k s r0 r1).chip.stew = x.chip.stew ∧ (x.logStatus k s r0 r1).out = x.out := by
  unfold Ctx.logStatus Ctx.ras; (repeat' split) <;> simp

/-- The command ended is no longer fetched, and its completion is sent where its queue takes it. -/
theorem Ctx.endCmd_spec (x : Ctx) (k : Cmd) (late : Bool) (s r0 r1 : Nat) :
    Ended k.id (x.endCmd k late s r0 r1).chip ∧
    (x.canPost k.qp false = true → (∀ h ∈ x.chip.stew.held, h.qp ≠ k.qp) →
      Out.hostWrite x.c ((x.qp k.qp).cqBase + 32 * ((x.qp k.qp).posted % (x.qp k.qp).cqDepth))
        (cplBytes (x.qp k.qp) ⟨k.qp, s, k.tag, r0, r1, late, k.quiet, x.time, k.id, k.opcode⟩) false false ∈ (x.endCmd k late s r0 r1).out) :=
  ⟨(Ctx.post_follows _ _).ended (Ctx.dropCmd_ended _ _), fun hc hh => Ctx.post_mem (x.dropCmd k.id) _ hc hh⟩

theorem Ctx.finishLate_spec (x : Ctx) (k : Cmd) (late : Bool) (s r0 r1 : Nat) (b : Bytes) :
    Ended k.id (x.finishLate k late s r0 r1 b).chip ∧
    (x.canPost k.qp false = true → (∀ h ∈ x.chip.stew.held, h.qp ≠ k.qp) →
      Out.hostWrite x.c ((x.qp k.qp).cqBase + 32 * ((x.qp k.qp).posted % (x.qp k.qp).cqDepth))
        (cplBytes (x.qp k.qp) ⟨k.qp, s, k.tag, r0, r1, late, k.quiet, x.time, k.id, k.opcode⟩) false false ∈ (x.finishLate k late s r0 r1 b).out) ∧
    x.out <+: (x.finishLate k late s r0 r1 b).out := by
  have key : ∀ y : Ctx, y.c = x.c → y.chip.stew = x.chip.stew → y.chip.boot = x.chip.boot → y.chip.fab = x.chip.fab →
      y.frozen = x.frozen → x.out <+: y.out → Ended k.id ((y.endCmd k late s r0 r1).settle).chip ∧
      (x.canPost k.qp false = true → (∀ h ∈ x.chip.stew.held, h.qp ≠ k.qp) →
      Out.hostWrite x.c ((x.qp k.qp).cqBase + 32 * ((x.qp k.qp).posted % (x.qp k.qp).cqDepth))
        (cplBytes (x.qp k.qp) ⟨k.qp, s, k.tag, r0, r1, late, k.quiet, x.time, k.id, k.opcode⟩) false false ∈ ((y.endCmd k late s r0 r1).settle).out) ∧
      x.out <+: ((y.endCmd k late s r0 r1).settle).out := by
    intro y h1 h2 h3 h4 h5 h6
    have e := Ctx.endCmd_spec y k late s r0 r1
    refine ⟨(Ctx.settle_follows _).ended e.1, fun hc hh => (Ctx.settle_follows _).mem ?_,
      h6.trans ((Ctx.endCmd_follows _ _ _ _ _ _).1.trans (Ctx.settle_follows _).1)⟩
    have q : y.qp k.qp = x.qp k.qp := by unfold Ctx.qp; rw [h2]
    have t : y.time = x.time := by unfold Ctx.time; rw [h4]
    have := e.2 (by unfold Ctx.canPost at hc ⊢; rw [q, h3, h5]; exact hc) (by rw [h2]; exact hh)
    rw [q, t, h1] at this; exact this
  have hl := Ctx.logStatus_stew x k s r0 r1
  have hk := Ctx.logStatus_keeps x k s r0 r1
  have hz : (x.logStatus k s r0 r1).frozen = x.frozen := by
    unfold Ctx.frozen Ctx.logStatus Ctx.ras
    (repeat' split) <;> first | rfl | (simp only [Ctx.onObs_obs]; split <;> rfl)
  unfold Ctx.finishLate Ctx.finishLogged
  dsimp only
  split
  · exact key _ hk.2.2.2.2.2.2.2.2.2.2.1 hl.1 hk.1 hk.2.2.2.2.2.2.2.1 hz ⟨[], by simp [hl.2]⟩
  · refine key _ (by simp) (by simp) (by simp) (by simp) ?_ ?_
    · rw [← hz]; unfold Ctx.frozen; simp
    · exact (show x.out <+: (x.logStatus k s r0 r1).out from ⟨[], by simp [hl.2]⟩).trans ((Ctx.postWrite_follows _ _ _ _).1.trans
        ((Ctx.postWrite_follows _ _ _ _).1.trans (Ctx.hostWrite_follows _ _ _).1))

/-- `Ctx.done` after a change `y` of `x` that keeps what a completion looks at. -/
theorem Ctx.done_completes {c : Fin 8} {h : Chip} (y : Ctx) (k : Cmd) (s r0 r1 : Nat) (hc : y.c = c) (hs : y.chip.stew.qps = h.stew.qps)
    (hf : y.chip.fab.time = h.fab.time) (hp : y.canPost k.qp false = true) (hh : ∀ j ∈ y.chip.stew.held, j.qp ≠ k.qp) :
    Completes c h k s r0 r1 (y.done k s r0 r1).out ∧ Ended k.id (y.done k s r0 r1).chip := by
  have e := Ctx.finishLate_spec y k false s r0 r1 []
  refine ⟨?_, e.1⟩
  have := e.2.1 hp hh
  unfold Completes
  rw [← hs, ← hf, ← hc]
  exact this

theorem Ctx.refuse_spec (x : Ctx) (k : Cmd) (s r0 r1 : Nat) :
    Ended k.id (x.refuse k s r0 r1).chip ∧
    (x.canPost k.qp false = true → (∀ h ∈ x.chip.stew.held, h.qp ≠ k.qp) →
      Out.hostWrite x.c ((x.qp k.qp).cqBase + 32 * ((x.qp k.qp).posted % (x.qp k.qp).cqDepth))
        (cplBytes (x.qp k.qp) ⟨k.qp, s, k.tag, r0, r1, false, k.quiet, x.time, k.id, k.opcode⟩) false false ∈ (x.refuse k s r0 r1).out) := by
  have key : ∀ y : Ctx, y.c = x.c → y.chip.stew = x.chip.stew → y.chip.boot = x.chip.boot → y.chip.fab = x.chip.fab →
      y.frozen = x.frozen → Ended k.id ((y.endCmd k false s r0 r1).settle).chip ∧
      (x.canPost k.qp false = true → (∀ h ∈ x.chip.stew.held, h.qp ≠ k.qp) →
      Out.hostWrite x.c ((x.qp k.qp).cqBase + 32 * ((x.qp k.qp).posted % (x.qp k.qp).cqDepth))
        (cplBytes (x.qp k.qp) ⟨k.qp, s, k.tag, r0, r1, false, k.quiet, x.time, k.id, k.opcode⟩) false false ∈ ((y.endCmd k false s r0 r1).settle).out) := by
    intro y h1 h2 h3 h4 h5
    have e := Ctx.endCmd_spec y k false s r0 r1
    refine ⟨(Ctx.settle_follows _).ended e.1, fun hc hh => (Ctx.settle_follows _).mem ?_⟩
    have q : y.qp k.qp = x.qp k.qp := by unfold Ctx.qp; rw [h2]
    have t : y.time = x.time := by unfold Ctx.time; rw [h4]
    have := e.2 (by unfold Ctx.canPost at hc ⊢; rw [q, h3, h5]; exact hc) (by rw [h2]; exact hh)
    rw [q, t, h1] at this; exact this
  have hz : (x.logStatus k s r0 r1).frozen = x.frozen := by
    unfold Ctx.frozen Ctx.logStatus Ctx.ras
    (repeat' split) <;> first | rfl | (simp only [Ctx.onObs_obs]; split <;> rfl)
  unfold Ctx.refuse
  dsimp only
  split
  · exact key _ (by simp) (by simp) (by simp) (by simp) hz
  · exact key _ (by simp) (by simp) (by simp) (by simp) (by rw [← hz]; unfold Ctx.frozen; simp)

/-! ## Starting a command -/

/-- What the start of a command keeps of what its end looks at. -/
theorem Ctx.begin_same (x : Ctx) (k : Cmd) :
    (x.begin k).out = x.out ∧ (x.begin k).chip.stew = x.chip.stew ∧ (x.begin k).chip.fab = x.chip.fab ∧
      ∀ q e, (x.begin k).canPost q e = x.canPost q e := by
  have ho : (x.begin k).out = x.out := by simp [Ctx.begin]
  refine ⟨ho, by simp, by simp, fun q e => ?_⟩
  unfold Ctx.canPost Ctx.frozen Ctx.qp; simp

/-- A command that can run starts. -/
theorem run_eq {s : State} {c : Fin 8} {k : Cmd} (h : CanRun c k s) {op : Nat} {sub : Cmd → Bool} {f : Cmd → Ctx → Ctx}
    (hs : k.opcode = op ∧ sub k = true) : (ctxOf s c).run k.id op sub f = f k ((ctxOf s c).begin k) := by
  obtain ⟨h1, h2, h3, -, -⟩ := h
  unfold Ctx.run Ctx.start?
  rw [h1]
  simp only [h2, hs.1, hs.2, h3, and_self, if_true]

/-- A command that can run completes. -/
theorem done_can {s : State} {c : Fin 8} {k : Cmd} (h : CanRun c k s) (st r0 r1 : Nat) :
    Completes c (chipAt s c) k st r0 r1 (((ctxOf s c).begin k).done k st r0 r1).out ∧
      Ended k.id (((ctxOf s c).begin k).done k st r0 r1).chip :=
  have b := Ctx.begin_same (ctxOf s c) k
  Ctx.done_completes _ _ _ _ _ (by simp) (by rw [b.2.1]; rfl) (by rw [b.2.2.1]; rfl) ((b.2.2.2 _ _).trans h.2.2.2.1)
    (by rw [b.2.1]; exact h.2.2.2.2)

theorem refuse_can {s : State} {c : Fin 8} {k : Cmd} (h : CanRun c k s) (st r0 r1 : Nat) :
    Completes c (chipAt s c) k st r0 r1 (((ctxOf s c).begin k).refuse k st r0 r1).out ∧
      Ended k.id (((ctxOf s c).begin k).refuse k st r0 r1).chip := by
  have b := Ctx.begin_same (ctxOf s c) k
  have e := Ctx.refuse_spec ((ctxOf s c).begin k) k st r0 r1
  refine ⟨?_, e.1⟩
  have := e.2 ((b.2.2.2 _ _).trans h.2.2.2.1) (by rw [b.2.1]; exact h.2.2.2.2)
  unfold Ctx.time Ctx.qp at this
  rw [b.2.1, b.2.2.1] at this
  simpa using this

end Sys2Proof.Machine
end

