-- ==== Sys2Proof/Laws/Ports.lean ====
section
/-! SUPPORT. What the small operations on a Hivelink port do. -/
namespace Sys2Proof.Machine

@[simp] theorem Ctx.port_setPort (x : Ctx) (p : Nat) (v : Port) : (x.setPort p v).port p = v := by simp [Ctx.port, Ctx.setPort]

@[simp] theorem Ctx.setPort_setPort (x : Ctx) (p : Nat) (v w : Port) : (x.setPort p v).setPort p w = x.setPort p w := by
  simp [Ctx.setPort, Ctx.onFab, tset_tset]

@[simp] theorem Ctx.setPort_out (x : Ctx) (p : Nat) (v : Port) : (x.setPort p v).out = x.out := rfl

theorem Ctx.setPort_chip (s : State) (c : Fin 8) (p : Fin 18) (v : Port) :
    ((ctxOf s c).setPort p v).chip = withPort (chipAt s c) p v := rfl

theorem Ctx.port_ctxOf (s : State) (c : Fin 8) (p : Nat) : (ctxOf s c).port p = tget .initial (chipAt s c).fab.ports p := rfl

theorem Ctx.onDriz_setPort (x : Ctx) (p : Nat) (v : Port) (f : Drizzle → Drizzle) :
    (x.setPort p v).onDriz p f = x.setPort p { v with driz := f v.driz } := by simp [Ctx.onDriz, Ctx.onPort]

theorem Ctx.sendMgmt_setPort (x : Ctx) (p k : Nat) (v : Port) (b : Bytes) :
    (x.setPort p v).sendMgmt p k b = x.setPort p { v with mgmtTx := v.mgmtTx ++ [(k, b)] } := by simp [Ctx.sendMgmt, Ctx.onPort]

/-- A link message of the code asked for is taken, and `f` runs on the port that has taken it. -/
theorem Ctx.onMgmt_eq (x : Ctx) (p code : Nat) (f : Ctx → Ctx) (b : Bytes) (r : List (Nat × Bytes))
    (h : (x.port p).mgmtRx = (2, b) :: r) (hc : byteAt b 0 = code) :
    x.onMgmt p code f = f (x.setPort p (tookMgmt (x.port p) r)) := by
  have e : x.takeMgmt p 2 code = some (x.setPort p (tookMgmt (x.port p) r), b) := by
    simp only [Ctx.takeMgmt, h, hc, and_self, if_true]; rfl
  simp only [Ctx.onMgmt, e]

/-- With no such message at the head nothing happens. -/
theorem Ctx.onMgmt_none (x : Ctx) (p code : Nat) (f : Ctx → Ctx)
    (h : ∀ m, (x.port p).mgmtRx.head? = some m → ¬(m.1 = 2 ∧ byteAt m.2 0 = code)) : x.onMgmt p code f = x := by
  have e : x.takeMgmt p 2 code = none := by
    unfold Ctx.takeMgmt; dsimp only
    match e : (x.port p).mgmtRx with
    | [] => rfl
    | (k, b) :: r => simp only; rw [if_neg (h (k, b) (by rw [e]; rfl))]
  simp only [Ctx.onMgmt, e]

/-- With no message waiting for room nothing is offered. -/
theorem Ctx.offerRoom_idle (x : Ctx) (h : x.chip.fab.txWait = []) : x.offerRoom = x := by
  have e : x.onFab (fun f => { f with txWait := [] }) = x := by
    obtain ⟨c, n, fr, ch, o, u⟩ := x; obtain ⟨_, _, _, _, _, _, _, fab, _, _, _⟩ := ch; cases fab; simp_all [Ctx.onFab]
  unfold Ctx.offerRoom; rw [h, e]; rfl

/-- With no message waiting for a port or for room nothing is offered. -/
theorem Ctx.offerWaiting_idle (x : Ctx) (h : x.chip.fab.txWait = []) (hn : x.chip.fab.noPort = []) : x.offerWaiting = x := by
  have e : ∀ g : WaitMsg → Bool, x.onFab (fun f => { f with noPort := f.noPort.filter g }) = x := fun g => by
    obtain ⟨c, n, fr, ch, o, u⟩ := x; obtain ⟨_, _, _, _, _, _, _, fab, _, _, _⟩ := ch; cases fab; simp_all [Ctx.onFab]
  unfold Ctx.offerWaiting; dsimp only; rw [hn, e]; exact offerRoom_idle x h

/-- A wake event ends Dormant and wakes the ports (02 R60). -/
theorem Ctx.wakeEvent_dormant (x : Ctx) (hp : x.chip.boot.pstate = .dormant) (hq : x.chip.boot.waking = false) :
    x.wakeEvent = (x.onBoot fun b => { b with waking := true }).onFab Fabric.wakePorts := by
  unfold Ctx.wakeEvent; rw [hp]; simp only [hq]; rfl

end Sys2Proof.Machine
end

