-- ==== Sys2Proof/Laws/Read.lean ====
section
/-! SUPPORT. What a byte of a chip's memories reads as after the operations of Machine/MemOps.lean: a write changes the bytes
written, and finding, correcting and poisoning change none. -/
namespace Sys2Proof.Machine

/-- Two chips read the same in every byte of every memory. -/
def SameBytes (m n : Memory) : Prop := ∀ q k, (m.store q).read k = (n.store q).read k

theorem SameBytes.refl (m : Memory) : SameBytes m m := fun _ _ => rfl
theorem SameBytes.trans {a b c : Memory} (h : SameBytes a b) (g : SameBytes b c) : SameBytes a c := fun q k => (h q k).trans (g q k)
theorem SameBytes.of_eq {m n : Memory} (h : m = n) : SameBytes m n := h ▸ .refl m

theorem Store.read_congr (s t : Store) (hc : t.cells = s.cells) (hu : t.undef = s.undef) (k : Nat) : t.read k = s.read k := by
  simp [Store.read, Store.unlisted, hc, hu]

/-- Which memory a name of a store means: dies 0 to 3, the HBM data space 4, the HBM system space 5. -/
def Spc.slot : Spc → Nat
  | .sram d => min d 3
  | .hbm => 4
  | .system => 5

theorem Memory.store_slot (m : Memory) (p : Spc) :
    m.store p = if p.slot = 0 then m.sram0 else if p.slot = 1 then m.sram1 else if p.slot = 2 then m.sram2
      else if p.slot = 3 then m.sram3 else if p.slot = 4 then m.hbm else m.system := by
  unfold Memory.store
  split <;> try rfl
  · rename_i d h0 h1 h2
    have : min d 3 = 3 := by
      have : d ≠ 0 := fun e => h0 e
      have : d ≠ 1 := fun e => h1 e
      have : d ≠ 2 := fun e => h2 e
      omega
    simp [Spc.slot, this]

/-- The stores after one of them is replaced. -/
theorem Memory.store_setStore (m : Memory) (p q : Spc) (s : Store) :
    (m.setStore p s).store q = if q.slot = p.slot then s else m.store q := by
  have hp : p.slot = 0 ∨ p.slot = 1 ∨ p.slot = 2 ∨ p.slot = 3 ∨ p.slot = 4 ∨ p.slot = 5 := by
    cases p <;> simp [Spc.slot] <;> omega
  have hq : q.slot = 0 ∨ q.slot = 1 ∨ q.slot = 2 ∨ q.slot = 3 ∨ q.slot = 4 ∨ q.slot = 5 := by
    cases q <;> simp [Spc.slot] <;> omega
  have hs : m.setStore p s = if p.slot = 0 then { m with sram0 := s } else if p.slot = 1 then { m with sram1 := s }
      else if p.slot = 2 then { m with sram2 := s } else if p.slot = 3 then { m with sram3 := s }
      else if p.slot = 4 then { m with hbm := s } else { m with system := s } := by
    unfold Memory.setStore
    split <;> try rfl
    rename_i d h0 h1 h2
    have : min d 3 = 3 := by
      have : d ≠ 0 := fun e => h0 e
      have : d ≠ 1 := fun e => h1 e
      have : d ≠ 2 := fun e => h2 e
      omega
    simp [Spc.slot, this]
  rw [Memory.store_slot, Memory.store_slot, hs]
  rcases hp with h | h | h | h | h | h <;> rcases hq with g | g | g | g | g | g <;> simp [h, g]

theorem Memory.store_setStore_same (m : Memory) (p : Spc) (s : Store) : (m.setStore p s).store p = s := by
  rw [Memory.store_setStore, if_pos rfl]

theorem Memory.store_congr (m : Memory) {p q : Spc} (h : q.slot = p.slot) : m.store q = m.store p := by
  rw [Memory.store_slot, Memory.store_slot, h]

/-- Replacing a store by one with the bytes of another. -/
theorem Memory.setStore_congr (m : Memory) (p : Spc) (s t : Store) (hc : s.cells = t.cells) (hu : s.undef = t.undef) :
    SameBytes (m.setStore p s) (m.setStore p t) := fun q k => by
  rw [Memory.store_setStore, Memory.store_setStore]
  split
  · exact Store.read_congr _ _ hc hu k
  · rfl

/-- Replacing a store by one with the same bytes. -/
theorem Memory.setStore_same (m : Memory) (p : Spc) (s : Store) (hc : s.cells = (m.store p).cells) (hu : s.undef = (m.store p).undef) :
    SameBytes (m.setStore p s) m := fun q k => by
  rw [Memory.store_setStore]
  split
  · next h => rw [Memory.store_congr m h]; exact Store.read_congr _ _ hc hu k
  · rfl

theorem Ctx.foldl_bytes {α : Type} (g : Ctx → α → Ctx) (hg : ∀ x a, SameBytes (g x a).chip.mem x.chip.mem) (l : List α) (x : Ctx) :
    SameBytes (l.foldl g x).chip.mem x.chip.mem := by
  induction l generalizing x with
  | nil => exact .refl _
  | cons a r ih => exact (ih _).trans (hg x a)

theorem Ctx.ceWindow_bytes (x : Ctx) (p : Spc) (a : Nat) : SameBytes (x.ceWindow p a).chip.mem x.chip.mem := by
  unfold Ctx.ceWindow; dsimp only
  split <;> exact fun q k => by simp; cases q <;> rfl

theorem Ctx.corrected_bytes (x : Ctx) (p : Spc) (a : Nat) : SameBytes (x.corrected p a).chip.mem x.chip.mem := by
  unfold Ctx.corrected; dsimp only
  exact (Ctx.ceWindow_bytes _ _ _).trans (.of_eq (by simp))

theorem Ctx.foundUe_bytes (x : Ctx) (p : Spc) (s : Option Nat) (a : Nat) : SameBytes (x.foundUe p s a).chip.mem x.chip.mem := by
  unfold Ctx.foundUe; dsimp only
  have h : ∀ st : Store, st.cells = (x.store p).cells → st.undef = (x.store p).undef →
      SameBytes (x.setStore p st).chip.mem x.chip.mem := fun st hc hu => Memory.setStore_same x.chip.mem p st hc hu
  (repeat' split) <;> (simp only [Ctx.event_keeps, Ctx.ras_keeps, Ctx.count_keeps]; exact h _ rfl rfl)

theorem Ctx.onDieRead_bytes (x : Ctx) (p : Spc) (a : Nat) : SameBytes (x.onDieRead p a).chip.mem x.chip.mem := by
  unfold Ctx.onDieRead; exact (Ctx.ceWindow_bytes _ _ _).trans (.of_eq (by simp))

theorem Ctx.memEnergy_store (x : Ctx) (p q : Spc) (n : Nat) (s : Store) :
    ((x.memEnergy p n).setStore q s).chip.mem = x.chip.mem.setStore q s := by simp [Ctx.setStore]

/-- Finding, correcting and poisoning change no byte. -/
theorem Ctx.foundAll_bytes (x : Ctx) (p : Spc) (s : Option Nat) (ods pois ces ues : List Nat) :
    SameBytes (ues.foldl (fun x k => x.foundUe p s k) (ces.foldl (fun x k => x.corrected p k) (pois.foldl (fun x k => x.poisonRead p k)
      (ods.foldl (fun x k => x.onDieRead p k) x)))).chip.mem x.chip.mem :=
  (Ctx.foldl_bytes _ (fun _ _ => Ctx.foundUe_bytes _ _ _ _) _ _).trans
    ((Ctx.foldl_bytes _ (fun _ _ => Ctx.corrected_bytes _ _ _) _ _).trans
      ((Ctx.foldl_bytes _ (fun _ _ => .of_eq (by simp)) _ _).trans (Ctx.foldl_bytes _ (fun _ _ => Ctx.onDieRead_bytes _ _ _) _ _)))

theorem Ctx.inspect_bytes (x : Ctx) (p : Spc) (s : Option Nat) (a n : Nat) : SameBytes (x.inspect p s a n).1.chip.mem x.chip.mem := by
  unfold Ctx.inspect; split
  · exact .refl _
  · refine (Ctx.foundAll_bytes _ p s _ _ [] _).trans ?_
    rw [Ctx.memEnergy_store]
    exact Memory.setStore_same x.chip.mem p _ rfl rfl

theorem Ctx.poisonGranule_bytes (x : Ctx) (p : Spc) (g : Nat) : SameBytes (x.poisonGranule p g).chip.mem x.chip.mem :=
  Memory.setStore_same x.chip.mem p _ rfl rfl

/-- A write changes its own memory as `f` does, and nothing else of any memory. -/
theorem Ctx.overwrite_bytes (x : Ctx) (p : Spc) (s : Option Nat) (a n : Nat) (f : Store → Store) (hn : n ≠ 0) :
    SameBytes (x.overwrite p s a n f).chip.mem (x.chip.mem.setStore p (f (x.store p))) := by
  unfold Ctx.overwrite; rw [if_neg hn]; dsimp only
  have key : ∀ st : Store, st.cells = (f (x.store p)).cells → st.undef = (f (x.store p)).undef →
      SameBytes ((x.memEnergy p n).setStore p st).chip.mem (x.chip.mem.setStore p (f (x.store p))) := fun st hc hu => by
    rw [Ctx.memEnergy_store]; exact Memory.setStore_congr _ _ _ _ hc hu
  split
  · refine SameBytes.trans (.of_eq (Ctx.dropTags_keeps _ _ _ _).2.2.2.2.2.1) ((Ctx.foundAll_bytes _ _ s _ _ _ _).trans (key _ rfl rfl))
  · exact (Ctx.foundAll_bytes _ _ s _ _ _ _).trans (key _ rfl rfl)

/-- A write changes the bytes written of its memory, and nothing else of any memory. -/
theorem Ctx.put_bytes (x : Ctx) (p : Spc) (s : Option Nat) (a : Nat) (bs : Bytes) :
    SameBytes (x.put p s a bs).chip.mem (x.chip.mem.setStore p ((x.store p).write a bs)) := by
  unfold Ctx.put
  by_cases h : bs.length = 0
  · unfold Ctx.overwrite; rw [if_pos h]
    intro q k
    rw [Memory.store_setStore]
    split
    · next g => rw [Store.read_write, if_neg (by omega), Memory.store_congr _ g]; rfl
    · rfl
  · exact Ctx.overwrite_bytes _ _ _ _ _ _ h

/-- After a write of `bs` at `a` of memory `p`: the bytes written read as written, every other byte as before. -/
theorem Ctx.put_read (x : Ctx) (p q : Spc) (s : Option Nat) (a : Nat) (bs : Bytes) (k : Nat) :
    ((x.put p s a bs).store q).read k =
      if q.slot = p.slot ∧ a ≤ k ∧ k < a + bs.length then bs.getD (k - a) 0 else (x.store q).read k := by
  show ((x.put p s a bs).chip.mem.store q).read k = _
  rw [Ctx.put_bytes x p s a bs q k, Memory.store_setStore]
  by_cases g : q.slot = p.slot
  · rw [if_pos g, Store.read_write]
    by_cases h : a ≤ k ∧ k < a + bs.length
    · rw [if_pos h, if_pos ⟨g, h⟩]
    · rw [if_neg h, if_neg fun e => h e.2]
      show ((x.chip.mem.store p)).read k = (x.chip.mem.store q).read k
      rw [Memory.store_congr _ g]
  · rw [if_neg g, if_neg fun e => g e.1]; rfl

end Sys2Proof.Machine
end

