-- ==== Sys2Proof/Tests/Slice0.lean ====
section
/-! SUPPORT. Tests: the states they start from, what WellFormed refuses, a witness for the hypotheses of each statement, and small
tests whose expected values come from the spec. -/
namespace Sys2Proof.Tests

open Machine

/-! ## States to start from -/

/-- Change chip 0. -/
def onChip0 (f : Chip → Chip) (s : State) : State := { s with chips := s.chips.set 0 (f (s.chips.get 0)) }

/-- Change the boot state of chip 0. -/
def onBoot0 (f : Boot → Boot) : State → State := onChip0 fun h => { h with boot := f h.boot }

/-- A live queue pair of Super `u` with depth 16. -/
def pair (u : Nat) : QPair := { QPair.none with live := true, super := u, weight := 1, sqDepth := 16, cqDepth := 16, sqBase := 0x10000, cqBase := 0x20000 }

/-- A chip that is READY and Idle, with queue pairs 0 and 1. -/
def ready (h : Chip) : Chip :=
  { h with
    boot := { h.boot with
      rails := .up, pstate := .idle, ready := true, fwRunning := true, hbmTrained := true, zeroed := true, linkL0 := true
      perst := false, pcieUp := true, bootStage := 5 }
    stew := { h.stew with agreed := some 0, qps := [(0, pair 0), (1, pair 0)] } }

/-- The tray with its Ndevas running and chip `c` ready. -/
def works (c : Fin 8) : State :=
  { State.reset with
    chips := State.reset.chips.set c (ready Chip.off)
    nd := { Ndevas.initial with standby := true, running := true, boardOk := true } }

/-- Chip 0 with a Dormant delay in its active policy. -/
def delayed (s : State) : State :=
  onChip0 (fun h => { h with config := { h.config with active := { h.config.active with power := imgWrite h.config.active.power 20 (toLE 4 1) } } }) s

/-- A fetched command of queue pair `q`: its opcode and some bytes of its entry. -/
def cmdAt (q op : Nat) (l : List (Nat × Nat)) : Cmd :=
  ⟨1, q, l.foldl (fun e p => e.set p.1 (BitVec.ofNat 8 p.2)) (toLE 1 op ++ zeroBytes 63), .fetched⟩

def cmdOf (op : Nat) (l : List (Nat × Nat)) : Cmd := cmdAt 0 op l

/-- Chip 0 ready, with `k` fetched. -/
def holding (k : Cmd) : State := onChip0 (fun h => { h with stew := { h.stew with cmds := [k] } }) (works 0)

/-- A copy descriptor: one row of 64 B from host address 0x1000 to HBM address 0x40. -/
def copyToHbm : Bytes :=
  toLE 1 0x10 ++ zeroBytes 7 ++ toLE 4 64 ++ toLE 4 1 ++ toLE 8 0x1000 ++ toLE 8 0x40 ++ toLE 4 64 ++ toLE 4 64 ++ zeroBytes 24

/-- A slot image of one END step. -/
def endOnly : Bytes := (zeroBytes 448).set 8 1

/-- Chip 0 with model 0 of one layer loaded in Super 0. -/
def withModel : State → State :=
  onChip0 fun h => { h with serve := { h.serve with models := [(0, { Model.empty with gen := 1, super := 0, layers := 1 })] } }

/-- Chip 0 with stream `i` of model 0, generation 1, in state `st` with a frame table. -/
def withStream (i : Nat) (st : StreamState) (table : List (List Nat)) (s : State) : State :=
  onChip0 (fun h => { h with serve := { h.serve with
    streams := tset .free h.serve.streams i ⟨st, 1, false, 0, 64 * table.length, table, none⟩ } }) (withModel s)

/-- A decode entry of stream 5, generation 1, at a position, that needs new frame indexes. -/
def plan5 (position frames : Nat) : Bytes :=
  toLE 2 5 ++ toLE 2 1 ++ toLE 4 position ++ [1, 0] ++ toLE 2 frames ++ toLE 4 1 ++ toLE 8 0x1000 ++ zeroBytes 8

/-- The step of command `k` in Super 0 with the one entry `plan5`. -/
def step5 (ph : StepPhase) (k : Cmd) (position frames : Nat) : StepRec :=
  newStep k 0 0 1 1 false [planEntry (plan5 position frames)] ph

/-- Chip 0 with one step; its model has a vocabulary of 8. -/
def withStep (t : StepRec) : State → State :=
  onChip0 fun h => { h with serve := { h.serve with
    steps := [t], models := h.serve.models.map fun e => (e.1, { e.2 with vocab := 8 }) } }

/-- Chip 0 with one unverified draft on stream 5 from position 64. -/
def withTent : State → State :=
  onChip0 fun h => { h with serve := { h.serve with
    streams := tset .free h.serve.streams 5 { tget .free h.serve.streams 5 with
      position := 64, tent := some ⟨64, 1, [[⟨1, 0x3F800000⟩], [⟨2, 0⟩]], [0x3F800000], 1, 2, 0, 1, 0⟩ } } }

/-- Chip 0 with the Combs of die 0 alone in Super 0. -/
def oneDie : State → State :=
  onChip0 fun h => { h with config := { h.config with active := { h.config.active with
    superMap := imgWrite h.config.active.superMap 24 (toLE 16 1) } } }

/-- A segment entry: the program of die 0 for layer 0 at address `a` of the general area, 64 B. -/
def seg1 (a : Nat) : Bytes := [2, 0, 0, 0, 0xFF, 0xFF, 0, 0] ++ toLE 8 0 ++ toLE 8 a ++ toLE 8 64 ++ zeroBytes 16

/-- A manifest of one layer and that one segment. -/
def manifest1 : Bytes := [1, 0, 1, 0, 1, 0, 0, 0] ++ toLE 4 8 ++ zeroBytes 116 ++ seg1 0

/-- Chip 0 with one message in channel `vc` of port 0, in flits of one slot. -/
def withMsg (vc : Nat) (b : Bytes) : State → State :=
  onChip0 fun h => { h with fab := { h.fab with ports := [(0, (Port.initial.setVc vc
    ⟨0, [], (List.range (b.length / 16)).map fun i => [⟨i == 0, (b.drop (16 * i)).take 16, none⟩]⟩))] } }

/-- A model of one layer in a swap from generation 1 to 2. -/
def swapping (st : SwapState) (l : List (Nat × List Seg × List SegData)) : Model :=
  { Model.empty with gen := 1, layers := 1, swap := ⟨st, false, 0, 2, 1000, l⟩ }

/-- An SFU MAP descriptor of slot 0: one row of one element from address 0 to address 64 of the Comb store. -/
def op1 : Bytes :=
  [3, 0, 0, 0, 0, 0, 0, 0] ++ toLE 4 1 ++ toLE 4 1 ++ zeroBytes 8 ++ toLE 4 64 ++ zeroBytes 16 ++ toLE 4 16 ++ toLE 4 16 ++ zeroBytes 12

/-- Chip 0 with its port `p` as `v`. -/
def onPort0 (p : Nat) (v : Port) : State → State :=
  onChip0 fun h => { h with fab := { h.fab with ports := tset .initial h.fab.ports p v } }

/-- Chip 0 Active. -/
def active : State → State := onBoot0 fun b => { b with pstate := .active }

/-- Chip 0 with its die `d` as `v`. -/
def withDie (d : Nat) (v : Die) : State → State :=
  onChip0 fun h => { h with eng := { h.eng with dies := tset .initial h.eng.dies d v } }

/-- Chip 0 with its Comb `k` as `v`. -/
def withComb (k : Nat) (v : Comb) : State → State :=
  onChip0 fun h => { h with eng := { h.eng with combs := tset .empty h.eng.combs k v } }

/-- A FILL of one row, K 32 and N 1 in BF16. -/
def fill1 : Bytes :=
  [1, 0x55, 0, 0, 0, 0, 0, 0] ++ toLE 4 1 ++ toLE 2 32 ++ toLE 2 1 ++ toLE 4 0 ++ toLE 4 0x1000 ++ toLE 4 0x2000 ++ zeroBytes 8 ++
    toLE 2 64 ++ toLE 2 16 ++ toLE 2 16 ++ zeroBytes 22

/-! ## Witnesses: what meets the hypotheses of each statement -/

/-! ### IdleStepIsOneNanosecond -/

theorem wit_IdleStep : State.reset.pending = [] ∧ (chipAt State.reset 0).boot.rails ≠ .up := by decide
theorem wit_IdleStep_up : (works 0).pending = [] ∧ (chipAt (works 0) 0).boot.rails = .up := by decide
theorem wit_IdleStep_sequencing : let s := onBoot0 (fun b => { b with rails := .sequencing }) State.reset
    s.pending = [] ∧ (chipAt s 0).boot.rails = .sequencing := by decide

/-! ### ChipCommandsStayOnTheirChip -/

theorem wit_ChipCommands : chipOf (.flr 3) = some 3 := by decide

/-! ### MemoriesStayCanonical -/

theorem wit_MemoriesStayCanonical : MemoryCanonical State.reset ∧ ∃ t, step State.reset = .next t := ⟨by decide, _, rfl⟩

/-! ### NdevasStaysInBounds -/

theorem wit_NdevasStaysInBounds : LogBounded State.reset ∧ CapInRange State.reset ∧ ∃ t, step State.reset = .next t :=
  ⟨by decide, by decide, _, rfl⟩

/-! ### FundamentalResetsClearTheChip -/

theorem wit_FundamentalResets : (chipAt (works 0) 0).boot.rails = .up ∧ (chipAt (works 0) 0).boot.works = true ∧ (works 0).nd.running = true := by decide

/-! ### FunctionAndWatchdogResets -/

theorem wit_FunctionReset : (chipAt (works 0) 0).boot.linkL0 = true ∧ (chipAt (works 0) 0).boot.works = true := by decide
theorem wit_StewardFault : 1 ≤ (3 : Word16).toNat ∧ (3 : Word16).toNat ≤ 3 ∧ (chipAt (works 0) 0).boot.works = true := by decide
theorem wit_Watchdog : (chipAt (works 0) 0).boot.works = true := by decide

/-! ### LinkComesUpAfterPerst -/

theorem wit_Link_late : let s := onBoot0 (fun b => { b with rails := .up, pstate := .resetting }) State.reset
    (chipAt s 0).boot.rails = .up ∧ (chipAt s 0).boot.resetLine = false ∧ (chipAt s 0).boot.pcieUp = false ∧
    ¬((chipAt s 0).boot.pstate = .booting ∧ s.now < (chipAt s 0).boot.pgTime + 100000000) := by decide
theorem wit_Link_early : let s := onBoot0 (fun b => { b with rails := .up, pstate := .booting }) State.reset
    (chipAt s 0).boot.rails = .up ∧ (chipAt s 0).boot.resetLine = false ∧ (chipAt s 0).boot.pcieUp = false ∧
    (chipAt s 0).boot.pstate = .booting ∧ s.now < (chipAt s 0).boot.pgTime + 100000000 := by decide
theorem wit_Link_line : let s := onBoot0 (fun b => { b with rails := .up, pstate := .resetting, resetLine := true, perst := false }) State.reset
    (chipAt s 0).boot.rails = .up ∧ (chipAt s 0).boot.resetLine = true ∧ (chipAt s 0).boot.perst = false ∧ (chipAt s 0).boot.pcieUp = false ∧
    ¬((chipAt s 0).boot.pstate = .booting ∧ s.now < (chipAt s 0).boot.pgTime + 100000000) := by decide
theorem wit_Link_honoured : (chipAt (onBoot0 (fun b => { b with perstEarly := true }) State.reset) 0).boot.perstEarly = true := by decide

/-! ### TheWayToReady -/

theorem wit_Ready_fw : let s := onBoot0 (fun b => { b with pstate := .booting }) State.reset
    (chipAt s 0).boot.pstate = .booting ∧ (chipAt s 0).boot.fwRunning = false ∧ (chipAt s 0).boot.stuck = false := by decide
theorem wit_Ready_hbm : let s := onBoot0 (fun b => { b with pstate := .booting, fwRunning := true }) State.reset
    (chipAt s 0).boot.pstate = .booting ∧ (chipAt s 0).boot.fwRunning = true ∧ (chipAt s 0).boot.hbmTrained = false ∧
    (chipAt s 0).boot.zeroed = false ∧ (chipAt s 0).boot.stuck = false := by decide
theorem wit_Ready_zero : let s := onBoot0 (fun b => { b with pstate := .booting, fwRunning := true, hbmTrained := true }) State.reset
    (chipAt s 0).boot.pstate = .booting ∧ (chipAt s 0).boot.fwRunning = true ∧ (chipAt s 0).boot.hbmTrained = true ∧
    (chipAt s 0).boot.zeroed = false := by decide
theorem wit_Ready_link : let s := onBoot0 (fun b => { b with pstate := .booting, pcieUp := true }) State.reset
    (chipAt s 0).boot.pstate = .booting ∧ (chipAt s 0).boot.pcieUp = true ∧ (chipAt s 0).boot.linkFatal = false := by decide
theorem wit_Ready_last : (∀ b ∈ [{ (chipAt (works 0) 0).boot with pstate := .booting, fwRunning := false },
      { (chipAt (works 0) 0).boot with pstate := .booting, zeroed := false }],
    (b.hbmTrained && b.linkL0 && !b.perst && !b.resetLine && !b.linkFatal) = true ∧ b.pstate = .booting ∧ b.stuck = false) ∧
    (let b := { (chipAt (works 0) 0).boot with pstate := .booting, linkL0 := false };
      (b.fwRunning && b.hbmTrained && b.zeroed && !b.perst && !b.resetLine) = true ∧ b.pcieUp = true) := by decide

/-! ### FailedBootsAndFatalLinks -/

theorem wit_FwFail : let s := onBoot0 (fun b => { b with pstate := .booting, fwRunning := false, ready := false }) (works 0)
    (chipAt s 0).boot.boots = true ∧ (chipAt s 0).boot.fwRunning = false ∧ (chipAt s 0).boot.stuck = false ∧
    (chipAt s 0).boot.fwFailed = false ∧ LogRoom s := by decide
theorem wit_HbmFail : let s := onBoot0 (fun b => { b with pstate := .booting, fwRunning := true }) State.reset
    (chipAt s 0).boot.boots = true ∧ (chipAt s 0).boot.fwRunning = true ∧ (chipAt s 0).boot.hbmTrained = false ∧ (chipAt s 0).boot.stuck = false := by decide
theorem wit_ResetComplete : let s := onBoot0 (fun b => { b with pstate := .resetting, cause := .flr, fwRunning := true, perst := false }) State.reset
    (chipAt s 0).boot.pstate = .resetting ∧ (chipAt s 0).boot.cause.fundamental = false ∧ (chipAt s 0).boot.stuck = false ∧
    (chipAt s 0).boot.fwRunning = true ∧ (chipAt s 0).boot.perst = false ∧ (chipAt s 0).boot.resetLine = false := by decide
theorem wit_LinkFatal : (chipAt (works 0) 0).boot.linkL0 = true := by decide

/-! ### IdleAndDormant -/

theorem wit_Idle : let s := onBoot0 (fun b => { b with pstate := .active }) State.reset
    (chipAt s 0).boot.pstate = .active ∧ (ctxOf s 0).queuesEmpty = true ∧ (chipAt s 0).boot.dormantHeld = false := by decide
theorem wit_Delay : let s := delayed (works 0)
    (chipAt s 0).boot.quiet = true ∧ ppDelay (chipAt s 0).config.active.power ≠ 0 := by decide
theorem wit_Entered : let s := onBoot0 (fun b => { b with pstate := .idle, dormantEntry := true }) State.reset
    (chipAt s 0).boot.pstate = .idle ∧ (chipAt s 0).boot.dormantEntry = true ∧ (chipAt s 0).boot.waking = false := by decide
theorem wit_Entered_waiting : let s := onBoot0 (fun b => { b with dormantEntry := true }) (holding (cmdOf 0x20 []))
    (chipAt s 0).boot.pstate = .idle ∧ (chipAt s 0).boot.dormantEntry = true ∧
    ∃ k ∈ (chipAt s 0).stew.cmds, k.phase = .fetched ∧ dormantOpcode k.opcode = false := by decide
theorem wit_Wake : let s := onBoot0 (fun b => { b with pstate := .dormant }) State.reset
    (chipAt s 0).boot.pstate = .dormant ∧ (chipAt s 0).boot.waking = false := by decide
theorem wit_Woken : let s := onBoot0 (fun b => { b with pstate := .dormant, waking := true }) State.reset
    (chipAt s 0).boot.pstate = .dormant ∧ (chipAt s 0).boot.waking = true := by decide
theorem wit_DormantNow : let k := cmdOf 0x60 [(28, 1)]
    let s := onBoot0 (fun b => { b with pstate := .dormant }) (holding k)
    CanRun 0 k s ∧ k.opcode = 0x60 ∧ k.arg 28 1 % 4 = 1 ∧ (chipAt s 0).boot.pstate = .dormant := by decide
theorem wit_DormantHeld : let k := cmdOf 0x60 [(28, 1)]
    let s := onBoot0 (fun b => { b with pstate := .active }) (holding k)
    CanRun 0 k s ∧ k.opcode = 0x60 ∧ k.arg 28 1 % 4 = 1 ∧ (chipAt s 0).boot.pstate = .active := by decide

/-! ### DoorbellsBeforeReady -/

theorem wit_EarlyDoorbell : let s := onBoot0 (fun b => { b with ready := false }) (works 0)
    (chipAt s 0).boot.linkL0 = true ∧ (chipAt s 0).boot.ready = false := by decide

/-! ### RefusedDoorbells -/

theorem wit_BadDoorbell_none : (chipAt (works 0) 0).boot.linkL0 = true ∧ (chipAt (works 0) 0).boot.ready = true ∧
    (tget .none (chipAt (works 0) 0).stew.qps 5).live = false := by decide
theorem wit_BadDoorbell_depth : (tget .none (chipAt (works 0) 0).stew.qps 1).live = true ∧
    (tget .none (chipAt (works 0) 0).stew.qps 1).sqDepth ≤ (16 : Word32).toNat % 65536 ∧
    (tget .none (chipAt (works 0) 0).stew.qps 1).cqDepth ≤ (16 : Word32).toNat % 65536 := by decide
theorem wit_BadDoorbell_release : let p := tget .none (chipAt (works 0) 0).stew.qps 1
    p.posted - p.released < ((1 : Word32).toNat % 65536 + p.cqDepth - p.released % p.cqDepth) % p.cqDepth := by decide
theorem wit_BadDoorbell_early : let s := onBoot0 (fun b => { b with ready := false }) (works 0)
    (chipAt s 0).boot.linkL0 = true ∧ (chipAt s 0).boot.ready = false := by decide

/-! ### AcceptedDoorbells -/

theorem wit_SqTail : let p := tget .none (chipAt (works 0) 0).stew.qps 1
    (chipAt (works 0) 0).boot.linkL0 = true ∧ (chipAt (works 0) 0).boot.ready = true ∧ p.live = true ∧ (15 : Word32).toNat % 65536 < p.sqDepth := by decide
theorem wit_SqTail_dormant : let s := onBoot0 (fun b => { b with pstate := .dormant }) (works 0)
    (chipAt s 0).boot.linkL0 = true ∧ (chipAt s 0).boot.ready = true ∧ (chipAt s 0).boot.pstate = .dormant ∧ (chipAt s 0).boot.waking = false ∧
    (tget .none (chipAt s 0).stew.qps 1).tail ≠ 15 ∧ dormantOpcode (0x20 : Byte).toNat = false := by decide
theorem wit_CqHead : let s := onChip0 (fun h => { h with stew := { h.stew with qps := [(1, { pair 0 with posted := 1 })] } }) (works 0)
    let p := tget .none (chipAt s 0).stew.qps 1
    (chipAt s 0).boot.linkL0 = true ∧ (chipAt s 0).boot.ready = true ∧ p.live = true ∧ (1 : Word32).toNat % 65536 < p.cqDepth ∧
    ((1 : Word32).toNat % 65536 + p.cqDepth - p.released % p.cqDepth) % p.cqDepth ≤ p.posted - p.released ∧
    (chipAt s 0).stew.held = [] ∧ (chipAt s 0).stew.cmds = [] ∧ (chipAt s 0).stew.events = [] ∧ (1 : Fin 64) ≠ 0 := by decide

/-! ### QueuePairZeroControl -/

theorem wit_Qp0Write : let b := (chipAt (works 0) 0).bar
    (chipAt (works 0) 0).boot.linkL0 = true ∧ (chipAt (works 0) 0).boot.ready = true ∧ b.change = none ∧ b.enabled = false ∧
    b.needsToggle = false ∧ (1 : Word32).toNat.testBit 0 = true := by decide
theorem wit_Qp0Good : let s := onChip0 (fun h => { h with bar := { h.bar with change := some true, enable := true, latched := (0x1000, 0x2000, 0x00100010) } }) (works 0)
    let b := (chipAt s 0).bar
    b.change = some true ∧ qp0Valid b.latched = true ∧ b.enable = true ∧ (chipAt s 0).stew.events = [] := by decide
theorem wit_Qp0Bad : let s := onChip0 (fun h => { h with bar := { h.bar with change := some true, enable := true, latched := (0x1000, 0x2000, 0x00010010) } }) (works 0)
    let b := (chipAt s 0).bar
    b.change = some true ∧ qp0Valid b.latched = false ∧ b.enable = true ∧ b.enabled = false := by decide
theorem wit_Qp0Off : let s := onChip0 (fun h => { h with bar := { h.bar with change := some false, enabled := true } }) (works 0)
    (chipAt s 0).bar.change = some false ∧ (chipAt s 0).bar.enable = false ∧ (∀ k ∈ (chipAt s 0).stew.cmds, k.qp ≠ 0) ∧
    (∀ k ∈ (chipAt s 0).stew.held, k.qp ≠ 0) := by decide

/-! ### Bar0Accesses -/

theorem wit_Bar0 : (chipAt (works 0) 0).boot.linkL0 = true ∧ (chipAt (works 0) 0).boot.fwRunning = true ∧
    (0x34 : BitVec 18).toNat < 0x20000 ∧ ¬(0x20 ≤ (0x34 : BitVec 18).toNat ∧ (0x34 : BitVec 18).toNat ≤ 0x30) ∧
    ¬((0x32 : BitVec 18).toNat % 4 = 0 ∧ (4 : Nat) = 4) := by decide

/-! ### SignallingAndConfiguration -/

theorem wit_Unmask : let s := onChip0 (fun h => { h with bar := { h.bar with msixEnable := true, functionMask := false, pba := [2047] } }) (works 0)
    (chipAt s 0).boot.linkL0 = true ∧ (chipAt s 0).boot.linkFatal = false ∧ (chipAt s 0).obs.lull ≠ .frozen ∧
    (chipAt s 0).bar.msixEnable = true ∧ (chipAt s 0).bar.functionMask = false ∧ (chipAt s 0).bar.pba = [(2047 : Fin 2048).val] := by decide
theorem wit_IrqTime : let s := onChip0 (fun h => { h with
      bar := { h.bar with msixEnable := true, functionMask := false, msix := [(0, ⟨0x1000, 7, false⟩)] }
      stew := { h.stew with qps := [(63, { pair 0 with unsignalled := 1 })] } }) (works 0)
    let p := tget .none (chipAt s 0).stew.qps 63
    (chipAt s 0).boot.linkFatal = false ∧ (chipAt s 0).obs.lull ≠ .frozen ∧ (chipAt s 0).bar.msixEnable = true ∧
    (chipAt s 0).bar.functionMask = false ∧ p.live = true ∧
    p.unsignalled ≠ 0 ∧ (tget .initial (chipAt s 0).bar.msix p.vector).masked = false := by decide
theorem wit_Config : (chipAt (works 0) 0).boot.linkL0 = true ∧ (chipAt (works 0) 0).boot.fwRunning = true := by decide

/-! ### ReadErrorsOfEntriesAndArguments -/

theorem wit_ArgumentError : let k := cmdOf 0x10 [(8, 64)]
    CanRun 0 k (holding k) ∧ k.dataPtr ≠ 0 := by decide
theorem wit_SubmissionError : let s := onChip0 (fun h => { h with stew := { h.stew with qps := [(63, { pair 0 with fetch := 15, tail := 0 }), (0, pair 0)] } }) (works 0)
    (ctxOf s 0).canFetch 63 = true ∧ (ctxOf s 0).canPost 63 false = true ∧ (∀ h ∈ (chipAt s 0).stew.held, h.qp ≠ 63) := by decide

/-! ### FetchingAndQueuePairs -/

/-- Chip 0 with one entry to fetch on pair 63, which stands at the end of its ring. -/
def fetching : State := onChip0 (fun h => { h with stew := { h.stew with qps := [(63, { pair 0 with fetch := 15, tail := 0 }), (0, pair 0)] } }) (works 0)

theorem wit_Fetch : ∀ ps ∈ [PState.active, .dormant], ∀ op ∈ [0xA0, 0x21],
    let s := onBoot0 (fun b => { b with pstate := ps }) fetching
    let e := fit 64 (cmdAt 63 op (if op = 0xA0 then [(17, 16), (25, 17)] else [])).entry
    (ctxOf s 0).canFetch (63 : Fin 64) = true ∧ (chipAt s 0).boot.isolating = false ∧ headerStatus (ctxOf s 0) (63 : Fin 64) e = none ∧
    byteAt e 0 ≠ 0x22 ∧ (chipAt s 0).boot.pstate = ps ∧ dormantOpcode (byteAt e 0) = decide (op = 0xA0) := by decide
theorem wit_Fetch_cancel : let s := fetching
    (ctxOf s 0).canFetch (63 : Fin 64) = true ∧ (chipAt s 0).boot.isolating = false ∧
    headerStatus (ctxOf s 0) (63 : Fin 64) (fit 64 (toLE 1 0x22)) = none ∧ byteAt (fit 64 (toLE 1 0x22)) 0 = 0x22 ∧ (ctxOf s 0).awake = true ∧
    (chipAt s 0).boot.waking = false ∧ (chipAt s 0).boot.dormantEntry = false ∧ (chipAt s 0).stew.cmds = [] ∧
    (chipAt s 0).stew.held = [] := by decide
theorem wit_Fetch_refused : (ctxOf fetching 0).canFetch (63 : Fin 64) = true ∧ (chipAt fetching 0).boot.isolating = false ∧
    headerStatus (ctxOf fetching 0) (63 : Fin 64) (fit 64 (toLE 1 0)) = some 0x0101 ∧ (ctxOf fetching 0).canPost (63 : Fin 64) false = true ∧
    (∀ h ∈ (chipAt fetching 0).stew.held, h.qp ≠ (63 : Fin 64).val) := by decide
theorem wit_Identify : let k := cmdOf 0x01 [(28, 1)]
    CanRun 0 k (holding k) ∧ k.opcode = 0x01 ∧ k.qp = 0 ∧ k.arg 28 1 = 1 := by decide
theorem wit_QueueCreate : let k := cmdOf 0x02 [(28, 63), (30, 1), (37, 16), (38, 2)]
    let s := holding k
    let m := (chipAt s 0).config.active.superMap
    CanRun 0 k s ∧ k.opcode = 0x02 ∧ k.qp ≠ k.arg 28 1 % 64 ∧ k.arg 28 1 % 64 ≠ 0 ∧ (tget .none (chipAt s 0).stew.qps (k.arg 28 1 % 64)).live = false ∧
    superDefined m (k.arg 29 1 % 8) = true ∧ superQpBase m (k.arg 29 1 % 8) ≤ k.arg 28 1 % 64 ∧
    k.arg 28 1 % 64 < superQpBase m (k.arg 29 1 % 8) + superQpCount m (k.arg 29 1 % 8) ∧
    1 ≤ k.arg 30 1 % 16 ∧ k.arg 30 1 % 16 ≤ 8 ∧ 2 ≤ k.arg 36 2 ∧ k.arg 36 2 ≤ 4096 ∧ 2 ≤ k.arg 38 2 ∧ k.arg 38 2 ≤ 4096 ∧
    k.arg 32 2 ≤ 1023 ∧ k.arg 34 2 ≤ 2047 ∧ k.arg 40 8 % 4096 = 0 ∧ k.arg 48 8 % 4096 = 0 ∧
    (∀ j ∈ (chipAt s 0).stew.cmds, j.phase = .running → j.opcode ≠ 0x03) := by decide
theorem wit_QueueDelete_none : let k := cmdOf 0x03 [(28, 63)]
    CanRun 0 k (holding k) ∧ k.opcode = 0x03 ∧ k.arg 28 1 % 64 ≠ 0 ∧ (tget .none (chipAt (holding k) 0).stew.qps (k.arg 28 1 % 64)).live = false := by decide
theorem wit_QueueDelete : let k := cmdOf 0x03 [(28, 1)]
    CanRun 0 k (holding k) ∧ k.opcode = 0x03 ∧ k.qp ≠ k.arg 28 1 % 64 ∧ k.arg 28 1 % 64 ≠ 0 ∧
    (tget .none (chipAt (holding k) 0).stew.qps (k.arg 28 1 % 64)).live = true ∧ (chipAt (holding k) 0).stew.cmds = [k] ∧
    (∀ h ∈ (chipAt (holding k) 0).stew.held, h.qp ≠ k.arg 28 1 % 64) := by decide

/-! ### PeerWindow -/

theorem wit_PeerWindow : (chipAt (works 0) 0).boot.linkL0 = true ∧
    (ctxOf (works 0) 0).bar2Addr (BitVec.ofNat 34 64).toNat [(1 : Byte)].length = some 64 ∧
    (chipAt (works 0) 0).mem.hbm.poison = [] ∧ (chipAt (works 0) 0).mem.hbm.ue = [] ∧ (chipAt (works 0) 0).mem.hbm.ce = [] ∧
    (chipAt (works 0) 0).mem.hbm.onDie = [] := by decide
theorem wit_PeerWindow_outside : (ctxOf (works 0) 0).bar2Addr (BitVec.ofNat 34 0x200000000).toNat [(1 : Byte)].length = none := by decide

/-! ### ScrubbingAndHostReads -/

theorem wit_Scrub : let s := onChip0 (fun h => { h with mem := { h.mem with hbm := { h.mem.hbm with ue := [128] } } }) (works 0)
    (chipAt s 0).boot.ready = true ∧ (chipAt s 0).boot.pstate = .idle ∧ (chipAt s 0).obs.lull ≠ .frozen ∧
    (chipAt s 0).power.quietWin = none ∧ 128 < hbmSize ∧ 128 % 64 = 0 ∧
    (chipAt s 0).mem.hbm.ue = [128] ∧ (chipAt s 0).mem.hbm.poison = [] := by decide
theorem wit_WriteBack : let s := onChip0 (fun h => { h with mem := { h.mem with hbm := { h.mem.hbm with fix := [128] } } }) (works 0)
    (chipAt s 0).mem.hbm.fix = [128] := by decide
theorem wit_HostRead : let k := cmdOf 0x10 [(8, 64)]
    CanRun 0 k (holding k) ∧ k.dataPtr ≠ 0 ∧ (chipAt (holding k) 0).boot.linkL0 = true ∧ (chipAt (holding k) 0).obs.lull ≠ .frozen := by decide

/-! ### ForagerCopies -/

theorem wit_ForagerCopy : let k := cmdOf 0x50 [(32, 1)]
    CanRun 0 k (holding k) ∧ k.opcode = 0x50 ∧ k.qp = 0 ∧
    superDefined (chipAt (holding k) 0).config.active.superMap (k.arg 28 1 % 8) = true ∧ 1 ≤ k.arg 32 4 ∧ k.arg 32 4 ≤ 4096 ∧
    (ctxOf (holding k) 0).copyFail (k.arg 28 1 % 8) (chunks (k.arg 32 4) 64 (fit (64 * k.arg 32 4) copyToHbm)) = none ∧
    (chipAt (holding k) 0).boot.pstate = .idle ∧ (chipAt (holding k) 0).eng.foragers = [] ∧ Forager.idle.queue.length < 64 ∧
    (chipAt (active (holding k)) 0).boot.pstate = .active := by decide
theorem wit_CopyDescriptor : let j : CopyJob := ⟨copyToHbm, 0, none, none, 0, 0, 0, 0, none⟩
    let s := onBoot0 (fun b => { b with pstate := .active }) (onChip0 (fun h => { h with eng := { h.eng with foragers := [(15, { Forager.idle with queue := [j] })] } }) (works 0))
    (chipAt s 0).boot.pstate = .active ∧ (chipAt s 0).obs.lull ≠ .frozen ∧ (chipAt s 0).power.quiet = .none ∧ (chipAt s 0).eng.backlog = [] ∧
    (tget .idle (chipAt s 0).eng.foragers 15).running = none ∧ (tget .idle (chipAt s 0).eng.foragers 15).queue = j :: [] ∧ j.step = none ∧
    cSrc j.bytes = 0 ∧ cDst j.bytes = 1 ∧ cRows j.bytes = 1 := by decide
theorem wit_CopyComplete : let k := cmdOf 0x50 [(32, 1)]
    let j : CopyJob := ⟨copyToHbm, 0, some k.id, none, 0, 0, 0, 0, none⟩
    let s := onBoot0 (fun b => { b with pstate := .active }) (onChip0 (fun h => { h with eng := { h.eng with
      copies := [⟨k.id, 1, none, 0⟩], foragers := [(15, { Forager.idle with running := some j })] } }) (holding k))
    (tget .idle (chipAt s 0).eng.foragers 15).running = some j ∧ (tget .idle (chipAt s 0).eng.foragers 15).unacked = [] ∧
    (tget .idle (chipAt s 0).eng.foragers 15).failed = none ∧ (chipAt s 0).obs.lull ≠ .frozen ∧ (chipAt s 0).boot.pstate = .active ∧
    j.step = none ∧ j.cmd = some k.id ∧ (chipAt s 0).eng.copies = [⟨k.id, 1, none, 0⟩] ∧ (ctxOf s 0).cmd? k.id = some k ∧
    (ctxOf s 0).canPost k.qp false = true ∧ (∀ h ∈ (chipAt s 0).stew.held, h.qp ≠ k.qp) := by decide

/-! ### ShadowWrites -/

set_option maxRecDepth 20000 in
theorem wit_SuperConfig_good : let k := cmdOf 0x10 []
    let d : Bytes := imgBytes (chipAt (works 0) 0).config.active.superMap 0 512
    CanRun 0 k (holding k) ∧ (ctxOf (holding k) 0).sectionCheck 1 (imgOf (fit (sectionLen 1) d)) = none := by decide
theorem wit_PowerPolicyWrite_bad : let k := cmdOf 0x60 []
    CanRun 0 k (holding k) ∧ k.arg 28 1 % 4 = 0 ∧ (ctxOf (holding k) 0).sectionCheck 2 (imgOf (fit (sectionLen 2) [])) = some (0x0100, 0) := by decide
theorem wit_PowerPolicyWrite_good : let k := cmdOf 0x60 []
    let d : Bytes := imgBytes (chipAt (works 0) 0).config.active.power 0 64
    CanRun 0 k (holding k) ∧ k.arg 28 1 % 4 = 0 ∧ (ctxOf (holding k) 0).sectionCheck 2 (imgOf (fit (sectionLen 2) d)) = none := by decide
theorem wit_CounterSelect_good : let k := cmdOf 0x70 []
    CanRun 0 k (holding k) ∧ k.arg 28 1 % 4 = 0 ∧ (ctxOf (holding k) 0).sectionCheck 4 [] = none := by decide
theorem wit_LullArm_good : let k := cmdOf 0x71 []
    CanRun 0 k (holding k) ∧ (ctxOf (holding k) 0).sectionCheck 6 (imgOf (fit (sectionLen 6) [])) = none := by decide
theorem wit_RouteSet_good : let k := cmdOf 0x80 []
    CanRun 0 k (holding k) ∧ (ctxOf (holding k) 0).sectionCheck 3 CfgSet.initial.routes = none := by decide
theorem wit_ShadowCopy : let k := cmdOf 0x11 []
    CanRun 0 k (holding k) ∧ k.opcode = 0x11 ∧ k.arg 28 1 % 16 = 0 := by decide
theorem wit_ShadowRaw : let k := cmdOf 0x11 [(28, 6)]
    CanRun 0 k (holding k) ∧ k.opcode = 0x11 ∧ k.arg 28 1 % 16 ≠ 0 ∧
    (ctxOf (holding k) 0).sectionCheck (k.arg 28 1 % 16) (imgOf (fit (sectionLen (k.arg 28 1 % 16)) [])) = none := by decide
set_option maxRecDepth 20000 in
theorem wit_MicroLoad : let k := cmdOf 0x90 [(28, 63)]
    CanRun 0 k (holding k) ∧ k.opcode = 0x90 ∧ k.arg 28 1 = 63 ∧ slotCheck 63 (fit 448 endOnly) = none := by decide
theorem wit_MicroClear : let k := cmdOf 0x90 [(28, 128 + 16)]
    CanRun 0 k (holding k) ∧ k.opcode = 0x90 ∧ k.arg 28 1 = 128 + 16 := by decide

/-! ### Commits -/

theorem wit_Commit_gen : let k := cmdOf 0x12 [(28, 1)]
    CanRun 0 k (holding k) ∧ k.opcode = 0x12 ∧ k.arg 28 4 ≠ (chipAt (holding k) 0).config.shadowGen.toNat := by decide
theorem wit_Commit_bad : let k := cmdOf 0x12 []
    let s := onChip0 (fun h => { h with config := { h.config with shadow := { h.config.shadow with power := [] } } }) (holding k)
    CanRun 0 k s ∧ k.opcode = 0x12 ∧ k.arg 28 4 = (chipAt s 0).config.shadowGen.toNat ∧ (ctxOf s 0).commitCheck = some (2, 3, 0) := by decide
theorem wit_Commit_same : let k := cmdOf 0x12 []
    let s := holding k
    CanRun 0 k s ∧ k.opcode = 0x12 ∧ k.arg 28 4 = (chipAt s 0).config.shadowGen.toNat ∧ (ctxOf s 0).commitCheck = none ∧
    (chipAt s 0).config.shadow.routes = (chipAt s 0).config.active.routes ∧ (chipAt s 0).config.pendingRoutes = [] ∧
    (chipAt s 0).serve.steps = [] ∧ (ctxOf s 0).drained = true ∧
    (chipAt s 0).config.shadow.superMap = (chipAt s 0).config.active.superMap := by decide
theorem wit_Commit_drain : let k := cmdOf 0x12 []
    let s := onChip0 (fun h => { h with
      config := { h.config with shadow := { h.config.shadow with superMap := imgWrite h.config.shadow.superMap 1 [1] } }
      serve := { h.serve with steps := [step5 .dispatched { k with id := 7 } 64 1] } }) (holding k)
    CanRun 0 k s ∧ k.opcode = 0x12 ∧ k.arg 28 4 = (chipAt s 0).config.shadowGen.toNat ∧ (ctxOf s 0).commitCheck = none ∧
    (chipAt s 0).config.shadow = { (chipAt s 0).config.active with superMap := (chipAt s 0).config.shadow.superMap } ∧
    (chipAt s 0).config.shadow.superMap ≠ (chipAt s 0).config.active.superMap ∧ (ctxOf s 0).drained = false := by decide
theorem wit_Exchange : let k := { cmdOf 0x12 [] with phase := .running }
    let s := onChip0 (fun h => { h with config := { h.config with commit := some ⟨k.id, [2], none⟩ } }) (holding k)
    (chipAt s 0).config.commit = some ⟨k.id, [2], none⟩ ∧ (chipAt s 0).config.pendingRoutes = [] ∧ (ctxOf s 0).cmd? k.id = some k ∧
    (chipAt s 0).obs.lull ≠ .frozen ∧ (ctxOf s 0).canPost k.qp false = true ∧ (∀ h ∈ (chipAt s 0).stew.held, h.qp ≠ k.qp) := by decide


/-! ### StreamLifecycle -/

theorem wit_StreamOpen : let k := cmdAt 1 0x20 [(28, 0xFF), (29, 0xF)]
    let s := withModel (holding k)
    CanRun 0 k s ∧ k.opcode = 0x20 ∧ k.arg 28 2 = 4095 ∧
    superOfStream (chipAt s 0).config.active.superMap 4095 = some ((ctxOf s 0).sup k) ∧
    (ctxOf s 0).openModelCheck ((ctxOf s 0).sup k) (k.arg 30 1) = none ∧ (tget .free (chipAt s 0).serve.streams 4095).state = .free := by
  decide
theorem wit_StreamOpen_any : let k := cmdAt 1 0x20 [(28, 0xFF), (29, 0xFF)]
    let s := withModel (holding k)
    CanRun 0 k s ∧ k.arg 28 2 = 0xFFFF ∧ (ctxOf s 0).openModelCheck ((ctxOf s 0).sup k) (k.arg 30 1) = none ∧
    superStreamCount (chipAt s 0).config.active.superMap ((ctxOf s 0).sup k) ≠ 0 := by decide
theorem wit_StreamClose : let k := cmdAt 1 0x21 [(28, 5), (30, 1)]
    let s := withStream 5 .opened [[1]] (holding k)
    CanRun 0 k s ∧ k.opcode = 0x21 ∧ bitAt k.entry 32 0 = false ∧
    (ctxOf s 0).nameCheck ((ctxOf s 0).sup k) (k.arg 28 2 % 4096) (k.arg 30 2) = none ∧
    (tget .free (chipAt s 0).serve.streams (k.arg 28 2 % 4096)).state = .opened ∧
    (tget .free (chipAt s 0).serve.streams (k.arg 28 2 % 4096)).tent = none := by decide
theorem wit_StreamClose_refused : let k := cmdAt 1 0x21 [(28, 5), (30, 1)]
    let s := withStream 5 .closed [[1]] (holding k)
    CanRun 0 k s ∧ (ctxOf s 0).nameCheck ((ctxOf s 0).sup k) (k.arg 28 2 % 4096) (k.arg 30 2) = none ∧
    (tget .free (chipAt s 0).serve.streams (k.arg 28 2 % 4096)).state ≠ .opened := by decide
theorem wit_StreamCloseFree : let k := cmdAt 1 0x21 [(28, 5), (30, 1), (32, 1)]
    let s := withStream 5 .closed [[1]] (holding k)
    CanRun 0 k s ∧ k.opcode = 0x21 ∧ bitAt k.entry 32 0 = true ∧
    (ctxOf s 0).nameCheck ((ctxOf s 0).sup k) (k.arg 28 2 % 4096) (k.arg 30 2) = none ∧ (ctxOf s 0).copyReads (k.arg 28 2 % 4096) = false ∧
    (tget .free (chipAt s 0).serve.streams (k.arg 28 2 % 4096)).state = .closed ∧
    (tget .free (chipAt s 0).serve.streams (k.arg 28 2 % 4096)).tent = none := by decide
theorem wit_StreamCancel : let k := cmdAt 1 0x22 [(28, 5), (30, 1)]
    ∀ st ∈ [StreamState.opened, .running, .cancelling, .closed], let s := withStream 5 st [[1]] (holding k)
    CanRun 0 k s ∧ k.opcode = 0x22 ∧ (ctxOf s 0).nameCheck ((ctxOf s 0).sup k) (k.arg 28 2 % 4096) (k.arg 30 2) = none ∧
    (ctxOf s 0).copyReads (k.arg 28 2 % 4096) = false ∧ (tget .free (chipAt s 0).serve.streams (k.arg 28 2 % 4096)).state = st ∧
    (tget .free (chipAt s 0).serve.streams (k.arg 28 2 % 4096)).tent = none := by decide

/-! ### FrameTables -/

theorem wit_MapFresh : let k := cmdAt 1 0x23 [(28, 5), (30, 1), (36, 1)]
    let s := withStream 5 .opened [] (holding k)
    CanRun 0 k s ∧ k.opcode = 0x23 ∧ bitAt k.entry 34 0 = false ∧ k.arg 36 2 = 1 ∧ k.arg 38 4 = 0 ∧ k.arg 44 4 = 0 ∧
    (ctxOf s 0).nameCheck ((ctxOf s 0).sup k) (k.arg 28 2 % 4096) (k.arg 30 2) = none ∧
    (tget .free (chipAt s 0).serve.streams (k.arg 28 2 % 4096)).state = .opened ∧ k.arg 32 2 = 0 ∧
    (tget .empty (chipAt s 0).serve.models 0).layers = 1 ∧ 1 * 1 ≤ (ctxOf s 0).freeFrames ((ctxOf s 0).sup k) ∧
    (chipAt s 0).serve.refs = [] := by decide
theorem wit_MapShare : let k := cmdAt 1 0x23 [(28, 5), (30, 1), (34, 1), (38, 6), (40, 1), (44, 64)]
    let s := withStream 6 .closed [[3]] (withStream 5 .opened [] (holding k))
    CanRun 0 k s ∧ k.opcode = 0x23 ∧ bitAt k.entry 34 0 = true ∧ k.arg 36 2 = 0 ∧ 1 ≤ k.arg 44 4 ∧ k.arg 32 2 = 0 ∧
    (ctxOf s 0).nameCheck ((ctxOf s 0).sup k) (k.arg 28 2 % 4096) (k.arg 30 2) = none ∧
    (tget .free (chipAt s 0).serve.streams (k.arg 28 2 % 4096)).state = .opened ∧
    (ctxOf s 0).shareCheck ((ctxOf s 0).sup k) (k.arg 28 2 % 4096) k = none := by decide
theorem wit_FrameRelease : let k := cmdAt 1 0x24 [(28, 5), (30, 1), (32, 1)]
    let s := withStream 5 .opened [[3]] (holding k)
    CanRun 0 k s ∧ k.opcode = 0x24 ∧ (ctxOf s 0).nameCheck ((ctxOf s 0).sup k) (k.arg 28 2 % 4096) (k.arg 30 2) = none ∧
    (ctxOf s 0).copyReads (k.arg 28 2 % 4096) = false ∧ (tget .free (chipAt s 0).serve.streams (k.arg 28 2 % 4096)).tent = none ∧
    k.arg 32 2 = (tget .free (chipAt s 0).serve.streams (k.arg 28 2 % 4096)).table.length ∧
    k.arg 34 2 < (tget .free (chipAt s 0).serve.streams (k.arg 28 2 % 4096)).table.length := by decide

/-! ### StepAdmission -/

theorem wit_Submit : let k := cmdAt 1 0x30 [(29, 1), (32, 1), (36, 1)]
    let s := withStream 5 .opened [[1]] (holding k)
    let raw := chunks (k.arg 32 2) 32 (fit (32 * k.arg 32 2) (plan5 64 0))
    CanRun 0 k s ∧ k.opcode = 0x30 ∧ (ctxOf s 0).planCheck k raw (raw.map planEntry) = none := by decide
theorem wit_Submit_bad : let k := cmdAt 1 0x30 [(29, 1), (32, 1), (36, 2)]
    let s := withStream 5 .opened [[1]] (holding k)
    let raw := chunks (k.arg 32 2) 32 (fit (32 * k.arg 32 2) (plan5 64 0))
    CanRun 0 k s ∧ (ctxOf s 0).planCheck k raw (raw.map planEntry) = some (0x0107, 0xFFFF, 3) := by decide
theorem wit_PlanReady : let k := { cmdAt 1 0x30 [(29, 1), (32, 1), (36, 1)] with phase := .running }
    let t := step5 .waiting k 64 1
    let s := withStep t (withStream 5 .opened [[1]] (holding k))
    (ctxOf s 0).running? k.id 0x30 = some k ∧ (ctxOf s 0).step? k.id = some t ∧ t.phase = .waiting ∧ (ctxOf s 0).planIdle t = true ∧
    tokensFit t [some [0]] = true ∧ (chipAt s 0).obs.lull ≠ .frozen ∧ (chipAt s 0).boot.linkFatal = false ∧
    (ctxOf s 0).readyCheck t (some [some [0]]) = none ∧ (tget .empty (chipAt s 0).serve.models t.model).swap.state = .idle ∧
    (ctxOf s 0).awake = true ∧ (chipAt s 0).boot.dormantEntry = false ∧
    (let u := onBoot0 (fun b => { b with pstate := .dormant }) s; (ctxOf u 0).dispatchOpen = true ∧ (chipAt u 0).boot.pstate = .dormant ∧
      (ctxOf u 0).running? k.id 0x30 = some k ∧ (ctxOf u 0).readyCheck t (some [some [0]]) = none) := by decide
theorem wit_Dispatch : let k := { cmdAt 1 0x30 [(29, 1), (32, 1), (36, 1)] with phase := .running }
    let t := step5 .ready k 64 1
    let s := withStep t (withStream 5 .opened [[1]] (holding k))
    let m := tget .empty (chipAt s 0).serve.models t.model
    (ctxOf s 0).running? k.id 0x30 = some k ∧ (ctxOf s 0).step? k.id = some t ∧ t.phase = .ready ∧
    (((chipAt s 0).serve.steps.find? fun o => o.super == t.super && o.phase == .ready).map (·.id)) = some k.id ∧
    ((ctxOf s 0).dispatched t.super).length < 2 ∧ (ctxOf s 0).mayDispatch = true ∧ (ctxOf s 0).planIdle t = true ∧
    (ctxOf s 0).readyCheck t none = none ∧
    (ctxOf s 0).framesNeeded t.super m.layers (t.entries.map fun e => { e with cancelled := (ctxOf s 0).entryCancelled e }) ≤
      (ctxOf s 0).freeFrames t.super ∧ m.overArena t.total = false := by decide

/-! ### StepProgress -/

theorem wit_UnitEntry : let k := { cmdAt 1 0x30 [] with phase := .running }
    let t := step5 .dispatched k 64 1
    let s := withStep t (withStream 5 .running [[1], [2]] (holding k))
    let m := tget .empty (chipAt s 0).serve.models t.model
    (ctxOf s 0).dispatchedStep k.id = some (k, t) ∧ t.verify = false ∧ t.units.length = 0 ∧ 0 < m.unitCount ∧ t.due = [] ∧
    (ctxOf s 0).outstanding k.id = [] ∧ m.barred t 0 = false := by decide
theorem wit_UnitEntry_held : let k := { cmdAt 1 0x30 [] with phase := .running }
    let t := step5 .dispatched k 64 1
    let s := onChip0 (fun h => { h with serve := { h.serve with models := [(0, { Model.empty with
        gen := 1, layers := 1, swap := { Swap.idle with state := .writing, holdLimit := 1000 } })] } })
      (withStep t (withStream 5 .running [[1], [2]] (holding k)))
    let m := tget .empty (chipAt s 0).serve.models t.model
    (ctxOf s 0).dispatchedStep k.id = some (k, t) ∧ 0 < m.unitCount ∧ m.barred t 0 = true ∧ (ctxOf s 0).allCancelled t = false := by decide
theorem wit_Commit : let k := { cmdAt 1 0x30 [] with phase := .running }
    let t := { step5 .dispatched k 64 1 with units := [(0, 1)] }
    let s := withStep t (withStream 5 .running [[1], [2]] (holding k))
    (ctxOf s 0).dispatchedStep k.id = some (k, t) ∧ (ctxOf s 0).allRun t = true ∧ t.error = none ∧
    stagedFits t (tget .empty (chipAt s 0).serve.models t.model).vocab [⟨[[⟨0, 0⟩]], []⟩] = true ∧ (t.entries.map (·.stream)).Nodup := by decide
theorem wit_Verify : let k := cmdAt 1 0x31 [(28, 1), (32, 1)]
    let data := toLE 2 5 ++ toLE 2 1 ++ toLE 4 64 ++ [1, 1] ++ zeroBytes 6
    let s := withTent (withStream 5 .opened [[1], [2]] (holding k))
    let raw := chunks 1 16 (fit 16 data)
    (ctxOf s 0).start? k.id 0x31 (fun _ => true) (some [5]) = some k ∧ raw.map (fun b => field b 0 2 % 4096) = [5] ∧
    (ctxOf s 0).copyReads 5 = false ∧ k.arg 28 1 = 1 ∧ k.arg 32 2 = 1 ∧ (∀ b ∈ raw, verifyReserved b = false) ∧
    (ctxOf s 0).verifyEntries ((ctxOf s 0).sup k) (k.arg 28 1) (raw.map verifyEntry) = none ∧
    (∀ e ∈ raw.map verifyEntry, (ctxOf s 0).entryCancelled e = false) := by decide
theorem wit_VerifyCommit : let k := { cmdAt 1 0x31 [] with phase := .running }
    let t := { step5 .dispatched k 64 1 with verify := true }
    let s := withStep t (withTent (withStream 5 .running [[1], [2]] (holding k)))
    (ctxOf s 0).dispatchedStep k.id = some (k, t) ∧ t.verify = true ∧ (t.entries.map (·.stream)).Nodup ∧
    (∀ e ∈ t.entries, e.cancelled = false ∧ (tget .free (chipAt s 0).serve.streams e.stream).cancel = false ∧
      (tget .free (chipAt s 0).serve.streams e.stream).tent.isSome = true) := by decide

/-! ### StepErrorEnds -/

theorem wit_StepError : let k := { cmdAt 1 0x30 [] with phase := .running }
    let t := step5 .dispatched k 64 1
    let s := withStep t (withStream 5 .running [[1], [2]] (holding k))
    (ctxOf s 0).dispatchedStep k.id = some (k, t) ∧ t.verify = false ∧ t.error = none ∧ (t.entries.map (·.stream)).Nodup ∧
    (ctxOf s 0).canPost k.qp false = true ∧ (∀ h ∈ (chipAt s 0).stew.held, h.qp ≠ k.qp) ∧ t.heldAt = none ∧
    0x0400 ≤ (0x0402 : Word16).toNat ∧ (0x0402 : Word16).toNat ≤ 0x0402 := by decide
theorem wit_HoldLimit : let k := { cmdAt 1 0x30 [] with phase := .running }
    let t := { step5 .dispatched k 64 1 with heldAt := some 0 }
    let s := onChip0 (fun h => { h with serve := { h.serve with models := [(0, { Model.empty with
        gen := 1, layers := 1, swap := { Swap.idle with state := .writing, holdLimit := 1000 } })] } })
      (withStep t (withStream 5 .running [[1], [2]] (holding k)))
    (ctxOf s 0).dispatchedStep k.id = some (k, t) ∧ t.heldAt.isSome = true ∧
    (tget .empty (chipAt s 0).serve.models t.model).swap.holdLimit ≠ 0 := by decide

/-! ### ModelLoading -/

set_option maxRecDepth 20000 in
theorem wit_ModelLoad : let k := cmdAt 1 0x40 [(4, 176)]
    let s := oneDie (holding k)
    let x := ctxOf s 0
    let b := fit k.dataLen manifest1
    let raw := chunks (mfSegCount b) 48 ((b.drop 128).take (48 * mfSegCount b))
    let m := modelOf (x.sup k) (k.arg 30 2) b (raw.map segOf)
    let d := x.segData m (bitsAt k.entry 29 1 2) (loadReads k m) [⟨op1, none⟩] m.segs
    CanRun 0 k s ∧ k.opcode = 0x40 ∧ k.qp ≠ 0 ∧ bitAt k.entry 29 0 = false ∧ 128 + 48 * mfSegCount b ≤ k.dataLen ∧
    x.loadMayMove k manifest1 = true ∧
    x.loadCheck k b raw m = none ∧ bitsAt k.entry 29 1 2 = 0 ∧ k.arg 38 1 = 0 ∧ m.arenasFail m.segs d.2 = none ∧
    (∃ g, m.segs = [] ++ [g] ∧ m.keeps g = true) ∧
    ((d.1.carryAll m (bitsAt k.entry 29 1 2) m.segs).placeSegs m 0 m.segs d.2).2 = none := by
  refine ⟨by decide, by decide, by decide, by decide, by decide, by decide, by decide, by decide, by decide, by decide, ⟨segOf (seg1 0), by decide⟩, ?_⟩
  decide
set_option maxRecDepth 20000 in
theorem wit_ModelLoad_tree : let k := cmdAt 1 0x40 [(4, 176), (29, 4), (36, 7), (39, 1)]
    let s := oneDie (holding k)
    let b := fit k.dataLen manifest1
    let raw := chunks (mfSegCount b) 48 ((b.drop 128).take (48 * mfSegCount b))
    CanRun 0 k s ∧ bitsAt k.entry 29 1 2 = 2 ∧ (ctxOf s 0).loadMayMove k manifest1 = true ∧
    (ctxOf s 0).loadCheck k b raw (modelOf ((ctxOf s 0).sup k) (k.arg 30 2) b (raw.map segOf)) = none := by decide
set_option maxRecDepth 20000 in
theorem wit_ModelLoad_bad : let k := cmdAt 1 0x40 [(4, 176), (28, 64)]
    let s := oneDie (holding k)
    let b := fit k.dataLen manifest1
    let raw := chunks (mfSegCount b) 48 ((b.drop 128).take (48 * mfSegCount b))
    CanRun 0 k s ∧ (ctxOf s 0).loadMayMove k manifest1 = true ∧
    (ctxOf s 0).loadCheck k b raw (modelOf ((ctxOf s 0).sup k) (k.arg 30 2) b (raw.map segOf)) = some (0x0105, 0, 0) := by decide
theorem wit_LoadSegment : let k := { cmdAt 1 0x40 [] with phase := .running }
    let b := msgHead 4 1 0 9 0 0 0 0 5 0 1 ++ zeroBytes 64
    let g : Seg := ⟨0, 0, 0, 0, 0xFFFF, 0, 0, 64, 0⟩
    ∀ left ∈ [1, 2], let t : Tree := ⟨1, 5, some 9, [], left⟩
    let m := { Model.empty with loading := true, segs := [g], tree := some t }
    let s := withMsg 3 b (onChip0 (fun h => { h with serve := { h.serve with models := [(0, m)] } }) (holding k))
    ((ctxOf s 0).takeMsg 0 3).isSome = true ∧ ∀ r ∈ ((ctxOf s 0).takeMsg 0 3).toList,
      r.2 = b ∧ msgBad 3 b = false ∧ mOp b = 4 ∧ r.1.freshEpoch b = true ∧ r.1.loadFrom (mSrc b) (mAddr b % 2 ^ 32) = some (0, m, t) ∧
        m.segs[bits (mAddr b) 32 16]? = some g ∧ mAddr b % 2 ^ 32 = t.key ∧ 64 * mAux1 b = g.bytes ∧
        64 * mAux0 b + ((mData b).take (64 * mLen b)).length ≤ g.bytes ∧ mPoison b = 0 ∧ g.kind ≤ 1 ∧ mLen b = 1 ∧
        (ctxOf s 0).cmd? t.cmd = some k ∧ k.qp ≠ 0 ∧ (chipAt s 0).serve.models = [(0, m)] ∧ (ctxOf s 0).canPost k.qp false = true := by decide
theorem wit_LoadTimeouts : let k := { cmdAt 1 0x40 [] with phase := .running }
    let t : Tree := ⟨1, 5, some 9, [(3, false)], 2⟩
    let m := { Model.empty with loading := true, tree := some t }
    let s := onChip0 (fun h => { h with serve := { h.serve with models := [(0, m)] } }) (holding k)
    (chipAt s 0).serve.models = [(0, m)] ∧ t.cmd = k.id ∧ t.left ≠ 0 ∧ (chipAt s 0).obs.lull ≠ .frozen ∧ (ctxOf s 0).cmd? k.id = some k ∧
    (ctxOf s 0).canPost k.qp false = true ∧ (∀ h ∈ (chipAt s 0).stew.held, h.qp ≠ k.qp) ∧ t.parent.isSome = true := by decide
theorem wit_Unload : let k := cmdAt 1 0x40 [(29, 1), (32, 1)]
    let s := withModel (holding k)
    let m := tget .empty (chipAt s 0).serve.models (k.arg 28 1)
    CanRun 0 k s ∧ k.opcode = 0x40 ∧ bitAt k.entry 29 0 = true ∧ k.arg 28 1 ≤ 63 ∧ m.gen ≠ 0 ∧ m.super = (ctxOf s 0).sup k ∧
    k.arg 32 4 = m.gen ∧ m.swap.state = .idle ∧ (∀ e ∈ (chipAt s 0).serve.streams, e.2.state ≠ .free → e.2.model ≠ k.arg 28 1) := by decide
theorem wit_Unload_bound : let k := cmdAt 1 0x40 [(29, 1), (32, 1)]
    let s := withStream 5 .closed [] (holding k)
    CanRun 0 k s ∧ (∃ e ∈ (chipAt s 0).serve.streams, e.2.state ≠ .free ∧ e.2.model = k.arg 28 1) := by decide

/-! ### ModelSwaps -/

theorem wit_SwapBegin : let k := cmdAt 1 0x41 [(32, 1)]
    CanRun 0 k (withModel (holding k)) ∧ k.opcode = 0x41 ∧ (ctxOf (withModel (holding k)) 0).swapCheck k = none := by decide
theorem wit_SwapBegin_bad : let k := cmdAt 1 0x41 [(32, 2)]
    CanRun 0 k (withModel (holding k)) ∧ k.opcode = 0x41 ∧ (ctxOf (withModel (holding k)) 0).swapCheck k = some 0x0203 := by decide
theorem wit_SwapTakeEffect : ∀ mode ∈ [0, 1], let k := { cmdAt 1 0x41 [(32, 1), (29, mode)] with phase := .running }
    let s := withModel (holding k)
    (ctxOf s 0).running? k.id 0x41 = some k ∧ (ctxOf s 0).earlierReady k = true ∧ (chipAt s 0).obs.lull ≠ .frozen ∧
    (ctxOf s 0).swapCheck k = none ∧ (ctxOf s 0).canPost k.qp false = true ∧ (∀ h ∈ (chipAt s 0).stew.held, h.qp ≠ k.qp) ∧
    bitAt k.entry 29 0 = decide (mode = 1) ∧ (chipAt s 0).serve.steps = [] := by decide
theorem wit_SwapTakeEffect_draining : let k := { cmdAt 1 0x41 [(32, 1)] with phase := .running }
    let s := withStep (step5 .dispatched { cmdAt 1 0x30 [] with id := 7 } 64 1) (withModel (holding k))
    (ctxOf s 0).running? k.id 0x41 = some k ∧ (ctxOf s 0).earlierReady k = true ∧ (ctxOf s 0).swapCheck k = none ∧
    bitAt k.entry 29 0 = false ∧ ∃ t ∈ (chipAt s 0).serve.steps, t.model = k.arg 28 1 ∧ t.verify = false ∧ t.phase ≠ .waiting := by decide
set_option maxRecDepth 20000 in
theorem wit_SwapLayer : ∀ st ∈ [SwapState.draining, .opened, .broken], let k := cmdAt 1 0x42 [(4, 48), (32, 2)]
    let m := { swapping st [] with segs := [segOf (seg1 0)] }
    let s := onChip0 (fun h => { h with serve := { h.serve with models := [(0, m)] } }) (holding k)
    let raw := chunks (k.dataLen / 48) 48 ((fit k.dataLen (seg1 0)).take (48 * (k.dataLen / 48)))
    let d := (ctxOf s 0).segData m (bitsAt k.entry 30 0 2) (fun _ => true) [⟨op1, none⟩] (raw.map segOf)
    CanRun 0 k s ∧ k.opcode = 0x42 ∧ k.qp ≠ 0 ∧ m.swapArenas (m.unitIndexes m.swap.front) (raw.map segOf) d.2 = none ∧ m.gen ≠ 0 ∧ m.super = (ctxOf s 0).sup k ∧ k.arg 29 1 = m.swap.front ∧
    k.arg 32 4 = m.swap.newGen ∧ k.dataLen % 48 = 0 ∧ (raw.map segOf).length = (m.unitSegs m.swap.front).length ∧
    (∀ r ∈ raw, segReserved r = false) ∧ (∀ e ∈ (raw.map segOf).zip (m.unitSegs m.swap.front), e.1.same e.2 = true) ∧
    bitsAt k.entry 30 0 2 ≠ 1 ∧ (ctxOf s 0).swapDescs m (m.unitIndexes m.swap.front) (raw.map segOf) d.2 = none := by decide
theorem wit_SwapWriteStart : let s := onChip0 (fun h => { h with serve := { h.serve with models := [(63, swapping .opened [(1, [], [])])] } }) (works 0)
    let m := tget .empty (chipAt s 0).serve.models (63 : Fin 64)
    m.swap.state = .opened ∧ m.swap.layers ≠ [] ∧ (ctxOf s 0).insideUnit (63 : Fin 64) m.swap.front = false ∧ (chipAt s 0).obs.lull ≠ .frozen := by
  decide
theorem wit_SwapWriteEnds : let k := { cmdAt 1 0x42 [] with phase := .running }
    let s := onChip0 (fun h => { h with serve := { h.serve with models := [(0, swapping .writing [(1, [], [])])] } }) (holding k)
    let m := tget .empty (chipAt s 0).serve.models (0 : Fin 64)
    m.swap.state = .writing ∧ m.swap.layers = [(k.id, [], [])] ∧ (ctxOf s 0).cmd? k.id = some k ∧ (chipAt s 0).obs.lull ≠ .frozen ∧
    k.qp ≠ 0 ∧ ((ctxOf s 0).layerData m k [] []).2 = [] ∧ (ctxOf s 0).foragersFree m (swapSource k) [] = true ∧
    ((ctxOf s 0).swapErr m k [] [] (SrcErr.poisoned, 0, 64)).2 = some (SrcErr.hostRead, 0, 64) ∧ swapSource k ≠ 1 ∧
    (ctxOf s 0).canPost k.qp false = true ∧ (∀ h ∈ (chipAt s 0).stew.held, h.qp ≠ k.qp) := by decide
theorem wit_SwapEnd : let k := cmdAt 1 0x43 [(32, 2)]
    let s := onChip0 (fun h => { h with serve := { h.serve with models := [(0, swapping .done [])] } }) (holding k)
    let m := tget .empty (chipAt s 0).serve.models (k.arg 28 1)
    CanRun 0 k s ∧ k.opcode = 0x43 ∧ m.gen ≠ 0 ∧ m.super = (ctxOf s 0).sup k ∧ k.arg 32 4 = m.swap.newGen ∧ m.swap.layers = [] ∧
    bitAt k.entry 29 0 = false ∧ m.swap.state = .done := by decide
theorem wit_SwapAbandon : let k := cmdAt 1 0x43 [(32, 2), (29, 1)]
    let s := onChip0 (fun h => { h with serve := { h.serve with models := [(0, swapping .draining [])] } }) (holding k)
    let m := tget .empty (chipAt s 0).serve.models (k.arg 28 1)
    CanRun 0 k s ∧ m.gen ≠ 0 ∧ m.super = (ctxOf s 0).sup k ∧ k.arg 32 4 = m.swap.newGen ∧ bitAt k.entry 29 0 = true ∧ m.swap.front = 0 := by
  decide

/-! ### LinkCommands -/

theorem wit_LinkState : ∀ a ∈ [0, 1, 2, 3, 4, 5, 6], ∀ st ∈ [LinkState.disabled, .down, .fenced, .up, .notReady], ∀ allow ∈ [true, false],
    let k := cmdOf 0x81 [(28, 17), (29, a)]
    let s := onPort0 17 { Port.initial with state := st, driz := { Drizzle.initial with allow := allow } } (holding k)
    let v := tget .initial (chipAt s 0).fab.ports (bitsAt k.entry 28 0 5)
    CanRun 0 k s ∧ k.opcode = 0x81 ∧ bitsAt k.entry 28 0 5 ≤ 17 ∧ (chipAt s 0).fab.txWait = [] ∧ bitsAt k.entry 29 0 4 = a ∧
    v.state = st ∧ v.driz.allow = allow ∧ LinkState.up.live = true ∧ LinkState.notReady.live = true := by decide
theorem wit_LinkState_event : let k := cmdOf 0x81 [(28, 17), (29, 4)]
    let s := onChip0 (fun h => { h with stew := { h.stew with events := [⟨0x0902, 0, 1, 1, some 0⟩] } })
      (onPort0 17 { Port.initial with state := .up } (holding k))
    CanRun 0 k s ∧ ((chipAt s 0).stew.events.find? fun e => e.code == 0x0902).any (·.posted.isSome) = true ∧
    LinkState.up.live = true := by decide

/-! ### FlitsOfAPort -/

/-- Chip 0 with port 17 as `v` and flit `f` on the wire that ends there. -/
def ringing (v : Port) (f : Bytes) : State := { onPort0 17 v (works 0) with ring := tset [] [] (ringPos 0 17) [f] }

theorem wit_FlitBad : let s := ringing { Port.initial with state := .up } (zeroBytes 256)
    let v := tget .initial (chipAt s 0).fab.ports (17 : Fin 18)
    v.state.live = true ∧ v.nakSent = false ∧ damaged (fit 256 (zeroBytes 256)) (some 1) = true ∧
    (s.ringTake 0 (17 : Fin 18) (fit 256 (zeroBytes 256)) true).isSome = true := by
  refine ⟨by decide, by decide, rfl, by decide⟩
theorem ring_whole (s : State) (p : Nat) (f : Bytes) (r : List Bytes) (hp : ¬p < 16) (h : tget [] s.ring (ringPos 0 p) = f :: r) :
    (s.ringTake 0 p f false).isSome = true := by simp [State.ringTake, h, hp]
theorem wit_FlitGood : let f := fit 256 (flitBytes ⟨1, 0, 0, 0, false, false, 0, 0, 2, 1⟩ (msgHead 2 0 0 0 0 0 0 0 0 0 0))
    let s := ringing { Port.initial with state := .up } f
    let h := headOf f
    let v := tget .initial (chipAt s 0).fab.ports (17 : Fin 18)
    v.state = .up ∧ damaged f none = false ∧ h.kind = 1 ∧ h.vc < 6 ∧ h.vc ≠ 4 ∧ h.seq = v.rxSeq ∧ v.badHead h f = false ∧
    v.badSlots h f = false ∧ v.occupied h.vc < vcDepth h.vc ∧ h.nak = false ∧ v.naks.length ≤ 1024 ∧ v.driz.entering = false ∧
    (chipAt s 0).boot.pstate = .idle ∧ h.vc ≠ 1 ∧ (s.ringTake 0 (17 : Fin 18) f false).isSome = true := by
  refine ⟨by decide, ?_, by decide, by decide, by decide, by decide, ?_, ?_, by decide, by decide, by decide, by decide, by decide, by decide, ?_⟩
  · simp [damaged, flit_crc]
  · decide
  · decide
  · exact ring_whole _ _ _ [] (by decide) (tget_tset_same [] [_] [] (ringPos 0 17))
theorem wit_FlitForeign : let s := ringing { Port.initial with state := .up } [1]
    s.ringTake 0 (17 : Fin 18) (fit 256 (zeroBytes 256)) false = none ∧ s.ringTake 0 (16 : Fin 18) (fit 256 (zeroBytes 256)) true = none := by
  decide
theorem wit_PortTimers : let s := onPort0 17 { Port.initial with state := .up, replay := [⟨0, [], 0, 1, []⟩], ackDue := true } (works 0)
    let v := tget .initial (chipAt s 0).fab.ports (17 : Fin 18)
    v.state.live = true ∧ v.replay ≠ [] ∧ v.ackDue = true ∧ v.state ≠ .disabled ∧ v.state ≠ .down := by decide
theorem wit_CreditReturn : let s := onPort0 17 ({ Port.initial with state := .up }.setVc 5 ⟨0, [], [[], []]⟩) (works 0)
    let v := tget .initial (chipAt s 0).fab.ports (17 : Fin 18)
    v.state.live = true ∧ (v.vc (5 : Fin 6)).rx.findIdx? (·.isEmpty) = some 0 := by decide
theorem wit_FlitTransmit : let s := onPort0 17 ({ Port.initial with state := .up, partnerState := 4 }.setVc 3 ⟨4, [⟨true, zeroBytes 16, none⟩], []⟩) (works 0)
    let v := tget .initial (chipAt s 0).fab.ports (17 : Fin 18)
    v.state = .up ∧ v.partnerState = 4 ∧ v.driz.entering = false ∧ (chipAt s 0).obs.lull ≠ .frozen ∧ v.toReplay = 0 ∧ v.replay.length < 512 ∧
    v.mgmtTx = [] ∧ v.ready 3 = true ∧ (∀ r < 6, r ≠ 3 → v.ready r = false) ∧ (chipAt s 0).fab.txWait = [] := by decide
set_option maxRecDepth 20000 in
theorem wit_Resend : let f : Sent := ⟨0, zeroBytes 256, 0, 1, []⟩
    let s := onPort0 17 { Port.initial with state := .up, replay := [f], toReplay := 1 } (works 0)
    let v := tget .initial (chipAt s 0).fab.ports (17 : Fin 18)
    v.state.live = true ∧ 0 < v.toReplay ∧ v.replay[v.replay.length - v.toReplay]? = some f ∧ v.mayResend f = true ∧ f.times < 16 := by decide

/-! ### TrainingOfAPort -/

theorem wit_Training : (let s := onPort0 17 Port.initial (works 0)
      let v := tget .initial (chipAt s 0).fab.ports (17 : Fin 18);
      v.state = .down ∧ v.retryWait = false ∧ (chipAt s 0).boot.fwRunning = true ∧ (chipAt s 0).fab.noPort = [] ∧ (chipAt s 0).fab.txWait = []) ∧
    (let s := onPort0 17 { Port.initial with retryWait := true } (works 0)
      let v := tget .initial (chipAt s 0).fab.ports (17 : Fin 18);
      v.state = .down ∧ v.retryWait = true) ∧
    (let b : Bytes := [3, 0, 1, 4, 4, 4, 255, 255, 8, 16, 1, 0];
      let s := onPort0 17 { Port.initial with state := .training, helloRx := some b } (works 0);
      (tget .initial (chipAt s 0).fab.ports (17 : Fin 18)).helloRx = some b ∧ helloGood b = true ∧ (chipAt s 0).fab.noPort = [] ∧
      (chipAt s 0).fab.txWait = []) ∧
    (∀ n ∈ [0, 2], let s := onPort0 17 { Port.initial with state := .training, helloSeen := true, trainFails := n } (works 0)
      let v := tget .initial (chipAt s 0).fab.ports (17 : Fin 18);
      v.state = .training ∧ v.helloSeen = true ∧ v.trainFails = n ∧ (chipAt s 0).fab.noPort = [] ∧ (chipAt s 0).fab.txWait = []) ∧
    (let s := onPort0 17 { Port.initial with state := .drizzle } (works 0);
      (tget .initial (chipAt s 0).fab.ports (17 : Fin 18)).state.live = true ∧ (chipAt s 0).fab.txWait = []) := by decide

/-! ### DrizzleOfAPort -/

/-- Chip 0 in power state `ps` with port 17 in state `st` and a MGMT flit of this code at its head. -/
def drizzling (ps : PState) (st : LinkState) (d : Drizzle) (code : Nat) : State :=
  onBoot0 (fun b => { b with pstate := ps }) (onPort0 17 { Port.initial with state := st, driz := d, mgmtRx := [(2, toLE 1 code)] } (works 0))

theorem wit_Drizzle : ∀ code ∈ [1, 2, 3, 4, 5], ∀ st ∈ [LinkState.up, .drizzle], ∀ ps ∈ [PState.active, .dormant],
    let s := drizzling ps st .initial code
    let v := tget .initial (chipAt s 0).fab.ports (17 : Fin 18)
    v.mgmtRx = (2, toLE 1 code) :: [] ∧ byteAt (toLE 1 code) 0 = code ∧ v.state = st ∧ v.driz.allow = true ∧ v.driz.waking = false ∧
    v.driz.asked = false ∧ v.driz.fullSent = false ∧ v.driz.fullSeen = false ∧ v.replay = [] ∧ v.mgmtTx = [] ∧
    (chipAt s 0).boot.pstate = ps ∧ (chipAt s 0).boot.waking = false ∧ (chipAt s 0).fab.noPort = [] ∧ (chipAt s 0).fab.txWait = [] ∧
    (chipAt s 0).obs.lull ≠ .frozen := by decide
theorem wit_Drizzle_asked : ∀ code ∈ [2, 3], ∀ ref ∈ [true, false],
    let s := drizzling .idle .up { Drizzle.initial with asked := true, refused := ref } code
    let v := tget .initial (chipAt s 0).fab.ports (17 : Fin 18)
    v.mgmtRx = (2, toLE 1 code) :: [] ∧ v.driz.asked = true ∧ v.driz.refused = ref ∧ v.state = .up ∧ v.replay = [] ∧ v.mgmtTx = [] ∧
    (v.vcs.any fun e => !e.2.tx.isEmpty) = false ∧ (chipAt s 0).boot.dormantEntry = false := by decide
theorem wit_Drizzle_data : let s := onPort0 17 ({ Port.initial with
      state := .up, driz := { Drizzle.initial with asked := true }, mgmtRx := [(2, toLE 1 2)] }.setVc 0 ⟨0, [⟨true, zeroBytes 16, none⟩], []⟩) (works 0)
    let v := tget .initial (chipAt s 0).fab.ports (17 : Fin 18)
    v.driz.asked = true ∧ v.driz.refused = false ∧ v.state = .up ∧ v.replay = [] ∧ v.mgmtTx = [] ∧
    (v.vcs.any fun e => !e.2.tx.isEmpty) = true := by decide
theorem wit_Drizzle_full : let s := drizzling .idle .drizzle { Drizzle.initial with fullSent := true, waking := true } 5
    let v := tget .initial (chipAt s 0).fab.ports (17 : Fin 18)
    v.mgmtRx = (2, toLE 1 5) :: [] ∧ v.state = .drizzle ∧ v.driz.fullSent = true ∧ v.driz.waking = true := by decide
theorem wit_Drizzle_none : ∀ m, (tget .initial (chipAt (works 0) 0).fab.ports (17 : Fin 18)).mgmtRx.head? ≠ some m := by
  intro m h; cases h

/-! ### CombArray -/

theorem wit_Sequencer : let q : QDesc := ⟨fill1, 1, 0, 0, 0⟩
    let s := active (withDie 3 { Die.initial with work := [q] } (works 0))
    (ctxOf s 0).awake = true ∧ (chipAt s 0).obs.lull ≠ .frozen ∧ (tget .initial (chipAt s 0).eng.dies (3 : Fin 4)).work = q :: [] ∧
    (superCombs (chipAt s 0).config.active.superMap q.super).testBit 127 = true ∧
    (tget .empty (chipAt s 0).eng.combs 127).buf.length < 4 ∧ (ctxOf s 0).tokenMet (3 : Fin 4) q.step q.bytes = true := by decide
theorem wit_Fill : let q : QDesc := ⟨fill1, 1, 0, 0, 0⟩
    let s := active (withComb 127 { Comb.empty with buf := [q] } (works 0))
    let st := (chipAt s 0).mem.store (.sram 3)
    st.poison = [] ∧ st.ue = [] ∧ st.ce = [] ∧ st.onDie = [] ∧ (ctxOf s 0).issuable (127 : Fin 128) 1 ⟨0, 0, 0, 0, 0, 0, 0⟩ = some q := by decide
theorem wit_Stream : let q : QDesc := ⟨fill1.set 0 2, 1, 0, 0, 0⟩
    let s := active (withComb 127 { Comb.empty with buf := [q], bank0 := { Bank.empty with fresh := some (tagOf q.bytes) } } (works 0))
    (chipAt s 0).mem.sram3 = Store.zero ∧ ((tget .empty (chipAt s 0).eng.combs (127 : Fin 128)).bank (dWBank q.bytes)).bad = [] ∧
    (ctxOf s 0).issuable (127 : Fin 128) 2 ⟨0, 0, 0, 0, 0, 0, 0⟩ = some q ∧
    ((tget .empty (chipAt s 0).eng.combs (127 : Fin 128)).bank (dWBank q.bytes)).serves q.bytes = true := by decide
theorem wit_TileLoad : let q : QDesc := ⟨fill1.set 0 2, 1, 0, 0, 0⟩
    let s := active (withComb 127 { Comb.empty with buf := [q] } (works 0))
    let t := active (withComb 127 { Comb.empty with buf := [q], loading := some (0, q) } (works 0))
    (ctxOf s 0).awake = true ∧ (tget .empty (chipAt s 0).eng.combs (127 : Fin 128)).loading = none ∧
    (tget .empty (chipAt s 0).eng.combs (127 : Fin 128)).nextLoad = some q ∧
    (tget .empty (chipAt s 0).eng.combs (127 : Fin 128)).loadWaits q = false ∧ (chipAt s 0).obs.lull ≠ .frozen ∧
    (tget .empty (chipAt t 0).eng.combs (127 : Fin 128)).loading = some (dWBank q.bytes, q) := by decide
theorem wit_Drain : let q : QDesc := ⟨fill1, 1, 0, 0, 0⟩
    let g : Group := ⟨q, 0, [[[⟨0x3F800000, false, false⟩]]], [], true, .clear, .zero, false, 16, 0⟩
    let s := active (withComb 127 { Comb.empty with drain := [g] } (works 0))
    (ctxOf s 0).awake = true ∧ (chipAt s 0).obs.lull ≠ .frozen ∧ (tget .empty (chipAt s 0).eng.combs (127 : Fin 128)).drain = g :: [] ∧
    dAccIn g.desc.bytes = false := by decide

/-! ### RowOperations -/

theorem wit_RowIssue : ∀ o ∈ [0, 1, 2, 3], let q : QDesc := ⟨op1.set 16 (BitVec.ofNat 8 o), 1, 0, 0, 0⟩
    let s := active (withComb 127 { Comb.empty with buf := [q] } (works 0))
    let t := active (withComb 127 { Comb.empty with buf := [q] } (withComb 96 { Comb.empty with sfu := List.replicate 32 (.start q) } (works 0)))
    (ctxOf s 0).awake = true ∧ (chipAt s 0).obs.lull ≠ .frozen ∧ sfuKind o q.bytes = true ∧
    (tget .empty (chipAt s 0).eng.combs (127 : Fin 128)).buf = q :: [] ∧ (tget .empty (chipAt s 0).eng.combs (127 : Fin 128)).hold = none ∧
    (ctxOf s 0).rowCredit (127 : Fin 128) q = true ∧ (ctxOf t 0).rowCredit (127 : Fin 128) q = false := by decide
theorem wit_RowSelection : let q : QDesc := ⟨op1.set 0 4, 1, 0, 0, 0⟩
    let s := active (withComb 127 { Comb.empty with hold := some q } (works 0))
    let u := active (withComb 127 { Comb.empty with buf := [q] } (works 0))
    let t := active (withComb 127 { Comb.empty with buf := [q] } (withComb 96 { Comb.empty with sel := List.replicate 16 (.start q) } (works 0)))
    (dOp q.bytes == 4) = true ∧ (ctxOf s 0).rowCredit (127 : Fin 128) q = true ∧
    (tget .empty (chipAt s 0).eng.combs (127 : Fin 128)).hold = some q ∧ (ctxOf u 0).rowCredit (127 : Fin 128) q = true ∧
    (tget .empty (chipAt u 0).eng.combs (127 : Fin 128)).buf = q :: [] ∧ (ctxOf t 0).rowCredit (127 : Fin 128) q = false := by decide
theorem wit_Grant : let s := active (withDie 3 { Die.initial with sfuQ := [96] } (works 0))
    (ctxOf s 0).awake = true ∧ (chipAt s 0).obs.lull ≠ .frozen ∧ (tget .initial (chipAt s 0).eng.dies (3 : Fin 4)).granted = none ∧
    (tget .initial (chipAt s 0).eng.dies (3 : Fin 4)).sfuQ = 96 :: [] := by decide
theorem wit_TileEnd : ∀ l ∈ [1, 129], let t := SfuCtx.start ⟨op1.set 12 (BitVec.ofNat 8 l), 1, 0, 0, 0⟩
    let s := active (withComb 96 { Comb.empty with sfu := [t] } (withDie 3 { Die.initial with granted := some 96 } (works 0)))
    let st := (chipAt s 0).mem.store (.sram 3)
    (ctxOf s 0).awake = true ∧ (chipAt s 0).obs.lull ≠ .frozen ∧ (tget .initial (chipAt s 0).eng.dies (3 : Fin 4)).granted = some 96 ∧
    96 / 32 = 3 ∧ (tget .empty (chipAt s 0).eng.combs 96).sfu = t :: [] ∧ sRowOp t.desc.bytes = 0 ∧ dOp t.desc.bytes = 3 ∧ t.bad = false ∧
    st.poison = [] ∧ st.ue = [] ∧ st.ce = [] ∧ st.onDie = [] ∧ t.row < dRows t.desc.bytes ∧ dRows t.desc.bytes ≤ t.row + 1 ∧ t.pass = 0 ∧
    (l = 1 → rLen t.desc.bytes ≤ 128 * (t.tile + 1)) ∧ (l = 129 → 128 * (t.tile + 1) < rLen t.desc.bytes) := by decide
theorem wit_Selection : ∀ n ∈ [1, 2], let t := SfuCtx.start ⟨(op1.set 0 4).set 16 1 |>.set 8 (BitVec.ofNat 8 n), 1, 0, 0, 0⟩
    let s := active (withComb 96 { Comb.empty with sel := [t] } (withDie 3 { Die.initial with selQ := [96] } (works 0)))
    let st := (chipAt s 0).mem.store (.sram 3)
    (ctxOf s 0).awake = true ∧ (tget .initial (chipAt s 0).eng.dies (3 : Fin 4)).selQ = 96 :: [] ∧ (chipAt s 0).obs.lull ≠ .frozen ∧
    st.poison = [] ∧ st.ue = [] ∧ st.ce = [] ∧ st.onDie = [] ∧ dOp t.desc.bytes = 4 ∧
    (tget .empty (chipAt s 0).eng.combs 96).sel = t :: [] ∧ lK t.desc.bytes ≤ 64 ∧ lK t.desc.bytes ≤ rLen t.desc.bytes ∧
    dRows t.desc.bytes = n := by decide

/-! ### SfuStepFrames -/

theorem wit_SfuFrame : let s := active (withDie 3 { Die.initial with lanes := [(63, { Lane.empty with regs := [(1, one32)] })] } (works 0))
    (ctxOf s 0).awake = true ∧ (chipAt s 0).obs.lull ≠ .frozen ∧
    (tget .empty (tget .initial (chipAt s 0).eng.dies (3 : Fin 4)).lanes (63 : Fin 64)).result = none ∧
    (∀ t < 14, wStep (BitVec.ofNat 64 t).toNat = t) := by decide

/-! ### SfuStepResults -/

theorem wit_SfuResults : let s := active (withDie 3 { Die.initial with lanes := [(63, { Lane.empty with
      regs := [(1, one32), (2, 0x80000000), (3, 0xBF800000), (4, nan32), (5, 0xFF800000), (7, 0x3C000000)], latch := some (1, 2, 3) })] } (works 0))
    let l := tget .empty (tget .initial (chipAt s 0).eng.dies (3 : Fin 4)).lanes (63 : Fin 64)
    (ctxOf s 0).awake = true ∧ (chipAt s 0).obs.lull ≠ .frozen ∧ l.result = none ∧ l.latch = some (1, 2, 3) ∧
    dec32 (l.reg 0 1) = .fin false 8388608 (-23) ∧ dec32 (l.reg 0 2) = .fin true 0 (-149) ∧ dec32 (l.reg 0 3) = .fin true 8388608 (-23) ∧
    isNan (l.reg 0 4) = true ∧ isNan (l.reg 0 1) = false ∧ dec32 (l.reg 0 5) = .inf true ∧ dec32 (l.reg 0 7) = .fin false 8388608 (-30) ∧ intOf32 (l.reg 0 1) = some 1 ∧
    (∀ t < 14, ∀ a ∈ [1, 2, 3, 4, 5, 7], let u := (BitVec.ofNat 64 (t + 2 ^ 6 * 6 + 2 ^ 10 * a + 2 ^ 14 + 2 ^ 32)).toNat
      wStep u = t ∧ wDst u = 6 ∧ wDst u < 14 ∧ wSA u = a ∧ wSB u = 1 ∧ bit (wImm u) 0 = true) := by decide
theorem wit_SfuTrig : 2 * (8388608 * 2 ^ ((-30 : Int) + 149).toNat * twoOverPi256) + 2 ^ 405 < 2 * 2 ^ 405 := by decide

/-! ### FabricMessages -/

/-- A route section: this chip 1, epoch 0, destination 2 on plane port 0, escape plane 3, group 0 of Super 0 with member 0 chip
2. -/
def routed2 : Mem := imgOf (zeroBytes 16 ++ [1, 0, 0, 0, 1]) ++ [(0x108, 1), (0x10A, 0x4C), (0x20110, 2)]

/-- Chip 0 with that route section active and message `b` at the head of channel `vc` of port 0, ports 0 and 3 UP. -/
def withMail (vc : Nat) (b : Bytes) : State :=
  onChip0 (fun h => { h with
    config := { h.config with active := { h.config.active with routes := routed2 } }
    fab := { h.fab with
      ports := [(0, { (tget .initial (chipAt (withMsg vc b (works 0)) 0).fab.ports 0) with state := .up }), (3, { Port.initial with state := .up })]
      outstanding := [⟨7, 4, 64, 16⟩], noPort := [⟨[], 2, 2, some 7⟩] } }) (works 0)

set_option maxRecDepth 20000 in
theorem wit_FabricWrite : ∀ fresh ∈ [true, false], ∀ a ∈ [0, 2 ^ 40],
    let b := setField (msgHead 1 1 1 2 0 1 7 0 a 0 0 ++ zeroBytes 64) 6 2 (if fresh then 0 else 9)
    let s := withMail 2 b
    ((ctxOf s 0).takeMsg 0 2).map (·.2) = some b ∧ (chipAt s 0).obs.lull ≠ .frozen ∧ msgBad 2 b = false ∧ mOp b = 1 ∧
      (mData b).length = 64 * mLen b ∧ (ctxOf s 0).chipId = some 1 ∧ 1 ≠ mSrc b ∧ bit ((ctxOf s 0).dest (mSrc b)) 22 = true ∧
      (ctxOf s 0).mostCredits 1 ((ctxOf s 0).allowedUp (mSrc b)) = some 0 ∧ (ctxOf s 0).hasRoom 0 1 32 = true ∧ (ctxOf s 0).freshEpoch b = fresh ∧
      inGeneral (chipAt s 0).config.active.superMap (mSuper b) (mAddr b) (64 * mLen b) = decide (a = 0) := by decide
set_option maxRecDepth 20000 in
theorem wit_FabricCollective : ∀ rank ∈ [0, 1],
    let b := msgHead 3 1 1 2 0 0 0 0 (rank * 2 ^ 54) 0 0 ++ zeroBytes 64
    let s := withMail 3 b
    ((ctxOf s 0).takeMsg 0 3).map (·.2) = some b ∧ (chipAt s 0).obs.lull ≠ .frozen ∧ msgBad 3 b = false ∧ mOp b = 3 ∧
      (mData b).length = 64 * mLen b ∧ (ctxOf s 0).freshEpoch b = true ∧ (ctxOf s 0).collectiveOk b = decide (rank = 0) := by decide
theorem wit_FabricEnded : ∀ st ∈ [0, 0x0503, 0x0504],
    let b := msgHead 2 0 1 2 0 0 7 st 0 0 0
    let s := withMail 1 b
    7 < 65536 ∧ ((ctxOf s 0).takeMsg 0 1).map (·.2) = some b ∧ (chipAt s 0).obs.lull ≠ .frozen ∧ msgBad 1 b = false ∧ mOp b = 2 ∧
      (ctxOf s 0).freshEpoch b = true ∧ mTag b = 7 ∧
      ((chipAt s 0).fab.outstanding.find? fun o => o.tag == 7) = some ⟨7, 4, 64, 16⟩ ∧
      (chipAt s 0).fab.noPort = ⟨[], 2, 2, some 7⟩ :: [] := by decide
theorem wit_FabricEscape : ∀ vc : Fin 6, vc = 0 ∨ vc = 2 ∨ vc = 3 →
    let f : Slot := ⟨true, msgHead 2 0 2 0 0 0 0 0 0 0 0, none⟩
    let s := onChip0 (fun h => { h with fab := { h.fab with noPort := [] } }) (withMail 5 [])
    let s := onPort0 0 ((tget .initial (chipAt s 0).fab.ports 0).setVc vc ⟨0, [f], []⟩) s
    let d := field f.bytes 2 2 % 32768;
    (chipAt s 0).obs.lull ≠ .frozen ∧ ((tget .initial (chipAt s 0).fab.ports 0).vc vc).tx = f :: [] ∧
      (ctxOf s 0).dest d % 65536 ≠ 0 ∧ (tget .initial (chipAt s 0).fab.ports (bits ((ctxOf s 0).dest d) 18 4)).state = .up ∧
      f.start = true ∧ (chipAt s 0).fab.txWait = [] ∧
      ((tget .initial (chipAt s 0).fab.ports (bits ((ctxOf s 0).dest d) 18 4)).vc 5).tx.length + (2 + 4 * (byteAt f.bytes 1 % 32)) ≤ vcRoom ∧
      ∀ j ∈ (ctxOf s 0).allowedUp d, ((tget .initial (chipAt s 0).fab.ports j).vc vc).credits = 0 := by decide
theorem wit_RouteEpoch : let s := onChip0 (fun h => { h with config := { h.config with pendingRoutes := [routed2] } }) (works 0)
    (chipAt s 0).config.pendingRoutes = routed2 :: [] ∧ imgField routed2 8 8 ≤ (ctxOf s 0).time ∧
    (chipAt s 0).fab.noPort = [] ∧ (chipAt s 0).fab.txWait = [] := by decide

/-! ### TimeSynchronisation -/

/-- Chip 0 with port 17 as `v` and the time-sync parent port 17, this chip 1 and chip 2 authorised, in Lull state `l`. -/
def syncing (v : Port) (l : LullState) (synced : Bool) : State :=
  onChip0 (fun h => { h with
    config := { h.config with active := { h.config.active with
      routes := [(16, 1), (18, 17), (32, 2)], lull := imgOf ([1, 0, 0, 0] ++ toLE 4 5 ++ toLE 8 100 ++ toLE 8 1000000) } }
    fab := { h.fab with synced := synced }, obs := { h.obs with lull := l } }) (onPort0 17 v (works 0))

theorem wit_SyncSend : ∀ st ∈ [LinkState.up, .down], let v := { Port.initial with state := st, syncRx := [([1], 9)] }
    let s := onChip0 (fun h => { h with fab := { h.fab with time := 100 } }) (onPort0 17 v (works 0))
    let w := tget .initial (chipAt s 0).fab.ports (17 : Fin 18)
    w.state.live = decide (st = .up) ∧ w.syncRx = ([1], 9) :: [] ∧ byteAt [1] 0 = 1 ∧ ((98 : Word64) - 100).toNat > 3 ∧
    ((100 : Word64) - 98).toNat ≤ 3 ∧ ((104 : Word64) - 100).toNat > 3 ∧ ((100 : Word64) - 104).toNat > 3 := by decide
theorem wit_SyncResponse : ∀ synced ∈ [true, false], ∀ delays ∈ [[], [-20]],
    let b : Bytes := [2] ++ zeroBytes 7 ++ toLE 8 100 ++ toLE 8 140 ++ toLE 8 150
    let s := syncing { Port.initial with state := .up, syncRx := [(b, 170)], delays := delays } .disarmed synced
    let v := tget .initial (chipAt s 0).fab.ports (17 : Fin 18)
    let off : Int := ((140 - 100) - (170 - 150)) / 2
    let delay : Int := ((140 - 100) + (170 - 150)) / 2;
    v.syncRx = (b, 170) :: [] ∧ byteAt b 0 = 2 ∧ field b 8 8 = 100 ∧ field b 16 8 = 140 ∧ field b 24 8 = 150 ∧
    (ctxOf s 0).syncParent = some 17 ∧ (ctxOf s 0).syncParent ≠ some 16 ∧ v.offsets = [] ∧ (chipAt s 0).fab.synced = synced ∧
    (chipAt s 0).fab.syncLost = false ∧ (chipAt s 0).obs.lull ≠ .armed ∧ off.natAbs ≤ 1000 ∧
    (delays = [] → ∀ m ∈ v.delays, delay ≤ m + 8) ∧ (delays = [-20] → v.delays.min? = some (-20) ∧ -20 + 8 < delay) := by decide
theorem wit_SyncOther : let b : Bytes := [2]
    let s := onPort0 16 { Port.initial with state := .up, syncRx := [(b, 170)] } (syncing Port.initial .disarmed true)
    (tget .initial (chipAt s 0).fab.ports (16 : Fin 18)).syncRx = (b, 170) :: [] ∧ byteAt b 0 = 2 ∧
    (ctxOf s 0).syncParent ≠ some (16 : Fin 18).val := by decide
theorem wit_Routed : ∀ src ∈ [2, 3], ∀ l ∈ [LullState.frozen, .disarmed],
    let b : Bytes := [0x10, 0] ++ toLE 2 src ++ toLE 2 1 ++ [1, 0, 1, 0, 0, 0] ++ toLE 4 5 ++ toLE 8 999999
    let s := syncing { Port.initial with state := .up, mgmtRx := [(2, b)] } l true;
    (tget .initial (chipAt s 0).fab.ports (17 : Fin 18)).mgmtRx = (2, b) :: [] ∧ byteAt b 0 = 0x10 ∧ (ctxOf s 0).chipId.isSome = true ∧
    (ctxOf s 0).authorised (field b 2 2) = decide (src = 2) ∧ byteAt b 6 = 1 ∧ (chipAt s 0).obs.lull = l ∧ byteAt b 8 = 1 ∧
    field b 12 4 = lullId (chipAt s 0).config.active.lull ∧ field b 16 8 < lullRelease (chipAt s 0).config.active.lull := by decide

/-! ### LullOfAChip -/

theorem wit_LullFreeze : let s := syncing { Port.initial with state := .up } .armed true
    let s := onChip0 (fun h => { h with fab := { h.fab with time := 100 } }) s
    (chipAt s 0).mem.store .system = Store.zero ∧ (chipAt s 0).obs.lull = .armed ∧ lullT (chipAt s 0).config.active.lull ≤ (ctxOf s 0).time ∧
    (tget .initial (chipAt s 0).fab.ports 17).state = .up ∧ (tget .initial (chipAt s 0).fab.ports 16).state = .down := by decide
theorem wit_LullFlit : ∀ b ∈ [1, 2], let s := onPort0 17 { Port.initial with state := .up, mgmtRx := [(4, [b])] } (works 0)
    (tget .initial (chipAt s 0).fab.ports (17 : Fin 18)).mgmtRx = (4, [b]) :: [] ∧ byteAt [b] 0 = b.toNat := by decide
theorem wit_LullCut :
    let s := syncing { Port.initial with state := .up, ownCut := some (0, 0, 0, []), cutMissing := true } .frozen true
    let s := onChip0 (fun h => { h with
      obs := { h.obs with releaseAt := 5, pending := [(ctrKey 2 127 8, 3)] }
      fab := { h.fab with time := 5 } }) s;
    (chipAt s 0).obs.lull = .frozen ∧ (tget .initial (chipAt s 0).fab.ports (17 : Fin 18)).ownCut.isSome = true ∧
    (tget .initial (chipAt s 0).fab.ports (17 : Fin 18)).partnerCut = none ∧ (chipAt s 0).obs.cutWritten = false ∧
    (ctxOf s 0).cutsIn = true ∧ (chipAt s 0).boot.linkFatal = false ∧ (chipAt s 0).obs.releaseAt ≤ (ctxOf s 0).time ∧
    (chipAt s 0).obs.stopInLull = false ∧ lullCoord (chipAt s 0).config.active.lull = false ∧
    (chipAt s 0).obs.pending = [(ctrKey 2 127 8, 3)] ∧ ctrKey 2 127 8 / 2 ^ 24 = 0x02 := by decide

/-! ### ReadOuts -/

theorem wit_CounterRead : let k := cmdOf 0x70 [(28, 1), (17, 16), (26, 1)]
    CanRun 0 k (holding k) ∧ k.opcode = 0x70 ∧ k.arg 28 1 % 4 = 1 ∧ k.resultPtr ≠ 0 := by decide
theorem wit_HealthQuery : ∀ a ∈ [0, 1], ∀ q ∈ [0, 1], let k := cmdAt q 0xA0 [(28, a), (17, 16), (25, 17)]
    CanRun 0 k (holding k) ∧ k.opcode = 0xA0 ∧ k.arg 28 1 % 4 = a ∧ k.resultPtr ≠ 0 ∧ k.qp = q := by decide
theorem wit_TraceConfig : ∀ b ∈ [(1, 0), (0, 1)], let k := cmdOf 0x72 [(28, 63), (32, b.1), (40, b.2)]
    CanRun 0 k (holding k) ∧ k.opcode = 0x72 ∧ k.arg 32 8 = b.1 ∧ k.arg 40 4 = b.2 := by decide
theorem wit_TraceConfig_good : ∀ m ∈ [0, 63], let k := cmdOf 0x72 [(28, m), (33, 16 * (m / 63)), (42, m / 63)]
    CanRun 0 k (holding k) ∧ k.opcode = 0x72 ∧ k.arg 28 1 % 64 = m ∧ k.arg 32 8 = 4096 * (m / 63) ∧ k.arg 40 4 = 65536 * (m / 63) ∧
    ((k.arg 32 8 = 0 ∧ k.arg 40 4 = 0) ∨ (k.arg 32 8 ≠ 0 ∧ k.arg 32 8 % 4096 = 0 ∧ k.arg 40 4 % 4096 = 0 ∧ 65536 ≤ k.arg 40 4 ∧
      k.arg 40 4 ≤ 2 ^ 30)) ∧
    (chipAt (holding k) 0).obs.classMask = 0 := by decide
theorem wit_TraceConfig_new : let k := cmdOf 0x72 [(28, 63), (33, 16), (42, 1)]
    CanRun 0 k (holding k) ∧ k.arg 32 8 = 4096 ∧ k.arg 40 4 = 65536 ∧ k.arg 32 8 ≠ (chipAt (holding k) 0).obs.hostBase := by decide
theorem wit_HostRing : ∀ n ∈ [0, 1920],
    let s := onChip0 (fun h => { h with obs := { h.obs with ring := [(5, [1])], hostBase := 4096, hostSize := 65536, producer := n } }) (works 0)
    let q := (chipAt s 0).obs
    q.ring = (5, [1]) :: [] ∧ q.hostBase ≠ 0 ∧ q.lull ≠ .frozen ∧ (chipAt s 0).boot.linkFatal = false ∧ (chipAt s 0).boot.ready = true ∧
    (n = 0 → n - q.consumer < (q.hostSize - 4096) / 32) ∧ (n = 1920 → (q.hostSize - 4096) / 32 ≤ n - q.consumer) ∧
    (chipAt s 0).mem.store .system = Store.zero ∧ q.lossSrc = 0 ∧ q.lossRing = 0 ∧ q.lossEcc = 0 ∧ (0 : Word64).toNat ≤ q.producer := by decide

/-! ### LimitsOfAChip -/

/-- Chip 0 Active, in Tailwind with F_MIN 600 and F_MAX 2,100, an allotment of 1,400 W up to `p` W, and an average of `avg` mW. -/
def drawing (p avg : Nat) : State := active (onChip0 (fun h => { h with power := { h.power with a := 1400, p := p, sum1ms := 1000 * avg } }) (works 0))

/-- The same chip in Lockstep. -/
def lockstepped (s : State) : State := onChip0 (fun h => { h with config := { h.config with active := { h.config.active with
  power := imgWrite h.config.active.power 1 [1] } } }) s

/-- Chip 0 in Lull state `l`, nine samples of 2,000 W before. -/
def sampled (l : LullState) : State := onChip0 (fun h => { h with
  obs := { h.obs with lull := l }, power := { h.power with samples := List.replicate 9 2000000, met := List.replicate 7 0 } }) (active (works 0))

theorem wit_PowerSample : ∀ l ∈ [LullState.disarmed, .frozen], ∀ input ∈ [0, 2000000],
    let h := chipAt (sampled l) 0
    h.boot.rails = .up ∧ h.power.fastLimit = false ∧ h.power.met.length = 7 ∧ h.obs.lull = l ∧ h.boot.pstate = .active ∧
    (input = 0 → ((min (2200000 + 15 * 2200000 / 1000 + 3000) (min 2200000 input) :: h.power.samples).take 10).sum ≤ 19000000) ∧
    (input = 2000000 → 19000000 < ((min (2200000 + 15 * 2200000 / 1000 + 3000) (min 2200000 input) :: h.power.samples).take 10).sum) := by
  decide
theorem wit_Limiter : ∀ l ∈ [(1400, 1370000), (1400, 1399000), (1500, 1499000), (1400, 1000000)], let s := drawing l.1 l.2
    let p := (chipAt s 0).power
    let m := (chipAt s 0).config.active.power
    let f := fun (d : Nat) => (tget .initial (chipAt s 0).eng.dies d).mhz
    let avg := p.sum1ms / 1000
    (chipAt s 0).boot.pstate = .active ∧ (chipAt s 0).obs.lull ≠ .frozen ∧ avg ≤ 1000 * p.p ∧ p.throttled = [] ∧
    (∀ d < 4, (tget .initial (chipAt s 0).eng.dies d).storm = false ∧ (tget .initial (chipAt s 0).eng.dies d).nextStep ≤ s.now) ∧
    ppLockstep m = false ∧ (∀ d < 4, ppFMin m < f d ∧ f d < ppFMax m) ∧ p.gust = none ∧ (ctxOf s 0).gustMay = decide (l.1 = 1500) ∧
    (l.2 = 1370000 → 970 * p.a ≤ avg ∧ avg ≤ 990 * p.a) ∧ (1390000 < l.2 → 990 * p.a < avg) ∧ (l.2 = 1000000 → avg < 970 * p.a) := by decide
theorem wit_LimiterLock : let s := lockstepped (drawing 1400 1000000)
    ppLockstep (chipAt s 0).config.active.power = true ∧ (chipAt s 0).power.order = none ∧
    (chipAt s 0).power.sum1ms / 1000 < 970 * (chipAt s 0).power.p ∧ (chipAt s 0).boot.pstate = .active := by decide
theorem wit_GustEnd : ∀ why ∈ [GustEnd.tenMs, .belowAllotment, .lull, .throttle, .noHeadroom],
    let s := onChip0 (fun h => { h with obs := { h.obs with lull := .frozen }, power := { h.power with gust := some 0, throttled := [0] } })
      { drawing 1400 1000000 with now := 10000000 }
    (chipAt s 0).power.gust = some 0 ∧ (ctxOf s 0).gustOver why = true := by decide
theorem wit_Share : (chipAt (drawing 1400 1000000) 0).obs.lull ≠ .frozen ∧ superDefined (chipAt (drawing 1400 1000000) 0).config.active.superMap 0 = true ∧
    ∃ avg, (ctxOf (drawing 1400 avg) 0).limiting = true := ⟨by decide, by decide, 1400000, by decide⟩
theorem wit_Droop : ∀ st ∈ [true, false], let s := withDie 3 { Die.initial with storm := st } (works 0)
    let v := tget .initial (chipAt s 0).eng.dies (3 : Fin 4)
    (within s.now 1000000 v.droops ++ [s.now]).length ≤ 1000 ∧ v.storm = st ∧ (chipAt s 0).boot.rails = .up ∧
    ppLockstep (chipAt s 0).config.active.power = false ∧ (chipAt s 0).obs.lull ≠ .frozen ∧ (chipAt s 0).boot.pstate ≠ .dormant := by decide
theorem wit_DroopStorm : ∀ n, let s := withDie 3 { Die.initial with droops := List.replicate (n + 1) 0 } (works 0)
    (within s.now 1000000 (tget .initial (chipAt s 0).eng.dies (3 : Fin 4)).droops ++ [s.now]).length = n + 2 := by
  intro n; show ((List.replicate (n + 1) 0).filter (fun t => decide (0 < t + 1000000)) ++ [0]).length = n + 2; simp

/-! ### ThermalLockstepAndConflicts -/

/-- An Active chip with the given groups throttled; the next lowering of die 0 is not due before 1 ns where there are any. -/
def throttling (thr : List Nat) : State :=
  onChip0 (fun h => { h with power := { h.power with throttled := thr, thermalNext := thr.map fun g => (g, 1) } }) (active (works 0))

theorem wit_Thermal_temps : ∀ l ∈ [[80], [100], [106], [116]], let t := fun (g : Nat) => l.getD g 0
    (∀ g < 14, g ≠ 0 → t g < (thermalPoints g).2.1) ∧ (l = [80] → ∀ g < 14, t g < (thermalPoints g).2.1) ∧
    (l = [100] → 95 < t 0 ∧ t 0 ≤ 105) ∧ (l = [106] ∨ l = [116] → (thermalPoints 0).2.2.1 < t 0) ∧
    (l = [106] → t 0 ≤ (thermalPoints 0).2.2.2) ∧ (l = [116] → (thermalPoints 0).2.2.2 < t 0) := by decide
theorem wit_Thermal : ∀ thr ∈ [[], [0]], let h := chipAt (throttling thr) 0
    h.boot.rails = .up ∧ h.power.throttled = thr ∧ h.power.stopped = [] ∧ ppLockstep h.config.active.power = false ∧
    h.serve.steps = [] ∧ h.eng.copies = [] ∧ h.obs.lull ≠ .frozen ∧ h.boot.pstate = .active ∧ h.boot.tripLine = false := by decide
theorem wit_Thermal_next : tget 0 (chipAt (throttling []) 0).power.thermalNext 0 ≤ (throttling []).now ∧
    (throttling [0]).now < tget 0 (chipAt (throttling [0]) 0).power.thermalNext 0 := by decide
theorem wit_Order : let s := onChip0 (fun h => { h with power := { h.power with orderSent := some 1500 } }) (lockstepped (works 0))
    (chipAt s 0).power.orderSent = some 1500 ∧ ppLockstep (chipAt s 0).config.active.power = true ∧
    (∀ o ∈ s.nd.orders, o.1 = ppGroup (chipAt s 0).config.active.power → o.2.2 = (0 : Fin 8).val) ∧
    (let r := { s with nd := { s.nd with orders := [(0, 1500, 1)] } };
      ∃ o ∈ r.nd.orders, o.1 = ppGroup (chipAt r 0).config.active.power ∧ o.2.2 ≠ (0 : Fin 8).val) := by decide
theorem wit_Order_other : let r := onChip0 (fun h => { h with power := { h.power with orderSent := some 1500 } }) (works 0)
    let s := onBoot0 (fun b => { b with pstate := .dormant }) r
    (chipAt s 0).power.orderSent = some 1500 ∧ ppLockstep (chipAt s 0).config.active.power = false ∧ (chipAt s 0).boot.pstate = .dormant := by decide
theorem wit_Conflict : let r := { works 0 with now := 100000000 }
    let s := onChip0 (fun h => { h with power := { h.power with conflicts := [⟨4, 0xFF, 0, none, false⟩] } }) r
    (∃ e ∈ (chipAt s 0).power.conflicts, e.kind = (3 : Fin 5).val + 1 ∧ e.die = 0xFF ∧ e.reported = false ∧
      e.since + 1000000 * ppConflict (chipAt s 0).config.active.power ≤ s.now) ∧ (chipAt s 0).obs.lull ≠ .frozen ∧
    (∀ e ∈ (chipAt s 0).stew.events, e.code ≠ 0x0B01) ∧ (chipAt (works 0) 0).power.conflicts = [] := by decide

/-! ### CalibrationAndEnergy -/

theorem wit_Calibrate : ∀ w ∈ [0, 1], let k := cmdOf 0x61 [(28, w)]
    CanRun 0 k (holding k) ∧ k.opcode = 0x61 ∧ (chipAt (holding k) 0).power.quiet = .none ∧ k.arg 28 4 = w := by decide
theorem wit_QuietStart : let s := onChip0 (fun h => { h with power := { h.power with quiet := .draining 1 } }) (works 0)
    (chipAt s 0).power.quiet = .draining 1 ∧ (ctxOf s 0).drained = true ∧ (chipAt s 0).obs.lull ≠ .frozen ∧
    ∀ f ∈ (chipAt s 0).eng.foragers, f.2.running = none := by decide

/-- A quiet window from 0 ns, spoilt by a Lull (2), a control (3), a sensor (4) or not. -/
def quietWin (spoilt : Nat) : QuietWin :=
  ⟨0, List.replicate 14 40, List.replicate 7 0, List.replicate 6 0, 0, spoilt == 2, spoilt == 3, spoilt == 4⟩

/-- Chip 0 at the end of that window, `met` nJ metered on each rail over about 1,000 nJ modelled. -/
def measured (spoilt met : Nat) (k : Cmd) : State :=
  onChip0 (fun h => { h with power := { h.power with
    quiet := .window 1, quietWin := some (quietWin spoilt), met := List.replicate 7 met, stat := List.replicate 6 (2 ^ 84 / 1000000) } })
    { holding k with now := 200000 }

theorem wit_QuietEnd : ∀ sp ∈ [0, 2, 3, 4], ∀ met ∈ [0, 900], let k := { cmdOf 0x61 [(28, 1)] with phase := .running }
    let s := measured sp met k
    let q := quietWin sp
    let p := (chipAt s 0).power
    let fit := fun (r : Nat) => Rounding.down.div (1000 * (p.met.getD (r + 1) 0 - q.met.getD (r + 1) 0) * 2 ^ 84)
      (1000000000 * (p.stat.getD r 0 - q.stat.getD r 0))
    (ctxOf s 0).cmd? k.id = some k ∧ (ctxOf s 0).canPost k.qp false = true ∧ (∀ h ∈ (chipAt s 0).stew.held, h.qp ≠ k.qp) ∧
    p.quiet = .window k.id ∧ p.quietWin = some q ∧ q.start + 200000 ≤ s.now ∧
    (if q.lull = true then 2 else if q.control = true then 3 else if q.sensor = true then 4 else 0) = sp ∧
    p.stale = [] ∧ p.corrs.length = 6 ∧ (∀ r < 6, fit r = met) ∧ (chipAt s 0).ledger.hbmBytes = q.hbm := by decide
theorem wit_QuietTimeout : let k := { cmdOf 0x61 [(28, 1)] with phase := .running }
    let s := onChip0 (fun h => { h with power := { h.power with quiet := .draining 1 } }) (holding k)
    (chipAt s 0).power.quiet = .draining k.id ∧ (ctxOf s 0).cmd? k.id = some k ∧ (ctxOf s 0).canPost k.qp false = true ∧
    (∀ h ∈ (chipAt s 0).stew.held, h.qp ≠ k.qp) := by decide
theorem wit_Energy : (chipAt (works 0) 0).boot.rails = .up ∧ (chipAt (works 0) 0).obs.counters = [] ∧
    (chipAt (works 0) 0).obs.lull ≠ .frozen ∧ (chipAt (works 0) 0).power.met = (chipAt (works 0) 0).power.splitMet ∧
    (let s := onChip0 (fun h => { h with obs := { h.obs with lull := .frozen } }) (works 0);
      (chipAt s 0).boot.rails = .up ∧ (chipAt s 0).obs.lull = .frozen) := by decide

/-- Five milliseconds of 1,000 modelled dynamic, 500 static and `met` metered, all rails at 1,500 MHz and 80 °C, the newest
first. -/
def millis (met : Nat) : List Bucket := (List.range 5).map fun i =>
  ⟨1000000 * (4 - i), List.replicate 6 1000, List.replicate 6 500, List.replicate 6 met, List.replicate 6 (1500, 1500), List.replicate 6 (80, 80)⟩

theorem wit_Reference : ∀ met ∈ [1500, 9000],
    let s := onChip0 (fun h => { h with power := { h.power with buckets := millis met, stale := [2] } }) { works 0 with now := 5000000 }
    let p := (chipAt s 0).power
    p.fiveMs (p.refFrom.getD (2 : Fin 6) 0) s.now = some (millis met) ∧ steady (millis met) (2 : Fin 6) = true ∧
    gainFit .up (millis met) (2 : Fin 6) (p.corrs.getD (2 : Fin 6) 1000) = some (if met = 1500 then 1000 else 8500) ∧
    (2 : Fin 6).val ∈ p.stale ∧ (chipAt s 0).obs.lull ≠ .frozen ∧ (chipAt s 0).boot.pstate ≠ .dormant := by decide
theorem wit_Stale : let s := { works 0 with now := 60000000000 }
    (chipAt s 0).power.fiveMs ((chipAt s 0).power.refFrom.getD (5 : Fin 6) 0) s.now = none ∧ (chipAt s 0).boot.rails = .up ∧
    (5 : Fin 6).val ∉ (chipAt s 0).power.stale ∧ (chipAt s 0).power.refAt.getD (5 : Fin 6) 0 + 60000000000 ≤ s.now ∧
    (chipAt s 0).obs.lull ≠ .frozen := by decide

/-! ### Allotments -/

/-- The tray with chip 0 working, good power at position 0. -/
def powered : State := { works 0 with nd := (works 0).nd.setPosition 0 { Position.initial with pwrgd := true } }

theorem wit_Allotments : (chipAt powered 0).boot.rails = .up ∧ (chipAt powered 0).boot.fwRunning = true ∧ powered.nd.running = true ∧
    (powered.nd.position (0 : Fin 8)).pwrgd = true ∧ (powered.nd.position (1 : Fin 8)).pwrgd = false ∧
    (chipAt powered 0).power.ndevasLost = false ∧ powered.nd.holding = false ∧
    (let n := { powered.nd with hazards := [⟨4, 0, true, true, 0⟩] }; n.holding = true ∧ n.reducing = false ∧
      (n.position (0 : Fin 8)).aAtHold = none) ∧
    (∀ lost ∈ [true, false], ∀ p ∈ [1400, 1500],
      let s := onChip0 (fun h => { h with power := { h.power with sent := some ⟨1400, p, false, false⟩, ndevasLost := lost } }) powered;
      (chipAt s 0).power.sent = some ⟨1400, p, false, false⟩ ∧ (chipAt s 0).power.ndevasLost = lost) ∧
    (let s := onChip0 (fun h => { h with power := { h.power with sent := some ⟨1400, 1500, false, false⟩ } }) powered;
      (chipAt s 0).power.sent = some ⟨1400, 1500, false, false⟩) := by decide

/-! ### CeilingsFitTheTrayCap -/

theorem wit_CeilingsFitTheTrayCap : powered.nd.running = true ∧ CapInRange powered := by decide

/-! ### LoopChannels -/

/-- The tray with loop channel 15 as `l`, taken into use for temperature in the active set where `use`. -/
def withLoop (use : Bool) (l : Loop) : State :=
  let n := (works 0).nd
  let n := { n with active := { n.active with loops := n.active.loops.set 15 (LoopCfg.initial (if use then 2 else 0)) } }
  { works 0 with nd := n.setLoop 15 { l with cfg := LoopCfg.initial 2 } }

/-- The tray while the Ndevas restarts. -/
def restarting : State := { works 0 with nd := { (works 0).nd with running := false, startCause := 2 } }

theorem wit_Supply : ∀ run ∈ [0, 9], ∀ mv ∈ [20399, 20400, 28800, 28801],
    let s := { works 0 with nd := { (works 0).nd with fieldRun := run } }
    s.nd.acts = true ∧ s.nd.fieldBad = false ∧ s.nd.fieldRun = run ∧
    (decide (mv < 20400 ∨ 28800 < mv) = decide (mv = 20399 ∨ mv = 28801)) ∧ LogRoom s := by decide
theorem wit_Slice : LogRoom (withLoop true { Loop.initial with state := .normal }) ∧
    (withLoop true { Loop.initial with state := .normal }).nd.acts = true ∧
    (∀ v ∈ [(3599, 3), (3600, 1), (3800, 0), (20500, 0), (20501, 2), (21000, 2), (21001, 5), (499, 4), (500, 3)],
      (readingOf (withLoop true { Loop.initial with state := .normal }).nd (15 : Fin 16) (List.replicate 16 v.1)).quality = v.2) ∧
    (let s := withLoop true { Loop.initial with state := .fault, good := 105 };
      (s.nd.loop (15 : Fin 16)).good = 105 ∧ (s.nd.loop (15 : Fin 16)).cfg.role ≠ 0 ∧ (s.nd.setLoopCfg (15 : Fin 16)).role ≠ 0 ∧
      (readingOf s.nd (15 : Fin 16) (List.replicate 16 12400)).quality = 0) ∧
    ((withLoop false Loop.initial).nd.setLoopCfg (15 : Fin 16)).role = 0 ∧ ((works 0).nd.loop (15 : Fin 16)).cfg.role = 0 := by decide
theorem wit_Comparator : ∀ st ∈ [LoopState.normal, .fault, .disconnected], ∀ cmp ∈ [[0], [1], [2], [3]],
    let s := withLoop true { Loop.initial with state := st, cmp := cmp, fetOpen := false }
    let l := s.nd.loop (15 : Fin 16)
    s.nd.standby = true ∧ s.nd.acts = true ∧ LogRoom s ∧ l.state = st ∧ l.cmp = cmp ∧ l.fetOpen = false := by decide
theorem wit_LoopRestart : restarting.nd.acts = false ∧ restarting.nd.standby = true := by decide
theorem wit_Retry : (let s := withLoop true { Loop.initial with state := .disconnected, testing := true };
      s.nd.acts = true ∧ LogRoom s ∧ (s.nd.loop (15 : Fin 16)).testing = true ∧ (s.nd.loop (15 : Fin 16)).state = .disconnected) ∧
    ((withLoop true { Loop.initial with state := .starting }).nd.loop (15 : Fin 16)).state = .starting := by decide

/-! ### LeakChannels -/

/-- The tray with leak channel `k` as `l`, of TYPE CABLE where `cable`, with the parameters of the active set. -/
def withLeak (k : Nat) (cable : Bool) (l : Leak) : State :=
  let n := (works 0).nd
  let c : LeakCfg := { n.setLeakCfg k with type := if cable then 2 else 0 }
  { works 0 with nd := ({ n with active := { n.active with leaks := n.active.leaks.set k c } }).setLeak k { l with cfg := c } }

/-- Codes of 200 mV (417 Ω), 4.4 V (73 kΩ) and 4.9 V (490 kΩ) at 2 mV a step. -/
theorem wit_Leak : ∀ st ∈ [LeakState.indeterminate, .clear, .leak, .channelFault], ∀ q ∈ [(Region.active, (100 : BitVec 12)), (.clear, 2200), (.wireFault, 2450)],
    let s := withLeak 7 true { Leak.initial with state := st, region := q.1, run := 19 }
    let l := s.nd.leak (7 : Fin 8)
    LogRoom s ∧ s.nd.acts = true ∧ s.nd.leakCfg (7 : Fin 8) = s.nd.setLeakCfg (7 : Fin 8) ∧ l.state = st ∧
    leakRegion (s.nd.leakCfg (7 : Fin 8)).type (leakMv q.2.toNat) = q.1 ∧ l.region = q.1 ∧ l.run = 19 ∧ l.taken ≠ some q.1 ∧
    l.lastSide = none ∧ l.crossings.length ≤ 9 ∧ l.latch = false ∧ (withLeak 7 true { l with latch := true }).nd.acts = true ∧
    leakRegion (s.nd.leakCfg (7 : Fin 8)).type (leakMv (2000 : BitVec 12).toNat) ≠ l.region := by decide
theorem wit_Chatter : ∀ d ∈ [0, 7],
    let s := withLeak d false { Leak.initial with
      state := .clear, lastSide := some .clear, n := 1009, crossings := [10, 20, 30, 40, 50, 60, 70, 80, 90, 100] }
    let l := s.nd.leak d
    (l.crossings.filter fun i => decide (l.n < i + 1000)).length = 10 ∧ leakRegion (s.nd.leakCfg d).type (leakMv (100 : BitVec 12).toNat) = .active ∧
    l.lastSide = some .clear ∧ l.state ≠ .chatter ∧ (s.nd.leakCfg d).dripTray = decide (d = 0) ∧ s.nd.leakCfg d = s.nd.setLeakCfg d := by decide
theorem wit_LeakOther : ∀ q ∈ [Region.active, .clear, .wireFault],
    let s := withLeak 7 false { Leak.initial with state := .chatter, taken := some q }
    LogRoom s ∧ s.nd.acts = true ∧ (s.nd.leak (7 : Fin 8)).state = .chatter ∧ (s.nd.leak (7 : Fin 8)).taken = some q ∧
    (s.nd.leak (7 : Fin 8)).region = .band ∧ (s.nd.leakCfg (6 : Fin 8)).dripTray = false ∧ (s.nd.leak (6 : Fin 8)).state = .indeterminate ∧
    restarting.nd.acts = false := by decide
theorem wit_DripTray : let s := withLeak 0 false Leak.initial
    s.nd.acts = true ∧ (s.nd.leakCfg (0 : Fin 8)).dripTray = true ∧ (s.nd.leak (0 : Fin 8)).state = .indeterminate ∧
    (s.nd.leak (0 : Fin 8)).latch = false ∧ LogRoom s := by decide

/-! ### OutputsAndFuses -/

/-- The tray with output 3 as `o`. -/
def withOut (o : Output) : State := { works 0 with nd := (works 0).nd.setOut 3 o }

theorem wit_Output : ∀ o ∈ [{ Output.initial with state := .on, inLimit := 4, low := 99 }, { Output.initial with state := .on, openLoad := true },
      { Output.initial with state := .off, high := 4 }, { Output.initial with state := .backfed, below := 999 }],
    ∀ v ∈ [(⟨0, 9, false⟩ : OutSample), ⟨0, 10, false⟩, ⟨0, 1500, true⟩, ⟨12001, 0, false⟩, ⟨12000, 0, false⟩, ⟨1999, 0, false⟩, ⟨2000, 0, false⟩],
    let s := withOut o
    let vs := [⟨0, 0, false⟩, ⟨0, 0, false⟩, ⟨0, 0, false⟩, v]
    LogRoom s ∧ s.nd.acts = true ∧ crossPairs s.nd vs = [] ∧ s.nd.output (3 : Fin 4) = o ∧ vs.getD (3 : Fin 4) ⟨0, 0, false⟩ = v := by
  decide

/-- Output 3 switched on less than 10 ms ago, outputs 0 and 1 off and low before. -/
def crossing : State :=
  let s := withOut { Output.initial with state := .on }
  { s with nd := (s.nd.setOut 0 { Output.initial with wasLow := true }).setOut 1 { Output.initial with wasLow := true } }

theorem wit_Cross : LogRoom crossing ∧ crossing.nd.acts = true ∧ (crossing.nd.output 3).state = .on ∧ (crossing.nd.output 3).sinceOn < 10 ∧
    (∀ j < 2, (crossing.nd.output j).state = .off ∧ (crossing.nd.output j).wasLow = true ∧
      12000 < (([⟨12001, 0, false⟩, ⟨12001, 0, false⟩] : List OutSample).getD j ⟨0, 0, false⟩).mv) ∧
    crossing.nd.outsUp = false ∧ (0 : Fin 4) ≠ 3 ∧ restarting.nd.acts = false ∧
    (let s := { crossing with nd := { crossing.nd with outsUp := true } }; s.nd.outsUp = true) := by decide
theorem wit_PowerUpState : crossing.nd.drive 0 = none ∧ (crossing.nd.output 0).state = .off ∧
    ((withOut { Output.initial with state := .backfed }).nd.output 3).state = .backfed := by decide
theorem wit_Fuse : let s := { works 7 with nd := (works 7).nd.setPosition 7 { Position.initial with fuse := true } }
    let r := { s with chips := s.chips.set 7 { (s.chips.get 7) with boot := { (s.chips.get 7).boot with tripLine := true } } }
    let kept := List.replicate 20 (⟨42001, 48000⟩ : FuseSample)
    LogRoom s ∧ (s.nd.position (7 : Fin 8)).fuse = true ∧ (s.nd.position (6 : Fin 8)).fuse = false ∧ LogRoom r ∧
    s.nd.fuseLimit (7 : Fin 8) = 42 ∧ (s.nd.position (7 : Fin 8)).samples = [] ∧ kept.drop (kept.length - 20) = kept ∧ kept.length = 20 ∧
    (∀ v ∈ kept, 1000 * 42 < v.ma) ∧
    (chipAt r 7).boot.tripLine = true ∧ (chipAt s 7).boot.tripLine = false ∧ (chipAt s 7).boot.rails = .up := by decide

/-! ### HazardsAndIsolation -/

/-- The tray with one hazard raised on channel 0. -/
def withHazard (h : Hazard) : State := { works 0 with nd := { (works 0).nd with hazards := [h] } }

theorem wit_Hazard : ∀ code ∈ [1, 3, 7], ∀ b ∈ [true, false], ∀ level ∈ [0, 1], let s := withHazard ⟨code, 0, b, b, level⟩
    s.nd.running = true ∧ LogRoom s ∧ s.nd.hazard? code 0 = some ⟨code, 0, b, b, level⟩ ∧
    (code = 1 ∧ level = 0 → escalation code level = some true) ∧ (code = 3 ∧ level = 0 → escalation code level = some false) := by decide
theorem wit_ClosePump : let s := withHazard ⟨7, 0, true, true, 0⟩
    let n := { s.nd with active := { s.nd.active with outRoles := [1, 3, 2, 0] } }
    let s := { s with chips := State.reset.chips, nd := n.setOut 1 { Output.initial with state := .on, cmd := true } }
    s.nd.running = true ∧ (∃ h ∈ s.nd.hazards, h.code = 7 ∧ h.guard = true) ∧ (∀ d, (chipAt s d).boot.rails ≠ .up) ∧
    s.nd.closePump = false ∧ s.nd.outRole 0 = 1 ∧ (s.nd.output 0).state = .off ∧ s.nd.outRole 1 = 3 ∧ (s.nd.output 1).state = .on ∧
    s.nd.outRole 3 = 0 := by decide
theorem wit_Isolation : ∀ cause ∈ [IsoCause.hazard, .command], ∀ ready ∈ [true, false], ∀ isolating ∈ [true, false],
    let s := { works 0 with nd := (works 0).nd.setPosition 0 { Position.initial with notice := true, isoReady := ready, pwrgd := true, iso := some (cause, 10) } }
    let s := onBoot0 (fun b => { b with isolating := isolating }) s
    let h := chipAt s 0
    (s.nd.position (0 : Fin 8)).notice = true ∧ (s.nd.position (0 : Fin 8)).isoReady = ready ∧ h.isolationPosted = isolating ∧
    (s.nd.position (0 : Fin 8)).iso = some (cause, 10) ∧ (s.nd.position (0 : Fin 8)).pwrgd = true ∧ h.boot.fwRunning = true ∧
    h.serve.steps = [] ∧ h.eng.copies = [] ∧ h.stew.held = [] ∧ h.boot.linkFatal = false ∧ h.obs.lull ≠ .frozen ∧
    s.nd.running = true ∧ LogRoom s := by decide

/-! ### ChassisCommands -/

/-- The tray with its port open, board and chip identities read, and the supply channels reading well. -/
def serving : State :=
  let n := { (works 0).nd with idsRead := true }
  let n := (List.range 8).foldl (fun n i => n.setPosition i { Position.initial with idRow := 0, cycle := i % 2 == 0 }) n
  let n := (List.range 3).foldl (fun n k => n.setLoop k { Loop.initial with state := .normal, last := ⟨0, if k = 0 then 256000 else 128000, false⟩ }) n
  { works 0 with nd := n }

theorem wit_Chassis : ∀ role ∈ [Role.administrator, .operator], Serves serving role ∧ LogRoom serving ∧
    (chipAt serving 0).boot.rails ≠ .down ∧ (chipAt serving 6).boot.rails = .down ∧ (chipAt serving 7).boot.rails = .down ∧
    powerOnRefused serving.nd 7 false = true ∧ (serving.nd.position (0 : Fin 8)).iso = none ∧
    (serving.nd.position (6 : Fin 8)).cycle = true ∧ (serving.nd.position (7 : Fin 8)).cycle = false := by decide
theorem wit_ChassisStart : powerOnRefused serving.nd 6 true = false ∧ powerOnRefused serving.nd 7 true = false := by decide
theorem wit_ChassisIso : let n := serving.nd.setPosition 0 { serving.nd.position 0 with iso := some (.hazard, 10) }
    Serves { serving with nd := n } .operator ∧ (n.position (0 : Fin 8)).iso = some (.hazard, 10) := by decide
theorem wit_ChassisClosed : serving.nd.standby = true ∧ serving.nd.running = true ∧ serving.served = true ∧ (works 0).nd.standby = true ∧
    (works 0).nd.running = true ∧ (works 0).served = false := by decide

/-! ### ClearsOutputsAndSettings -/

/-- The open tray with leak channel 7 as `l`. -/
def servingLeak (l : Leak) : State := { serving with nd := serving.nd.setLeak 7 l }

theorem wit_ClearLeak : let s := servingLeak { Leak.initial with state := .leak, latch := true, region := .clear, taken := some .clear }
    let l := s.nd.leak (7 : Fin 8)
    Serves s .operator ∧ LogRoom s ∧ l.taken = some .clear ∧ l.region = .clear ∧ l.latch = true ∧ l.state ≠ .chatter ∧
    (serving.nd.leak (7 : Fin 8)).taken ≠ some .clear ∧ Serves serving .operator := by decide
theorem wit_SetOutput : ∀ st ∈ [OutState.off, .on, .overload, .backfed, .crossfed],
    let s := { serving with nd := serving.nd.setOut 3 { Output.initial with state := st } }
    Serves s .operator ∧ LogRoom s ∧ (s.nd.output (3 : Fin 4)).state = st ∧ s.nd.drive (3 : Fin 4) = none := by decide
theorem wit_SetOutput_driven : let s := { serving with nd := { serving.nd with closePump := true } }
    Serves s .operator ∧ s.nd.drive (0 : Fin 4) = some (!false) := by decide
theorem wit_Settings : Serves serving .administrator ∧ (none : Option Word32) ≠ some 5 ∧ (5 : Word32) ≠ serving.nd.shadowGen ∧ LogRoom serving ∧ [Patch.trayCap 0].all patchOk = true ∧
    [Patch.aiRWire 0 501].all patchOk = false ∧ (1 : Word32) ≠ serving.nd.shadowGen ∧ (0 : Word32) = serving.nd.shadowGen := by decide
theorem wit_NdCommit : commitFail serving.nd.shadow (List.replicate 8 42) = none ∧
    commitFail serving.nd.shadow (List.replicate 8 41) = some (2, 0) ∧
    commitFail { serving.nd.shadow with trayCap := 5719 } (List.replicate 8 42) = some (5, 0) := by decide

/-! ### RequestsAndLog -/

theorem wit_Requests : serving.nd.standby = true ∧ serving.nd.running = true ∧ serving.served = true ∧
    (resourceBody serving (.sensorAi 15)).isSome = true ∧ resourceBody serving (.module 0) = none ∧ (works 0).served = false ∧
    (works 0).nd.standby = true ∧ (works 0).nd.running = true ∧ (chipAt serving 0).boot.fwRunning = true ∧
    (chipAt serving 7).boot.fwRunning = false ∧ sensorOf 36 = some .sensorFs ∧ resourceBody serving .sensorFs = some [0, 0] := by decide
theorem wit_Refused : let s := { works 0 with nd := { (works 0).nd with running := false } }
    s.nd.standby = true ∧ s.nd.running = false := by decide
theorem wit_Programs : let s := { works 0 with nd := { (works 0).nd with queue := [⟨5, 0, 0x1101, 1, 0, 1, 0, [], none, true⟩], toSend := [4] } }
    let u := { works 0 with nd := { (works 0).nd with coalesced := some (1, 2, 3, [0x1101]) } }
    s.nd.running = true ∧ s.nd.queue = ⟨5, 0, 0x1101, 1, 0, 1, 0, [], none, true⟩ :: [] ∧ s.nd.toSend = 4 :: [] ∧
    (s.nd.queue.getD 0 ⟨5, 0, 0x1101, 1, 0, 1, 0, [], none, true⟩).due = true ∧ s.nd.flash.length < 131071 ∧ u.nd.queue = [] ∧ u.nd.coalesced = some (1, 2, 3, [0x1101]) ∧ u.nd.flash.length < 131071 ∧
    u.nd.running = true := by decide

/-! ### TrayPowerUp -/

/-- Identity memories that all read well but the one given, which never answers (0 the board, 1 + i chip i). -/
def identities (bad : Nat) (compatible : Bool) : IdReads :=
  let r := fun k => if k = bad then ⟨[.noAnswer, .noAnswer, .noAnswer], false, [], 0, []⟩ else ⟨[.noAnswer, .ok], compatible, [], 0, []⟩
  ⟨false, r 0, (List.range 8).map fun i => r (i + 1), [], []⟩

theorem wit_StandbyUp : State.reset.nd.standby = false ∧ (works 0).nd.standby = true ∧ State.reset.nd.active.loops.length = 16 := by decide
theorem wit_FirmwareRuns : let s := { State.reset with nd := { Ndevas.initial with standby := true } }
    s.nd.running = false ∧ LogRoom s ∧ s.nd.startCause = 1 := by decide
theorem wit_Identities : idPasses (identities 0 true).board = false ∧ idPasses (identities 9 true).board = true ∧
    idPasses ((identities 8 true).chips.getD 7 noRead) = false ∧ idPasses ((identities 9 false).chips.getD 7 noRead) = true ∧
    ((identities 9 false).chips.getD 7 noRead).compatible = false ∧ ((identities 9 true).chips.getD 7 noRead).compatible = true ∧
    idPasses ((identities 9 true).chips.getD 7 noRead) = true := by decide
theorem wit_Scan : let n := (works 0).nd
    let s := { works 0 with nd := (List.range 3).foldl (fun n k => n.setLoop k { Loop.initial with
      cfg := { n.setLoopCfg k with watch := true }, state := .normal, last := ⟨5, 0, false⟩ }) n };
    LogRoom s ∧ s.nd.running = true ∧ supplyFails s.nd 0 = true ∧ (s.nd.loopCfg 0).watch = true := by decide

/-- The tray with chip 7 due after `scans` passed scans. -/
def dueAt (scans : Nat) (due : Bool) : State :=
  { works 0 with nd := { (works 0).nd.setPosition 7 { Position.initial with idRow := 0, due := due } with scansOk := scans } }

theorem wit_RailSequence : let s := dueAt 2 true
    s.nd.running = true ∧ s.nd.boardOk = true ∧ (s.nd.position (7 : Fin 8)).idRow = 0 ∧ (s.nd.position (7 : Fin 8)).due = true ∧
    2 ≤ s.nd.scansOk ∧ leakActive s.nd = false ∧ (chipAt s 7).boot.rails = .down ∧ (dueAt 1 true).nd.scansOk < 2 ∧
    ((dueAt 2 false).nd.position (7 : Fin 8)).due = false := by decide
theorem wit_PowerGood : let u := { works 0 with nd := (works 0).nd.setPosition 0 { Position.initial with byCommand := true } }
    let s := onChip0 (fun h => { h with boot := { h.boot with rails := .sequencing } }) u
    (chipAt s 0).boot.rails = .sequencing ∧ (s.nd.position (0 : Fin 8)).byCommand = true ∧ LogRoom s ∧
    (chipAt (works 0) 0).boot.rails = .up ∧ (onBoot0 (fun b => { b with railsOn := 4 }) u).nd.standby = true ∧
    (chipAt (onBoot0 (fun b => { b with railsOn := 4 }) u) 0).boot.railsOn = 4 ∧
    (chipAt s 7).boot.rails = .down := by decide

/-! ### TrayRestarts -/

theorem wit_Restart : (works 0).nd.running = true ∧ State.reset.nd.running = false ∧
    ({ (works 0).nd with clock := some 5 }).clock = some 5 ∧ ((works 0).nd.setLoopCfg 0).role ≠ 0 ∧
    (let l := ((works 0).nd.setLoop 0 { Loop.initial with state := .disconnected, fetOpen := true }).loop 0;
      l.state = .disconnected ∧ l.fetOpen = true) := by decide
theorem wit_BoardRetry : let s := { works 0 with nd := { (works 0).nd with boardOk := false } }
    s.nd.running = true ∧ s.nd.boardOk = false ∧ LogRoom s ∧ idPasses (identities 0 true).board = false ∧
    idPasses (identities 9 true).board = true ∧ (works 0).nd.boardOk = true := by decide


/-! ## What WellFormed refuses: an ill-formed and a well-formed term for each check -/

theorem test_wf_identities : (Instr.ndevasFirmwareRunning { identities 9 true with chips := [] }).wf = false ∧
    (Instr.ndevasFirmwareRunning { identities 9 true with modules := [⟨[.ok], 100, [], []⟩] }).wf = false ∧
    (Instr.trayIdentityRetry ⟨[.ok], true, [], 0, []⟩).wf = false ∧ (Instr.trayIdentityRetry ⟨[], true, List.replicate 8 42, 0, []⟩).wf = false ∧
    (Instr.trayIdentityRetry ⟨[.ok], true, List.replicate 8 42, 0, []⟩).wf = true := by decide
theorem test_wf_bar0 : (Instr.registerWrite 0 0x21 0).wf = false ∧ (Instr.registerWrite 0 0x20 0).wf = true ∧
    (Instr.bar0NonalignedAccess 0 false 0x20 4).wf = false ∧ (Instr.bar0NonalignedAccess 0 false 0x21 4).wf = true := by decide
theorem test_wf_bar2 : (Instr.bar2Read 0 0 4097).wf = false ∧ (Instr.bar2Read 0 0 1).wf = true ∧ (Instr.bar2Write 0 0 []).wf = false ∧
    (Instr.bar2Write 0 0 [1]).wf = true := by decide
set_option maxRecDepth 100000 in
theorem test_wf_entries : (Instr.submissionFetch 0 1 (zeroBytes 63)).wf = false ∧ (Instr.submissionFetch 0 1 (zeroBytes 64)).wf = true ∧
    (Instr.flitReceive 0 0 (zeroBytes 255) none 0 0).wf = false ∧ (Instr.flitReceive 0 0 (zeroBytes 256) none 0 0).wf = true := by decide
set_option maxRecDepth 100000 in
theorem test_wf_steps : (Instr.stepUnitEntry 0 1 0 [(0, zeroBytes 63)] []).wf = false ∧ (Instr.stepUnitEntry 0 1 0 [] [⟨zeroBytes 65, none⟩]).wf = false ∧
    (Instr.stepUnitEntry 0 1 0 [] [⟨zeroBytes 63, some (0, 0)⟩]).wf = false ∧
    (Instr.stepUnitEntry 0 1 0 [(0, zeroBytes 64)] [⟨zeroBytes 64, none⟩, ⟨zeroBytes 64, some (63, 63)⟩]).wf = true ∧
    (Instr.stepCommit 0 1 [⟨[List.replicate 65 ⟨0, 0⟩], []⟩]).wf = false ∧ (Instr.stepCommit 0 1 [⟨[List.replicate 64 ⟨0, 0⟩], []⟩]).wf = true ∧
    (Instr.descriptorSequencerRelease 0 0 0 ⟨2, 0, 1⟩).wf = false ∧ (Instr.descriptorSequencerRelease 0 0 0 ⟨1, 1, 1⟩).wf = true ∧
    (Instr.sfuTileComplete 0 0 []).wf = false ∧ (Instr.sfuTileComplete 0 0 (List.replicate 8 0)).wf = true := by decide
theorem test_wf_power : (Instr.powerSample 0 ⟨0, [0], 0, 0⟩).wf = false ∧ (Instr.powerSample 0 ⟨0, [0, 0, 0, 0], 0, 0⟩).wf = true ∧
    (Instr.thermalSensorRead 0 [50]).wf = false ∧ (Instr.thermalSensorRead 0 (List.replicate 14 50)).wf = true := by decide
theorem test_wf_field : (Instr.adcSliceComplete 0 []).wf = false ∧ (Instr.adcSliceComplete 0 (List.replicate 16 4000)).wf = true ∧
    (Instr.outputSample []).wf = false ∧ (Instr.outputSample (List.replicate 4 ⟨0, 0, false⟩)).wf = true ∧
    (Instr.crossfeedTest [(1, 1)]).wf = false ∧ (Instr.crossfeedTest [(1, 2)]).wf = true := by decide

/-! ## Worked cases of the spec -/

/-- The row and the column of "A cancelling row in Fast and in Strict" (06): FP16 1, 2^-15, ±1, 2^-15, then zeros. -/
def cancelling : List (FV × FV) :=
  ([0x3C00, 0x200, 0xBC00, 0x200] ++ List.replicate 28 0).map (decodeOperand 6) |>.zip
    (([0x3C00, 0x200, 0x3C00, 0x200] ++ List.replicate 28 0).map (decodeOperand 6))

set_option maxRecDepth 100000 in
theorem test_cancelling_fast : (dotFast 2 cancelling).bits = 0x32800000 := by decide
set_option maxRecDepth 100000 in
theorem test_cancelling_strict : (dotStrict cancelling).1.bits = 0x30800000 ∧ (dotStrict cancelling).2 = flagX := by decide
theorem test_cancelling_fp16 : (convertOut 2 0x32800000).1 = 0 ∧ (convertOut 2 0x30800000).1 = 0 ∧
    (convertOut 2 0x30800000).2.1.underflow = true := by decide

/-- "A row whose maximum rises and falls" (07): three tiles, 102 array cycles. -/
theorem test_softmax_cost : (List.range 2).map (fun p => ((List.range 3).map fun t => tileCost [] (op1.set 16 1) p t).sum) = [72, 30] := by decide

/-- A report of Tessingham-70 (12): wait fraction in thousandths. -/
def tessingham (w : Nat) : Report := ⟨.active, false, true, 1, 1400, 1200, 1600, 1750, w, 0⟩

/-- The eight chips of "Tailwind and Gust on a tray", each at 1,400 W. -/
def tessinghams : Ndevas :=
  ([210, 240, 220, 230, 210, 10, 220, 240].zip (List.range 8)).foldl (fun n e =>
    n.setPosition e.2 { Position.initial with pwrgd := true, a := 1400, report := some (tessingham e.1), baseFor := some (1400, 1200, 1600) })
    Ndevas.initial

set_option maxRecDepth 100000 in
theorem test_tailwind_first_interval : allotments tessinghams 0 =
    ([1400, 1375, 1400, 1400, 1400, 1425, 1400, 1400], [147, 147, 147, 147, 147, 147, 147, 147], []) := by decide

/-- "A long loop, then a broken wire" (14): 3.5 V over 194 Ω. -/
theorem test_headroom : let n := { Ndevas.initial with fieldMv := 20400 }
    headroom n { LoopCfg.initial 2 with vtMin := 16000, rWire := 80 } = (3500, 194) := by decide

/-- The same case: 17.99 mA is GOOD and CAPPED; 1 µA below 17.94 mA is not capped. -/
theorem test_capped : let n := { Ndevas.initial with fieldMv := 20400 }
    let n := n.setLoop 1 { Loop.initial with state := .normal, cfg := { LoopCfg.initial 2 with vtMin := 16000, rWire := 80 } }
    readingOf n 1 (List.replicate 16 17990) = ⟨0, 287840, true⟩ ∧ (readingOf n 1 (List.replicate 16 17940)).capped = false := by decide

/-- The quality boundaries of 14 R358, in sixteenths of a µA: 0.5, 3.6, 3.8, 20.5 and 21.0 mA. -/
theorem test_quality : [7999, 8000, 57599, 57600, 60799, 60800, 328000, 328001, 336000, 336001].map qualityOf =
    [4, 3, 3, 1, 1, 0, 0, 2, 2, 5] := by decide

/-- The thresholds of 14 R364, 5.0 V through 10.0 kΩ, in mV: 999 and 1,001 Ω, 4,000 Ω on both sides, 30, 50 and 300 kΩ. -/
theorem test_leak_regions : [454, 455, 1428, 1429].map (leakRegion 0) = [.active, .band, .band, .clear] ∧
    [454, 455, 1428, 1429].map (leakRegion 1) = [.clear, .band, .band, .active] ∧
    [3749, 3750, 4166, 4167, 4838, 4839].map (leakRegion 2) = [.active, .band, .band, .clear, .clear, .wireFault] := by decide

/-- "A drip-tray leak under load" (15): the 20th active sample of LK2. -/
def drip : State :=
  { works 0 with nd := (works 0).nd.setLeak 2 { Leak.initial with state := .clear, region := .active, run := 19, taken := some .clear } }

theorem test_drip_tray_leak : let t := leakStep 2 0 drip
    (t.nd.leak 2).state = .leak ∧ (t.nd.leak 2).latch = true ∧ (t.nd.output 3).state = .on ∧
    (t.nd.position 0).iso = some (.hazard, 10) ∧ t.nd.queue.map (·.kind) = [0x1006, 0x1101] := by decide

/-- "Bring-up and a refused commit" (03): two Supers under the default power policy fail check 0x03 of section 0x2 at Super 1. -/
def twoSupers : State := onChip0 (fun h => { h with config := { h.config with shadow := { h.config.shadow with
    superMap := imgWrite (imgWrite h.config.shadow.superMap 8 [1, 31]) 64
      ([1, 2, 0, 0] ++ toLE 2 0 ++ toLE 2 1 ++ [32, 32, 0, 0] ++ zeroBytes 12 ++ zeroBytes 8 ++ List.replicate 8 0xFF ++ zeroBytes 24) } } }) (works 0)

theorem test_refused_commit : (ctxOf twoSupers 0).commitCheck = some (2, 3, 1) := by decide
end Sys2Proof.Tests
end

section
/-! What a reset of each kind leaves of a chip, and the fundamental resets (02 R52 to R55). -/
namespace Sys2Proof.Machine

/-! ## What a reset leaves -/

@[simp] theorem Ctx.endGust_out (x : Ctx) : x.endGust.out = x.out := by
  unfold Ctx.endGust; split <;> rfl

@[simp] theorem Ctx.reset_out (x : Ctx) (kind : ResetKind) : (x.reset kind).out = x.out := by
  simp [Ctx.reset]

/-- What every reset clears, and the boot state that it starts from (02 R52 to R54). -/
theorem Ctx.reset_chip (x : Ctx) (kind : ResetKind) :
    (x.reset kind).chip =
      { x.endGust.chip.cleared x.now (kind != .watchdog) kind.fundamental with boot := x.chip.boot.reset kind } := by
  simp [Ctx.reset]

/-- A reset of any kind ends all work and zeroes the memories; what it keeps of BAR0 and of the fabric depends on its kind. -/
theorem Ctx.reset_clears (x : Ctx) (kind : ResetKind) :
    (x.reset kind).chip.boot = x.chip.boot.reset kind ∧
    (x.reset kind).chip.bar = x.chip.bar.reset (kind != .watchdog) kind.fundamental ∧
    (x.reset kind).chip.stew = .initial ∧ (x.reset kind).chip.config = .initial ∧ (x.reset kind).chip.serve = .initial ∧
    (x.reset kind).chip.eng = .initial ∧ (x.reset kind).chip.mem = .zeroed ∧ (x.reset kind).chip.fab = x.chip.fab.reset kind.fundamental ∧
    (x.reset kind).chip.obs =
      { Observe.initial with rasLog := x.chip.obs.rasLog, logLost := x.chip.obs.logLost, watchdogs := x.chip.obs.watchdogs } := by
  simp [Ctx.reset_chip, Chip.cleared]

theorem Bar.reset_fundamental (b : Bar) : b.reset true true = .initial := rfl

@[simp] theorem Fabric.reset_time (f : Fabric) (fund : Bool) : (f.reset fund).time = f.time := rfl

@[simp] theorem Fabric.reset_synced (f : Fabric) (fund : Bool) : (f.reset fund).synced = if fund then false else f.synced := rfl

/-- A chip that works is neither in a power-on nor in a reset. -/
theorem Boot.pstate_of_works {b : Boot} (h : b.works = true) : b.pstate ≠ .booting ∧ b.pstate ≠ .resetting := by
  unfold Boot.works at h
  constructor <;> (intro e; rw [e] at h; exact absurd h (by decide))

/-- On a working chip with rails up a fundamental reset starts, whatever line asks for it (02 R53, R55). -/
theorem Ctx.fundamental_of_works (x : Ctx) (kind : ResetKind) (hr : x.chip.boot.rails = .up) (hw : x.chip.boot.works = true) :
    x.fundamental kind = x.reset kind := by
  obtain ⟨hb, hs⟩ := Boot.pstate_of_works hw
  simp [Ctx.fundamental, hr, hb, hs]

/-- The chip after a fundamental reset: nothing but the lines, the RAS log and the fabric time is kept (02 R54). -/
theorem Ctx.reset_fundamental (x : Ctx) (kind : ResetKind) (hk : kind.fundamental = true) :
    let k := (x.reset kind).chip
    k.boot.perst = x.chip.boot.perst ∧ k.boot.resetLine = x.chip.boot.resetLine ∧ k.boot.cause = kind ∧ k.boot.pstate = .resetting ∧
      k.boot.ready = false ∧ k.boot.bootStage = 0 ∧ k.boot.linkL0 = false ∧ k.boot.fwRunning = false ∧ k.boot.rails = .up ∧
      k.bar = .initial ∧ k.stew = .initial ∧ k.config = .initial ∧ k.serve = .initial ∧ k.eng = .initial ∧ k.mem = .zeroed ∧
      k.obs.counters = [] ∧ k.obs.rasLog = x.chip.obs.rasLog ∧ k.fab.time = x.chip.fab.time ∧ k.fab.synced = false := by
  have hw : (kind != .watchdog) = true := by revert hk; cases kind <;> decide
  obtain ⟨hboot, hbar, hstew, hconfig, hserve, heng, hmem, hfab, hobs⟩ := x.reset_clears kind
  simp [hboot, hbar, hstew, hconfig, hserve, heng, hmem, hfab, hobs, hk, hw, Boot.reset, Bar.reset_fundamental, Boot.initial,
    Observe.initial]

end Sys2Proof.Machine

namespace Sys2Proof
open Machine

/-- A meaning that acts on one chip under a condition runs there where the condition holds. -/
theorem runs_of_onlyIf {c : Fin 8} {i : Instr} {s : State} {p : Ctx → Bool} {f : Ctx → Ctx} {P : Chip → List Out → Prop}
    (h : exec i s = chipNext c (fun x => onlyIf (p x) f x) s) (hc : p (ctxOf s c) = true)
    (hp : P (f (ctxOf s c)).chip (f (ctxOf s c)).out) : Runs c i s P :=
  runs_of_chip h (by simpa [onlyIf, hc] using hp)

/-- Settles O8: on a working chip neither line is in the way of the reset, and `Ctx.reset_fundamental` says what it leaves. -/
theorem fundamentalResetsClearTheChip : Obligations.FundamentalResetsClearTheChip := by
  unfold Obligations.FundamentalResetsClearTheChip
  refine ⟨fun s c hr hw => runs_of_chip rfl ?_, fun s c hn hr hw => runs_of_onlyIf rfl (by simp [hn, hr]) ?_⟩
  · rw [Ctx.fundamental_of_works _ _ hr hw]
    obtain ⟨hp, hl, hrest⟩ := (((ctxOf s c).onBoot fun b => { b with perst := true }).linkDown).reset_fundamental .perst rfl
    obtain ⟨hc, hps, hrd, hbs, hl0, hfw, hru, hrest⟩ := hrest
    exact ⟨by simp [Ctx.linkDown], hp, hc, hps, hrd, hbs, hl0, hfw, hru, hl, hrest⟩
  · rw [Ctx.fundamental_of_works _ _ hr hw]
    obtain ⟨hp, hl, hrest⟩ := (((ctxOf s c).onBoot fun b => { b with resetLine := true }).linkDown).reset_fundamental .ndevas rfl
    obtain ⟨hc, hps, hrd, hbs, hl0, hfw, hru, hrest⟩ := hrest
    exact ⟨by simp [Ctx.linkDown], hl, hc, hps, hrd, hbs, hl0, hfw, hru, hp, hrest⟩

end Sys2Proof
end

section
/-! Resets that keep the link, the link after PERST#, and doorbells before READY (02 R47, R51 to R55; 16 R408 to R410). -/
namespace Sys2Proof.Machine

/-! ## FLR and the watchdog -/

theorem Ctx.flr_of_works (x : Ctx) (hl : x.chip.boot.linkL0 = true) (hw : x.chip.boot.works = true) : x.flr = x.reset .flr := by
  simp [Ctx.flr, hl, hw]

theorem Ctx.watchdog_of_works (x : Ctx) (code : Nat) (hw : x.chip.boot.works = true) :
    x.watchdog code = (x.faultCode code).reset .watchdog := by
  simp [Ctx.watchdog, hw]

/-- The chip after a function-level reset: it keeps the link, the firmware, STEWARD_FAULT and the fabric's time (02 R54). -/
theorem Ctx.reset_flr (x : Ctx) :
    let k := (x.reset .flr).chip
    k.boot.cause = .flr ∧ k.boot.pstate = .resetting ∧ k.boot.ready = false ∧ k.boot.linkL0 = x.chip.boot.linkL0 ∧
      k.boot.fwRunning = x.chip.boot.fwRunning ∧ k.bar.stewardFault = x.chip.bar.stewardFault ∧ k.bar.msix = [] ∧
      k.bar.msixEnable = false ∧ k.stew = .initial ∧ k.config = .initial ∧ k.serve = .initial ∧ k.eng = .initial ∧ k.mem = .zeroed ∧
      k.obs.counters = [] ∧ k.obs.rasLog = x.chip.obs.rasLog ∧ k.fab.time = x.chip.fab.time ∧ k.fab.synced = x.chip.fab.synced := by
  obtain ⟨hboot, hbar, hstew, hconfig, hserve, heng, hmem, hfab, hobs⟩ := x.reset_clears .flr
  simp [hboot, hbar, hstew, hconfig, hserve, heng, hmem, hfab, hobs, Boot.reset, Bar.reset, ResetKind.fundamental, Boot.initial,
    Bar.initial, Observe.initial]

/-- The chip after a watchdog reset: it keeps the link, the MSI-X table, STEWARD_FAULT and the fabric's time; its firmware has
stopped (02 R54, 16 R409). -/
theorem Ctx.reset_watchdog (x : Ctx) :
    let k := (x.reset .watchdog).chip
    k.boot.cause = .watchdog ∧ k.boot.pstate = .resetting ∧ k.boot.ready = false ∧ k.boot.linkL0 = x.chip.boot.linkL0 ∧
      k.boot.fwRunning = false ∧ k.bar.stewardFault = x.chip.bar.stewardFault ∧ k.bar.msix = x.chip.bar.msix ∧
      k.bar.msixEnable = x.chip.bar.msixEnable ∧ k.stew = .initial ∧ k.config = .initial ∧ k.serve = .initial ∧ k.eng = .initial ∧
      k.mem = .zeroed ∧ k.obs.counters = [] ∧ k.obs.rasLog = x.chip.obs.rasLog ∧ k.obs.watchdogs = x.chip.obs.watchdogs ∧
      k.fab.time = x.chip.fab.time ∧ k.fab.synced = x.chip.fab.synced := by
  obtain ⟨hboot, hbar, hstew, hconfig, hserve, heng, hmem, hfab, hobs⟩ := x.reset_clears .watchdog
  simp [hboot, hbar, hstew, hconfig, hserve, heng, hmem, hfab, hobs, Boot.reset, Bar.reset, ResetKind.fundamental, Boot.initial,
    Bar.initial, Observe.initial]

/-- The fault code is reported and counted; nothing else of the chip changes but energy (16 R409, R410). -/
theorem Ctx.faultCode_eq (x : Ctx) (code : Nat) :
    (x.faultCode code).out = x.out ++ [.aer x.c 1 "Uncorrectable Internal Error"] ∧ (x.faultCode code).chip.boot = x.chip.boot ∧
      (x.faultCode code).chip.bar = { x.chip.bar with stewardFault := BitVec.ofNat 32 (code % 65536) } ∧
      (x.faultCode code).chip.fab = x.chip.fab ∧
      (x.faultCode code).chip.obs = { x.chip.obs with watchdogs := (x.chip.obs.watchdogs + 1) % 2 ^ 32 } := by
  simp [Ctx.faultCode]

/-- A watchdog reset of a working chip, with the fault code that it records. -/
theorem Ctx.watchdog_resets (x : Ctx) (code : Nat) (hw : x.chip.boot.works = true) (hlt : code < 65536) :
    let k := (x.watchdog code).chip
    (x.watchdog code).out = x.out ++ [.aer x.c 1 "Uncorrectable Internal Error"] ∧ k.boot.cause = .watchdog ∧
      k.boot.pstate = .resetting ∧ k.boot.ready = false ∧ k.boot.linkL0 = x.chip.boot.linkL0 ∧ k.boot.fwRunning = false ∧
      k.bar.stewardFault.toNat = code ∧ k.bar.msix = x.chip.bar.msix ∧ k.bar.msixEnable = x.chip.bar.msixEnable ∧
      k.stew = .initial ∧ k.config = .initial ∧ k.serve = .initial ∧ k.eng = .initial ∧ k.mem = .zeroed ∧ k.obs.counters = [] ∧
      k.obs.rasLog = x.chip.obs.rasLog ∧ k.obs.watchdogs = (x.chip.obs.watchdogs + 1) % 2 ^ 32 ∧ k.fab.time = x.chip.fab.time ∧
      k.fab.synced = x.chip.fab.synced := by
  obtain ⟨hout, hboot, hbar, hfab, hobs⟩ := x.faultCode_eq code
  have hf : (BitVec.ofNat 32 (code % 65536)).toNat = code := by simp; omega
  rw [Ctx.watchdog_of_works x code hw]
  have h := (x.faultCode code).reset_watchdog
  simp only [hboot, hbar, hfab, hobs] at h
  obtain ⟨hc, hp, hr, hl, hw, hv, hrest⟩ := h
  exact ⟨(Ctx.reset_out ..).trans hout, hc, hp, hr, hl, hw, (congrArg BitVec.toNat hv).trans hf, hrest⟩

/-! ## The PCIe controller leaves reset -/

theorem Ctx.linkStart_late (x : Ctx) (hr : x.chip.boot.rails = .up) (hp : x.chip.boot.perst = false)
    (hl : x.chip.boot.resetLine = false) (hu : x.chip.boot.pcieUp = false)
    (ht : ¬(x.chip.boot.pstate = .booting ∧ x.now < x.chip.boot.pgTime + 100000000)) :
    x.linkStart = x.onBoot fun b => { b with pcieUp := true } := by
  simp [Ctx.linkStart, hr, hp, hl, hu, ht]

theorem Ctx.linkStart_early (x : Ctx) (hr : x.chip.boot.rails = .up) (hp : x.chip.boot.perst = false)
    (hl : x.chip.boot.resetLine = false) (hu : x.chip.boot.pcieUp = false) (hb : x.chip.boot.pstate = .booting)
    (ht : x.now < x.chip.boot.pgTime + 100000000) : x.linkStart = x.onBoot fun b => { b with perstEarly := true } := by
  simp [Ctx.linkStart, hr, hp, hl, hu, hb, ht]

/-! ## Doorbells before READY -/

theorem Ctx.sqTail_early (x : Ctx) (q : Nat) (v : Word32) (ops : List Byte) (h : x.chip.boot.ready = false) :
    x.sqTail q v ops = (x.storeDoorbell (2 * q) (v.toNat % 65536)).earlyDoorbell := by
  simp [Ctx.sqTail, Ctx.storeDoorbell, h]

theorem Ctx.cqHead_early (x : Ctx) (q : Nat) (v : Word32) (h : x.chip.boot.ready = false) :
    x.cqHead q v = (x.storeDoorbell (2 * q + 1) (v.toNat % 65536)).earlyDoorbell := by
  simp [Ctx.cqHead, Ctx.storeDoorbell, h]

/-- At its largest value the count stays what it is. -/
theorem satInc_eq (v : Word32) : satInc v = if v = 0xFFFFFFFF then 0xFFFFFFFF else v + 1 := by
  unfold satInc
  split
  · next h => exact h
  · rfl

/-- What an early doorbell write leaves of the chip: its value to be read back, and the count (02 R51, R52). -/
theorem Ctx.earlyDoorbell_chip (x : Ctx) (k v : Nat) :
    ((x.storeDoorbell k v).earlyDoorbell).chip = { x.chip with bar := { x.chip.bar with
      earlyDb := if x.chip.bar.earlyDb = 0xFFFFFFFF then 0xFFFFFFFF else x.chip.bar.earlyDb + 1
      doorbells := tset 0 x.chip.bar.doorbells k (BitVec.ofNat 32 v) } } := by
  rw [← satInc_eq]; rfl

end Sys2Proof.Machine

namespace Sys2Proof
open Machine

/-- Settles O9: an FLR, the watchdog and a Steward fault of codes 1 to 3 all come down to `Ctx.reset` of a working chip. -/
theorem functionAndWatchdogResets : Obligations.FunctionAndWatchdogResets := by
  unfold Obligations.FunctionAndWatchdogResets
  refine ⟨fun s c hl hw => runs_of_chip rfl ?_, fun s c code hw => runs_of_chip rfl ?_,
    fun s c code id h1 h3 hw => runs_of_chip rfl ?_⟩
  · rw [Ctx.flr_of_works _ hl hw]
    obtain ⟨hc, hp, hr, hk, hrest⟩ := (ctxOf s c).reset_flr
    exact ⟨Ctx.reset_out .., hc, hp, hr, hk.trans hl, hrest⟩
  · have hc : (match code with | some v => v.toNat | none => 1) < 65536 := by
      cases code with
      | none => decide
      | some v => exact v.isLt
    exact (ctxOf s c).watchdog_resets _ hw hc
  · rw [show (ctxOf s c).stewardFault code.toNat id = (ctxOf s c).watchdog code.toNat from if_pos ⟨h1, h3⟩]
    obtain ⟨ho, hc, hp, hr, -, -, hf, -, -, hs, -, hv, -, hm, -⟩ := (ctxOf s c).watchdog_resets code.toNat hw code.isLt
    exact ⟨ho, hc, hp, hr, hf, hs, hv, hm⟩

/-- Settles O10: once no line is held, `Ctx.linkStart` looks at the time since power good alone. -/
theorem linkComesUpAfterPerst : Obligations.LinkComesUpAfterPerst := by
  unfold Obligations.LinkComesUpAfterPerst
  refine ⟨fun s c hr hl hu ht => runs_of_chip rfl ?_, fun s c hr hl hu hb ht => runs_of_chip rfl ?_,
    fun s c hr hl hp hu ht => runs_of_onlyIf rfl hl ?_, fun s c he => runs_of_onlyIf rfl he ⟨rfl, rfl⟩⟩
  · rw [Ctx.linkStart_late _ hr rfl hl hu ht]
    exact ⟨rfl, rfl⟩
  · rw [Ctx.linkStart_early _ hr rfl hl hu hb ht]
    exact ⟨rfl, rfl⟩
  · rw [Ctx.linkStart_late _ hr hp rfl hu ht]
    exact ⟨rfl, rfl⟩

/-- Settles O14: with READY 0 a doorbell write is stored and counted, and nothing else. -/
theorem doorbellsBeforeReady : Obligations.DoorbellsBeforeReady := by
  unfold Obligations.DoorbellsBeforeReady
  refine ⟨fun s c q v ops hl hr => runs_of_onlyIf rfl hl ?_, fun s c q v hl hr => runs_of_onlyIf rfl hl ?_⟩
  · rw [Ctx.sqTail_early _ _ _ _ hr]
    exact ⟨rfl, Ctx.earlyDoorbell_chip ..⟩
  · rw [Ctx.cqHead_early _ _ _ hr]
    exact ⟨rfl, Ctx.earlyDoorbell_chip ..⟩

/-- Settles O7: before standby power every memory is empty, no record exists, and the tray cap is the default of 12,500 W. -/
theorem resetStartsTheInvariants : Obligations.ResetStartsTheInvariants := by
  unfold Obligations.ResetStartsTheInvariants
  refine ⟨fun c => ?_, ⟨by decide, by decide⟩, by decide, by decide⟩
  rw [show chipAt State.reset c = Chip.off from Vector.getElem_replicate c.isLt]
  decide

end Sys2Proof
end

section
/-! The way to READY, boot failures and a fatal host link (02 R47, R48, R52, R59; 16 R401, R409 to R412). -/
namespace Sys2Proof.Machine

/-! ## READY -/

/-- READY comes with PSTATE Idle, BOOT_STAGE 0x05 and memories of zeros; the rest of the boot state stays. -/
theorem Ctx.setReady_spec (x : Ctx) :
    x.setReady.chip.boot = { x.chip.boot with ready := true, pstate := .idle, bootStage := 5 } ∧ x.setReady.chip.mem = .zeroed := by
  simp [Ctx.setReady]

theorem Ctx.tryReady_of_complete (x : Ctx) (hp : x.chip.boot.pstate = .booting) (hc : x.chip.boot.complete = true) :
    x.tryReady = x.setReady := by
  simp [Ctx.tryReady, hp, hc]

theorem Ctx.tryReady_of_incomplete (x : Ctx) (hc : x.chip.boot.complete = false) : x.tryReady = x := by
  simp [Ctx.tryReady, hc]

/-- A power-on boots. -/
theorem Boot.boots_of_booting {b : Boot} (h : b.pstate = .booting) : b.boots = true := by simp [Boot.boots, h]

/-- The last of the conditions of R48 sets READY in a power-on; where one is missing the chip is as the command left it. -/
theorem Ctx.tryReady_cases {x y : Ctx} (h : y = x.tryReady) (hp : x.chip.boot.pstate = .booting) :
    (x.chip.boot.complete = true ∧ y.chip.boot = { x.chip.boot with ready := true, pstate := .idle, bootStage := 5 } ∧
      y.chip.mem = .zeroed) ∨ (x.chip.boot.complete = false ∧ y = x) := by
  subst h
  cases hc : x.chip.boot.complete with
  | true => rw [x.tryReady_of_complete hp hc]; exact .inl ⟨rfl, x.setReady_spec⟩
  | false => exact .inr ⟨rfl, x.tryReady_of_incomplete hc⟩

theorem Ctx.firmwareLoaded_booting (x : Ctx) (v w : Word32) (m : Byte) (hp : x.chip.boot.pstate = .booting)
    (hf : x.chip.boot.fwRunning = false) (hs : x.chip.boot.stuck = false) :
    x.firmwareLoaded v w m = (x.onBoot fun b =>
      { b with fwRunning := true, fwVersion := v, fwBuild := w, ifMinor := m, bootStage := if b.hbmTrained then 3 else 2 }).tryReady := by
  simp [Ctx.firmwareLoaded, Boot.boots_of_booting hp, hf, hs]

theorem Ctx.hbmTrained_booting (x : Ctx) (hp : x.chip.boot.pstate = .booting) (hf : x.chip.boot.fwRunning = true)
    (ht : x.chip.boot.hbmTrained = false) (hs : x.chip.boot.stuck = false) :
    x.hbmTrained = (x.onBoot fun b => { b with hbmTrained := true, bootStage := 3 }).tryReady := by
  simp [Ctx.hbmTrained, Boot.boots_of_booting hp, hf, ht, hs]

theorem Ctx.zeroingDone_booting (x : Ctx) (hp : x.chip.boot.pstate = .booting) (hf : x.chip.boot.fwRunning = true)
    (ht : x.chip.boot.hbmTrained = true) (hz : x.chip.boot.zeroed = false) :
    x.zeroingDone = ((x.onMem fun _ => .zeroed).onBoot fun b => { b with zeroed := true, bootStage := 4 }).tryReady := by
  simp [Ctx.zeroingDone, Boot.boots_of_booting hp, hf, ht, hz]

theorem Ctx.linkL0_up (x : Ctx) (hu : x.chip.boot.pcieUp = true) (hl : x.chip.boot.linkFatal = false) :
    x.linkL0 = (x.onBoot fun b => { b with linkL0 := true }).tryReady := by
  simp [Ctx.linkL0, hu, hl]

/-! ## Errors entered in the RAS log -/

@[simp] theorem Ctx.ras_out (x : Ctx) (cls unit index code : Nat) (super : Option Nat) (addr detail : Nat) :
    (x.ras cls unit index code super addr detail).out = x.out := by
  simp [Ctx.ras]

/-- The class of an entry of the RAS log is its byte 8 (16 R412). -/
theorem field_class (t cls : Nat) (r : Bytes) (h : cls < 256) : field (toLE 8 t ++ (toLE 1 cls ++ r)) 8 1 = cls := by
  simp only [field, List.drop_left' (toLE_length 8 t), List.take_left' (toLE_length 1 cls), leNat_toLE]
  omega

/-- The latest entry of the RAS log is of the class entered. -/
theorem Ctx.ras_last_class (x : Ctx) (cls unit index code : Nat) (super : Option Nat) (addr detail : Nat) (h : cls < 256) :
    ((x.ras cls unit index code super addr detail).chip.obs.rasLog.getLast?.map fun e => field e 8 1) = some cls := by
  unfold Ctx.ras
  simp only [Ctx.onObs_obs]
  split <;> simp [List.append_assoc, field_class _ _ _ h]

end Sys2Proof.Machine

namespace Sys2Proof
open Machine

/-- Settles O11: each event sets its own condition of R48, and `Ctx.tryReady_cases` says what follows. -/
theorem theWayToReady : Obligations.TheWayToReady := by
  unfold Obligations.TheWayToReady
  refine ⟨fun s c v w m hp hf hs => runs_of_chip rfl ?_, fun s c hp hf ht hz hs => runs_of_chip rfl ?_,
    fun s c hp hf ht hz => runs_of_chip rfl ?_, fun s c hp hu hl => runs_of_chip rfl ?_⟩
  · obtain ⟨hc, hb, -⟩ | ⟨hc, hx⟩ := Ctx.tryReady_cases (Ctx.firmwareLoaded_booting (ctxOf s c) v w m hp hf hs) hp
    · rw [hb, if_pos (by simpa [Boot.complete] using hc)]
      exact ⟨rfl, rfl, rfl, rfl, rfl, rfl, rfl⟩
    · rw [hx, if_neg (by simpa [Boot.complete] using hc)]
      exact ⟨rfl, rfl, rfl, rfl, rfl, hp, rfl⟩
  · rw [Ctx.hbmTrained_booting _ hp hf ht hs, Ctx.tryReady_of_incomplete _ (by simp [Boot.complete, hz])]
    exact ⟨rfl, rfl⟩
  · obtain ⟨hc, hb, hm⟩ | ⟨hc, hx⟩ := Ctx.tryReady_cases (Ctx.zeroingDone_booting (ctxOf s c) hp hf ht hz) hp
    · rw [hb, hm, if_pos (by simpa [Boot.complete, hf, ht] using hc)]
      exact ⟨rfl, rfl, rfl, rfl, rfl⟩
    · rw [hx, if_neg (by simpa [Boot.complete, hf, ht] using hc)]
      exact ⟨rfl, rfl, rfl, hp, rfl⟩
  · obtain ⟨hc, hb, hm⟩ | ⟨hc, hx⟩ := Ctx.tryReady_cases (Ctx.linkL0_up (ctxOf s c) hu hl) hp
    · rw [hb, hm, if_pos (by simpa [Boot.complete, hl] using hc)]
      exact ⟨rfl, rfl, rfl, rfl, rfl⟩
    · rw [hx, if_neg (by simpa [Boot.complete, hl] using hc)]
      exact ⟨rfl, rfl⟩

end Sys2Proof
end

section
/-! The event log of the Ndevas: what entering an event changes, and that an entered record stays in the RAM queue (15 R390 to R394). -/
namespace Sys2Proof.Machine

/-! ## What entering events changes -/

/-- `t` differs from `s` in nothing but the log's RAM queue, which has grown at its end, its sequence number, its coalesced record,
and the count of free values. -/
def State.LogsTo (s t : State) : Prop :=
  t = { s with free := t.free, nd := { s.nd with queue := t.nd.queue, seq := t.nd.seq, coalesced := t.nd.coalesced } } ∧
    s.nd.queue <+: t.nd.queue

theorem State.LogsTo.refl (s : State) : s.LogsTo s := ⟨rfl, List.prefix_rfl⟩

theorem State.LogsTo.trans {s t u : State} (h : s.LogsTo t) (g : t.LogsTo u) : s.LogsTo u := by
  refine ⟨?_, h.2.trans g.2⟩
  have e := g.1
  rw [h.1] at e
  exact e

theorem State.LogsTo.chips {s t : State} (h : s.LogsTo t) : t.chips = s.chips := (congrArg State.chips h.1 :)

theorem State.LogsTo.out {s t : State} (h : s.LogsTo t) : t.out = s.out := (congrArg State.out h.1 :)

theorem State.LogsTo.position {s t : State} (h : s.LogsTo t) (k : Nat) : t.nd.position k = s.nd.position k :=
  (congrArg (fun u : State => u.nd.position k) h.1 :)

/-- Other fields of the Ndevas than those of the log. -/
theorem State.LogsTo.nd {s t : State} (h : s.LogsTo t) :
    t.nd = { s.nd with queue := t.nd.queue, seq := t.nd.seq, coalesced := t.nd.coalesced } := (congrArg State.nd h.1 :)

theorem State.LogsTo.foldl {α : Type} {g : State → α → State} (hg : ∀ (t : State) (a : α), t.LogsTo (g t a)) (l : List α) (s : State) :
    s.LogsTo (l.foldl g s) := by
  induction l generalizing s with
  | nil => exact .refl s
  | cons a r ih => exact (hg s a).trans (ih _)

/-- The record that an event makes where the queue takes it: `s0` is the state before its cause (15 R391). -/
def State.record (s0 s : State) (src : LogSrc) (kind source : Nat) (acted watch : Bool) (detail : Nat) : LogRec :=
  ⟨s.nd.seq.toNat, s.logTime, kind, source, b2n s.nd.clock.isNone + 2 * b2n acted + 4 * b2n watch, 1, detail, snapshot s0 src, none, true⟩

theorem State.log_logsTo (s0 s : State) (src : LogSrc) (kind source : Nat) (acted watch : Bool) (detail : Nat) :
    s.LogsTo (s0.log s src kind source acted watch detail) := by
  unfold State.log
  dsimp only
  split
  · exact .refl s
  · split
    · exact ⟨rfl, List.prefix_rfl⟩
    · split
      · exact ⟨rfl, List.prefix_append _ _⟩
      · exact ⟨rfl, List.prefix_rfl⟩

theorem State.logOpen_logsTo (s0 s : State) (src : LogSrc) (source : Nat) (watch : Bool) :
    s.LogsTo (s0.logOpen s src source watch) :=
  State.LogsTo.trans (t := { s with free := s.free + 2 }) ⟨rfl, List.prefix_rfl⟩ (State.log_logsTo ..)

/-! ## Room in the queue -/

/-- The RAM queue takes `n` more records one by one (15 R393). -/
def State.Room (s : State) (n : Nat) : Prop := s.nd.standby = true ∧ s.nd.coalesced = none ∧ s.nd.queue.length + n ≤ 511

theorem State.Room.of_logRoom {s : State} (h : LogRoom s) : s.Room 32 := ⟨h.1, h.2.1, by have := h.2.2; omega⟩

theorem State.Room.mono {s : State} {m n : Nat} (h : s.Room n) (hm : m ≤ n) : s.Room m := ⟨h.1, h.2.1, by have := h.2.2; omega⟩

/-- A state with the same log has the same room. -/
theorem State.Room.congr {s t : State} {n : Nat} (h : s.Room n) (hs : t.nd.standby = s.nd.standby)
    (hc : t.nd.coalesced = s.nd.coalesced) (hq : t.nd.queue = s.nd.queue) : t.Room n := by
  unfold State.Room
  rw [hs, hc, hq]
  exact h

/-- Where the queue has room the event's record is entered at its end. -/
theorem State.log_of_room {s : State} {n : Nat} (h : s.Room (n + 1)) (s0 : State) (src : LogSrc) (kind source : Nat) (acted watch : Bool)
    (detail : Nat) :
    s0.log s src kind source acted watch detail =
      { s with
        nd := { s.nd with queue := s.nd.queue ++ [s0.record s src kind source acted watch detail], seq := s.nd.seq + 1 }
        free := s.free + 1 } := by
  obtain ⟨hs, hc, hq⟩ := h
  unfold State.log
  simp only [hs, hc, Bool.not_true, Bool.false_eq_true, if_false]
  rw [if_pos (by omega)]
  rfl

theorem State.Room.log {s : State} {n : Nat} (h : s.Room (n + 1)) (s0 : State) (src : LogSrc) (kind source : Nat) (acted watch : Bool)
    (detail : Nat) : (s0.log s src kind source acted watch detail).Room n := by
  rw [State.log_of_room h]
  obtain ⟨hs, hc, hq⟩ := h
  exact ⟨hs, hc, by simp; omega⟩

theorem State.Room.logOpen {s : State} {n : Nat} (h : s.Room (n + 1)) (s0 : State) (src : LogSrc) (source : Nat) (watch : Bool) :
    (s0.logOpen s src source watch).Room n :=
  State.Room.log (s := { s with free := s.free + 2 }) h ..

/-! ## Records entered -/

/-- A record with `p` is in the RAM queue of `t` beyond those of `s`. -/
def State.Adds (s t : State) (p : LogRec → Prop) : Prop := ∃ r ∈ t.nd.queue.drop s.nd.queue.length, p r

/-- What is entered later leaves the record where it is. -/
theorem State.Adds.later {s t u : State} {p : LogRec → Prop} (h : s.Adds t p) (hq : t.nd.queue <+: u.nd.queue) : s.Adds u p := by
  obtain ⟨r, hr, hp⟩ := h
  obtain ⟨l, hl⟩ := hq
  exact ⟨r, by rw [← hl, List.drop_append]; exact List.mem_append_left _ hr, hp⟩

/-- What was entered before leaves the record beyond it. -/
theorem State.Adds.earlier {s t u : State} {p : LogRec → Prop} (h : t.Adds u p) (hq : s.nd.queue <+: t.nd.queue) : s.Adds u p := by
  obtain ⟨r, hr, hp⟩ := h
  exact ⟨r, (List.drop_sublist_drop_left u.nd.queue hq.length_le).subset hr, hp⟩

theorem State.Adds.of_append {s t : State} {p : LogRec → Prop} {r : LogRec} (h : t.nd.queue = s.nd.queue ++ [r]) (hp : p r) :
    s.Adds t p := ⟨r, by simp [h], hp⟩

/-- An event entered where there is room is logged. -/
theorem State.log_logged {s : State} {n : Nat} (h : s.Room (n + 1)) (s0 : State) (src : LogSrc) (kind source : Nat)
    (acted watch : Bool) (detail : Nat) : Logged s (s0.log s src kind source acted watch detail) kind source detail :=
  State.Adds.of_append (by rw [State.log_of_room h]) ⟨rfl, rfl, rfl⟩

theorem logged_later {s t u : State} {kind source detail : Nat} (h : Logged s t kind source detail)
    (hq : t.nd.queue <+: u.nd.queue) : Logged s u kind source detail := State.Adds.later h hq

theorem logged_earlier {s t u : State} {kind source detail : Nat} (h : Logged t u kind source detail)
    (hq : s.nd.queue <+: t.nd.queue) : Logged s u kind source detail := State.Adds.earlier h hq

/-- An event without a code of its own is entered with what it is about as its source. -/
theorem State.logOpen_append {s : State} {n : Nat} (h : s.Room (n + 1)) (s0 : State) (src : LogSrc) (source : Nat) (watch : Bool) :
    ∃ r, (s0.logOpen s src source watch).nd.queue = s.nd.queue ++ [r] ∧ r.source = source := by
  unfold State.logOpen
  rw [State.log_of_room (s := { s with free := s.free + 2 }) h]
  exact ⟨_, rfl, rfl⟩

/-- Events entered one after another, each taking up to `w` places, leave that much less room. -/
theorem State.Room.foldl {α : Type} {g : State → α → State} {w : Nat} (hr : ∀ (t : State) (a : α) (n : Nat), t.Room (n + w) → (g t a).Room n) (l : List α)
    (s : State) (n : Nat) (h : s.Room (n + w * l.length)) : (l.foldl g s).Room n := by
  induction l generalizing s with
  | nil => exact h.mono (by simp)
  | cons a r ih => exact ih _ (hr _ _ _ (h.mono (by simp only [List.length_cons, Nat.mul_succ]; omega)))

/-- What one of several events enters is there after all of them. -/
theorem State.Adds.foldl {α : Type} {g : State → α → State} {w : Nat} {p : LogRec → Prop} (hg : ∀ (t : State) (a : α), t.LogsTo (g t a))
    (hr : ∀ (t : State) (a : α) (n : Nat), t.Room (n + w) → (g t a).Room n) {a : α} (ha : ∀ t : State, t.Room w → t.Adds (g t a) p) (l : List α) (hl : a ∈ l)
    (s : State) (h : s.Room (w * l.length)) : s.Adds (l.foldl g s) p := by
  induction l generalizing s with
  | nil => simp at hl
  | cons b r ih =>
    have hw : s.Room (w * r.length + w) := h.mono (by simp [Nat.mul_succ])
    obtain rfl | hr' := List.mem_cons.1 hl
    · exact (ha s (hw.mono (Nat.le_add_left ..))).later (State.LogsTo.foldl hg r _).2
    · exact (ih hr' _ (hr _ _ _ hw)).earlier (hg s b).2

end Sys2Proof.Machine
end

section
/-! Boot failures, the end of a reset, and a fatal host link (02 R52, R59; 16 R401, R409 to R411). -/
namespace Sys2Proof.Machine

theorem Ctx.firmwareFailed_boots (x : Ctx) (hb : x.chip.boot.boots = true) (hf : x.chip.boot.fwRunning = false)
    (hs : x.chip.boot.stuck = false) :
    x.firmwareFailed =
      ((x.onBoot fun b => { b with fwFailed := true, bootStage := 1 }).ras 0x0C 9 0 0 none 0 0).emit (.smbus x.c "FW_FAILED" 1) := by
  simp [Ctx.firmwareFailed, hb, hf, hs]

/-- A firmware failure that is new is logged by the Ndevas. -/
theorem firmwareLoadFail_logs (c : Fin 8) (s : State) (hb : (chipAt s c).boot.boots = true)
    (hf : (chipAt s c).boot.fwRunning = false) (hs : (chipAt s c).boot.stuck = false) (hn : (chipAt s c).boot.fwFailed = false) :
    firmwareLoadFail c s = s.logOpen (onChip c Ctx.firmwareFailed s) .none c false := by
  have hnew : ((onChip c Ctx.firmwareFailed s).chips.get c).boot.fwFailed = true := by
    rw [onChip_same, Ctx.firmwareFailed_boots _ hb hf hs]
    simp
  have hold : (s.chips.get c).boot.fwFailed = false := hn
  simp [firmwareLoadFail, hnew, hold]

theorem Ctx.hbmFailed_boots (x : Ctx) (hb : x.chip.boot.boots = true) (hf : x.chip.boot.fwRunning = true)
    (ht : x.chip.boot.hbmTrained = false) (hs : x.chip.boot.stuck = false) :
    x.hbmFailed = (x.onBoot fun b => { b with hbmFailed := true, bootStage := 2 }).ras 0x0C 6 0 0 none 0 0 := by
  simp [Ctx.hbmFailed, hb, hf, ht, hs]

/-- An FLR or a watchdog reset is complete once its firmware runs and no line is held. -/
theorem Ctx.resetDone_kept (x : Ctx) (hp : x.chip.boot.pstate = .resetting) (hc : x.chip.boot.cause.fundamental = false)
    (hs : x.chip.boot.stuck = false) (hf : x.chip.boot.fwRunning = true) (hh : x.chip.boot.perst = false)
    (hl : x.chip.boot.resetLine = false) : x.resetDone = x.setReady := by
  simp [Ctx.resetDone, hp, hc, hs, hf, hh, hl]

theorem Ctx.hostLinkFatal_up (x : Ctx) (kind : LinkFatal) (hl : x.chip.boot.linkL0 = true) :
    x.hostLinkFatal kind =
      (((x.emit (.aer x.c 2 (linkFatalName kind))).ras 0x0A 8 0 0 none 0 0).onStew fun w => { w with held := [] }).onBoot fun b =>
        { b with linkFatal := true, linkL0 := false, linkL1 := false } := by
  simp [Ctx.hostLinkFatal, hl]

end Sys2Proof.Machine

namespace Sys2Proof
open Machine

/-- Settles O12: each failure is entered in the chip's RAS log by `Ctx.ras`, and the Ndevas logs a firmware failure as it is told. -/
theorem failedBootsAndFatalLinks : Obligations.FailedBootsAndFatalLinks := by
  unfold Obligations.FailedBootsAndFatalLinks
  refine ⟨fun s c hb hf hs hn hroom => ⟨_, rfl, ?_⟩, fun s c hb hf ht hs => runs_of_chip rfl ?_,
    fun s c hp hc hs hf hh hl => runs_of_chip rfl ?_, fun s c kind hl => runs_of_chip rfl ?_⟩
  · rw [firmwareLoadFail_logs c s hb hf hs hn]
    have hlog := State.logOpen_logsTo s (onChip c Ctx.firmwareFailed s) .none c false
    have hx := Ctx.firmwareFailed_boots (ctxOf s c) hb hf hs
    have hchip : ∀ d, chipAt (s.logOpen (onChip c Ctx.firmwareFailed s) .none c false) d =
        (onChip c Ctx.firmwareFailed s).chips.get d := fun d => congrArg (fun v => v.get d) hlog.chips
    have hroom' : (onChip c Ctx.firmwareFailed s).Room (31 + 1) := State.Room.of_logRoom hroom
    refine ⟨?_, fun d hd => ⟨(hchip d).trans (onChip_other _ _ _ _ hd), hlog.position d⟩, ?_, State.logOpen_append hroom' ..⟩
    · rw [hlog.out, onChip_out]
      exact congrArg (s.out ++ ·) ((congrArg Ctx.out hx).trans (by simp))
    · have hc : chipAt (s.logOpen (onChip c Ctx.firmwareFailed s) .none c false) c = (ctxOf s c).firmwareFailed.chip :=
        (hchip c).trans (onChip_same ..)
      rw [hc, hx]
      exact ⟨by simp, by simp, by simp, by rw [Ctx.emit_obs]; exact Ctx.ras_last_class _ _ _ _ _ _ _ _ (by decide)⟩
  · rw [Ctx.hbmFailed_boots _ hb hf ht hs]
    exact ⟨by simp, by simp, by simp, by simp, Ctx.ras_last_class _ _ _ _ _ _ _ _ (by decide)⟩
  · rw [Ctx.resetDone_kept _ hp hc hs hf hh hl]
    exact (ctxOf s c).setReady_spec
  · rw [Ctx.hostLinkFatal_up _ kind hl]
    refine ⟨by simp, by simp, by simp, by simp, by simp, by simp, by simp, ?_⟩
    rw [Ctx.onBoot_obs, Ctx.onStew_obs]
    exact Ctx.ras_last_class _ _ _ _ _ _ _ _ (by decide)

end Sys2Proof
end

section
/-! Idle and Dormant: the way in, and the way back (02 R57 to R61, 12 R304). -/
namespace Sys2Proof.Machine

@[simp] theorem Ctx.count_out (x : Ctx) (block inst val n : Nat) : (x.count block inst val n).out = x.out := by
  unfold Ctx.count
  split
  · rfl
  · split <;> rfl

/-- An Active chip with empty queues and no held request only becomes Idle. -/
theorem Ctx.idleTimeout_active (x : Ctx) (hp : x.chip.boot.pstate = .active) (hq : x.queuesEmpty = true)
    (hh : x.chip.boot.dormantHeld = false) : x.idleTimeout = x.onBoot fun b => { b with pstate := .idle } := by
  simp [Ctx.idleTimeout, Ctx.enterIdle, hp, hq, hh]

/-- The entry into Dormant asks the ports for Drizzle; of the boot state it changes what stands for the entry. -/
theorem Ctx.enterDormant_boot (x : Ctx) :
    x.enterDormant.chip.boot = { x.chip.boot with dormantEntry := true, dormantHeld := false } := by
  simp [Ctx.enterDormant]

theorem Ctx.dormantDelay_quiet (x : Ctx) (hq : x.chip.boot.quiet = true) (hd : ppDelay x.chip.config.active.power ≠ 0) :
    x.dormantDelay = x.enterDormant := by
  simp [Ctx.dormantDelay, Ctx.act, hq, hd]

/-- A command waits that a Dormant chip does not carry out (02 R58). -/
theorem anyWaiting_iff (l : List Cmd) :
    (l.any fun k => k.phase == .fetched && !dormantOpcode k.opcode) =
      decide (∃ k ∈ l, k.phase = .fetched ∧ dormantOpcode k.opcode = false) := by
  rw [Bool.eq_iff_iff]
  simp

/-- A Dormant chip that is not waking takes a wake event: of the boot state only the exit in progress changes. -/
theorem Ctx.wakeEvent_boot (x : Ctx) (hp : x.chip.boot.pstate = .dormant) (hw : x.chip.boot.waking = false) :
    x.wakeEvent.chip.boot = { x.chip.boot with waking := true } ∧ x.wakeEvent.out = x.out := by
  rw [x.wakeEvent_dormant hp hw]
  exact ⟨rfl, rfl⟩

/-- The chip as it is Dormant, before any wake event: the link rests in L1 where the host allows it (02 R57). -/
def Ctx.restDormant (x : Ctx) : Ctx :=
  ((x.onBoot fun b => { b with pstate := .dormant, dormantEntry := false }).restLink).count 0x0A 0 12 1

theorem Ctx.restDormant_spec (x : Ctx) :
    x.restDormant.chip.boot = { x.chip.boot with
      pstate := .dormant, dormantEntry := false, linkL1 := x.chip.boot.linkL0 && x.chip.bar.aspmL1 } ∧
      x.restDormant.chip.config = x.chip.config ∧ x.restDormant.chip.serve = x.chip.serve ∧
      x.restDormant.chip.mem = x.chip.mem ∧ x.restDormant.chip.stew = x.chip.stew ∧ x.restDormant.out = x.out := by
  simp [Ctx.restDormant, Ctx.restLink]

/-- The entry completes, and a command that waits starts the exit at once. -/
theorem Ctx.dormantEntered_idle (x : Ctx) (hp : x.chip.boot.pstate = .idle) (he : x.chip.boot.dormantEntry = true) :
    x.dormantEntered =
      if decide (∃ k ∈ x.chip.stew.cmds, k.phase = .fetched ∧ dormantOpcode k.opcode = false) then x.restDormant.wakeEvent
      else x.restDormant := by
  rw [← anyWaiting_iff]
  exact if_pos ⟨hp, he⟩

theorem Ctx.dormantEntered_spec (x : Ctx) (hp : x.chip.boot.pstate = .idle) (he : x.chip.boot.dormantEntry = true)
    (hw : x.chip.boot.waking = false) :
    let k := x.dormantEntered.chip
    x.dormantEntered.out = x.out ∧
      k.boot = { x.chip.boot with
        pstate := .dormant, dormantEntry := false, linkL1 := x.chip.boot.linkL0 && x.chip.bar.aspmL1
        waking := decide (∃ k ∈ x.chip.stew.cmds, k.phase = .fetched ∧ dormantOpcode k.opcode = false) } ∧
      k.config = x.chip.config ∧ k.serve = x.chip.serve ∧ k.mem = x.chip.mem ∧ k.stew = x.chip.stew := by
  obtain ⟨hb, hc, hs, hm, ht, ho⟩ := x.restDormant_spec
  rw [x.dormantEntered_idle hp he]
  cases decide (∃ k ∈ x.chip.stew.cmds, k.phase = .fetched ∧ dormantOpcode k.opcode = false) with
  | true =>
    obtain ⟨hwb, hwo⟩ := x.restDormant.wakeEvent_boot (congrArg Boot.pstate hb) ((congrArg Boot.waking hb).trans hw)
    exact ⟨hwo.trans ho, hwb.trans (congrArg (fun b : Boot => { b with waking := true }) hb), by simp [hc], by simp [hs], by simp [hm],
      by simp [ht]⟩
  | false => exact ⟨ho, hb.trans (by simp [hw]), hc, hs, hm, ht⟩

theorem Ctx.woken_dormant (x : Ctx) (hp : x.chip.boot.pstate = .dormant) (hw : x.chip.boot.waking = true) :
    x.woken = x.onBoot fun b => { b with pstate := .active, waking := false, dormantEntry := false, linkL1 := false } := by
  simp [Ctx.woken, hp, hw, Ctx.restLink, Ctx.onBoot]

theorem Ctx.dormantNow_dormant (x : Ctx) (k : Cmd) (hp : x.chip.boot.pstate = .dormant) : x.dormantNow k = x.done k 2 0 0 := by
  simp only [Ctx.dormantNow, hp]

theorem Ctx.dormantNow_active (x : Ctx) (k : Cmd) (hp : x.chip.boot.pstate = .active) :
    x.dormantNow k = (x.onBoot fun b => { b with dormantHeld := true }).done k 0 0 0 := by
  simp only [Ctx.dormantNow, hp]

end Sys2Proof.Machine

namespace Sys2Proof
open Machine

/-- Settles O13: each event is one change of the boot state, beside the ports, a counter and the completion of DORMANT_NOW. -/
theorem idleAndDormant : Obligations.IdleAndDormant := by
  unfold Obligations.IdleAndDormant
  refine ⟨fun s c hp hq hh => runs_of_chip rfl ?_, fun s c hq hd => runs_of_chip rfl ?_,
    fun s c hp he hw => runs_of_chip rfl ((ctxOf s c).dormantEntered_spec hp he hw), fun s c hp hw => runs_of_chip rfl ?_,
    fun s c hp hw => runs_of_chip rfl ?_, fun s c k hk ho ha hp => runs_of_chip rfl ?_, fun s c k hk ho ha hp => runs_of_chip rfl ?_⟩
  · rw [Ctx.idleTimeout_active _ hp hq hh]
    exact ⟨rfl, rfl⟩
  · rw [Ctx.dormantDelay_quiet _ hq hd]
    exact ⟨Ctx.enterDormant_boot _, by simp, by simp, by simp⟩
  · obtain ⟨hb, hout⟩ := (ctxOf s c).wakeEvent_boot hp hw
    exact ⟨hout, hb, by simp, by simp, by simp, by simp⟩
  · rw [Ctx.woken_dormant _ hp hw]
    exact ⟨rfl, rfl⟩
  · rw [run_eq hk ⟨ho, by simp [ha]⟩, Ctx.dormantNow_dormant _ _ (by simp [hp])]
    obtain ⟨hc, he⟩ := done_can hk 2 0 0
    exact ⟨hc, he, by simp⟩
  · rw [run_eq hk ⟨ho, by simp [ha]⟩, Ctx.dormantNow_active _ _ (by simp [hp])]
    obtain ⟨-, -, -, hpost⟩ := (ctxOf s c).begin_same k
    obtain ⟨-, -, -, hcan, hheld⟩ := hk
    obtain ⟨hc, he⟩ := Ctx.done_completes (c := c) (h := chipAt s c) (((ctxOf s c).begin k).onBoot fun b => { b with dormantHeld := true })
      k 0 0 0 (by simp) (by simp) (by simp) ((hpost _ _).trans hcan) (by simpa using hheld)
    exact ⟨hc, he, by simp⟩

end Sys2Proof
end

section
/-! The channels and chip positions of the Ndevas: a read after a write, and what the start and the restart of the Ndevas make of
them (02 R44, R45, R49, R56; 14 R366, R368; 15 R389). -/
namespace Sys2Proof.Machine

/-! ## A read after a write -/

@[simp] theorem Ndevas.position_setPosition_same (n : Ndevas) (k : Nat) (p : Position) : (n.setPosition k p).position k = p :=
  tget_tset_same ..

theorem Ndevas.position_setPosition_other (n : Ndevas) {k j : Nat} (p : Position) (h : j ≠ k) :
    (n.setPosition k p).position j = n.position j := tget_tset_other _ _ _ _ _ h

@[simp] theorem Ndevas.loop_setLoop_same (n : Ndevas) (k : Nat) (l : Loop) : (n.setLoop k l).loop k = l := tget_tset_same ..

theorem Ndevas.loop_setLoop_other (n : Ndevas) {k j : Nat} (l : Loop) (h : j ≠ k) : (n.setLoop k l).loop j = n.loop j :=
  tget_tset_other _ _ _ _ _ h

@[simp] theorem Ndevas.leak_setLeak_same (n : Ndevas) (k : Nat) (l : Leak) : (n.setLeak k l).leak k = l := tget_tset_same ..

theorem Ndevas.leak_setLeak_other (n : Ndevas) {k j : Nat} (l : Leak) (h : j ≠ k) : (n.setLeak k l).leak j = n.leak j :=
  tget_tset_other _ _ _ _ _ h

/-- Rewriting the entries of a table one after another, each from its own old value, rewrites each of them once. -/
theorem foldl_update {σ α : Type} {get : σ → Nat → α} {f : σ → Nat → σ} {v : Nat → α → α}
    (same : ∀ s k, get (f s k) k = v k (get s k)) (other : ∀ s k j, j ≠ k → get (f s k) j = get s j) (l : List Nat) (hl : l.Nodup)
    (s : σ) (j : Nat) : get (l.foldl f s) j = if j ∈ l then v j (get s j) else get s j := by
  induction l generalizing s with
  | nil => simp
  | cons k r ih =>
    obtain ⟨hk, hr⟩ := List.nodup_cons.1 hl
    rw [List.foldl_cons, ih hr]
    by_cases hj : j = k
    · subst hj; simp [hk, same]
    · simp [hj, other _ _ _ hj]

/-- A table that is rewritten entry by entry holds at each the value written there. -/
theorem tget_foldl_tupd {α : Type} [DecidableEq α] (d : α) (f : Nat → α → α) (l : List Nat) (hl : l.Nodup) (t : Tab α) (j : Nat)
    (hj : j ∈ l) : tget d (l.foldl (fun t k => tupd d t k (f k)) t) j = f j (tget d t j) := by
  rw [foldl_update (get := fun t k => tget d t k) (v := f) (fun t k => tget_tupd_same ..)
    (fun t k j h => tget_tupd_other _ _ _ _ _ h) l hl, if_pos hj]

theorem tget_foldl_tset {α : Type} [DecidableEq α] (d : α) (v : Nat → α) (l : List Nat) (hl : l.Nodup) (t : Tab α) (j : Nat)
    (hj : j ∈ l) : tget d (l.foldl (fun t k => tset d t k (v k)) t) j = v j := tget_foldl_tupd d (fun k _ => v k) l hl t j hj

/-! ## Channels at a start -/

/-- A current-loop channel with parameters `c` as power-up leaves it. -/
def LoopCfg.startLoop (c : LoopCfg) : Loop :=
  { (if c.role = 0 then Loop.initial else { Loop.initial with state := .starting, fetOpen := false }) with cfg := c }

/-- A current-loop channel `l` with parameters `c` as a restart leaves it. -/
def LoopCfg.rebuildLoop (c : LoopCfg) (l : Loop) : Loop :=
  if c.role = 0 then { Loop.initial with cfg := c }
  else if l.fetOpen ∧ l.state = .disconnected then { Loop.initial with cfg := c, state := .disconnected, retries := l.retries, clean := 0 }
  else { Loop.initial with cfg := c, state := .starting, fetOpen := false }

/-- A leak channel `l` with parameters `c` as a start leaves it. -/
def LeakCfg.startLeak (c : LeakCfg) (l : Leak) : Leak :=
  if l.latch then { Leak.initial with cfg := c, state := .leak, latch := true } else { Leak.initial with cfg := c }

/-- Rewriting the current-loop channels from the active set writes their table alone, and each from its own old value. -/
theorem Ndevas.foldl_setLoop (v : LoopCfg → Loop → Loop) (l : List Nat) (n : Ndevas) :
    l.foldl (fun m k => m.setLoop k (v (m.setLoopCfg k) (m.loop k))) n =
      { n with loops := l.foldl (fun t k => tupd .initial t k (v (n.setLoopCfg k))) n.loops } := by
  induction l generalizing n with
  | nil => rfl
  | cons k r ih => rw [List.foldl_cons, ih]; rfl

theorem Ndevas.foldl_setLeak (v : LeakCfg → Leak → Leak) (l : List Nat) (n : Ndevas) :
    l.foldl (fun m k => m.setLeak k (v (m.setLeakCfg k) (m.leak k))) n =
      { n with leaks := l.foldl (fun t k => tupd .initial t k (v (n.setLeakCfg k))) n.leaks } := by
  induction l generalizing n with
  | nil => rfl
  | cons k r ih => rw [List.foldl_cons, ih]; rfl

theorem Ndevas.loop_foldl_setLoop (v : LoopCfg → Loop → Loop) {l : List Nat} (hl : l.Nodup) (n : Ndevas) {k : Nat} (hk : k ∈ l) :
    (l.foldl (fun m k => m.setLoop k (v (m.setLoopCfg k) (m.loop k))) n).loop k = v (n.setLoopCfg k) (n.loop k) := by
  rw [Ndevas.foldl_setLoop]
  exact tget_foldl_tupd Loop.initial (fun k => v (n.setLoopCfg k)) l hl _ _ hk

theorem Ndevas.leak_foldl_setLeak (v : LeakCfg → Leak → Leak) {l : List Nat} (hl : l.Nodup) (n : Ndevas) {k : Nat} (hk : k ∈ l) :
    (l.foldl (fun m k => m.setLeak k (v (m.setLeakCfg k) (m.leak k))) n).leak k = v (n.setLeakCfg k) (n.leak k) := by
  rw [Ndevas.foldl_setLeak]
  exact tget_foldl_tupd Leak.initial (fun k => v (n.setLeakCfg k)) l hl _ _ hk

theorem Ndevas.startLoops_fold (n : Ndevas) :
    n.startLoops = (List.range 16).foldl (fun m k => m.setLoop k (m.setLoopCfg k).startLoop) n :=
  congrArg (fun f => (List.range 16).foldl f n) (funext fun _ => funext fun _ => rfl)

theorem Ndevas.rebuildLoops_fold (n : Ndevas) :
    n.rebuildLoops = (List.range 16).foldl (fun m k => m.setLoop k ((m.setLoopCfg k).rebuildLoop (m.loop k))) n :=
  congrArg (fun f => (List.range 16).foldl f n) (funext fun _ => funext fun _ => rfl)

theorem Ndevas.startLeaks_fold (n : Ndevas) :
    n.startLeaks = (List.range 8).foldl (fun m k => m.setLeak k ((m.setLeakCfg k).startLeak (m.leak k))) n :=
  congrArg (fun f => (List.range 8).foldl f n) (funext fun _ => funext fun _ => rfl)

theorem Ndevas.startLoops_eq (n : Ndevas) : n.startLoops = { n with loops := n.startLoops.loops } := by
  rw [Ndevas.startLoops_fold, Ndevas.foldl_setLoop fun c _ => c.startLoop]

theorem Ndevas.rebuildLoops_eq (n : Ndevas) : n.rebuildLoops = { n with loops := n.rebuildLoops.loops } := by
  rw [Ndevas.rebuildLoops_fold, Ndevas.foldl_setLoop]

theorem Ndevas.startLeaks_eq (n : Ndevas) : n.startLeaks = { n with leaks := n.startLeaks.leaks } := by
  rw [Ndevas.startLeaks_fold, Ndevas.foldl_setLeak]

theorem Ndevas.startLoops_loop (n : Ndevas) {k : Nat} (hk : k < 16) : n.startLoops.loop k = (n.setLoopCfg k).startLoop := by
  rw [Ndevas.startLoops_fold, Ndevas.loop_foldl_setLoop (fun c _ => c.startLoop) List.nodup_range n (List.mem_range.2 hk)]

theorem Ndevas.rebuildLoops_loop (n : Ndevas) {k : Nat} (hk : k < 16) :
    n.rebuildLoops.loop k = (n.setLoopCfg k).rebuildLoop (n.loop k) := by
  rw [Ndevas.rebuildLoops_fold, Ndevas.loop_foldl_setLoop _ List.nodup_range n (List.mem_range.2 hk)]

theorem Ndevas.startLeaks_leak (n : Ndevas) {k : Nat} (hk : k < 8) : n.startLeaks.leak k = (n.setLeakCfg k).startLeak (n.leak k) := by
  rw [Ndevas.startLeaks_fold, Ndevas.leak_foldl_setLeak _ List.nodup_range n (List.mem_range.2 hk)]

/-- Power-up rewrites the channels, and nothing else of the Ndevas. -/
theorem Ndevas.start_eq (n : Ndevas) :
    n.startLoops.startLeaks = { n with loops := n.startLoops.loops, leaks := n.startLoops.startLeaks.leaks } :=
  n.startLoops.startLeaks_eq.trans (congrArg (fun m : Ndevas => { m with leaks := n.startLoops.startLeaks.leaks }) n.startLoops_eq)

/-- A restart rewrites the channels, and nothing else of the Ndevas. -/
theorem Ndevas.rebuild_eq (n : Ndevas) :
    n.rebuildLoops.startLeaks = { n with loops := n.rebuildLoops.loops, leaks := n.rebuildLoops.startLeaks.leaks } :=
  n.rebuildLoops.startLeaks_eq.trans
    (congrArg (fun m : Ndevas => { m with leaks := n.rebuildLoops.startLeaks.leaks }) n.rebuildLoops_eq)

theorem Ndevas.rebuildLoops_leaks (n : Ndevas) : n.rebuildLoops.leaks = n.leaks := by
  rw [n.rebuildLoops_eq]

theorem Ndevas.startLoops_leaks (n : Ndevas) : n.startLoops.leaks = n.leaks := by
  rw [n.startLoops_eq]

theorem Ndevas.startLeaks_loops (n : Ndevas) : n.startLeaks.loops = n.loops := by
  rw [n.startLeaks_eq]

/-- A leak channel at a start: its latch stays and decides its state (14 R366, R368). -/
theorem Ndevas.startLeaks_spec (n : Ndevas) {k : Nat} (hk : k < 8) :
    (n.startLeaks.leak k).latch = (n.leak k).latch ∧
      (n.startLeaks.leak k).state = if (n.leak k).latch = true then .leak else .indeterminate := by
  rw [n.startLeaks_leak hk]
  unfold LeakCfg.startLeak
  cases h : (n.leak k).latch <;> exact ⟨rfl, rfl⟩

/-- A channel without a role starts UNUSED, any other STARTING, with the parameters of the active set. -/
theorem LoopCfg.startLoop_spec (c : LoopCfg) :
    c.startLoop.cfg = c ∧ c.startLoop.state = if c.role = 0 then .unused else .starting := by
  unfold LoopCfg.startLoop
  split <;> exact ⟨rfl, rfl⟩

/-- A channel with a role that is disconnected with its FET open stays so over a restart; any other starts anew (02 R49). -/
theorem LoopCfg.rebuildLoop_spec (c : LoopCfg) (l : Loop) (hr : c.role ≠ 0) :
    if l.state = .disconnected ∧ l.fetOpen = true then
      (c.rebuildLoop l).state = .disconnected ∧ (c.rebuildLoop l).fetOpen = true ∧ (c.rebuildLoop l).retries = l.retries
    else (c.rebuildLoop l).state = .starting ∧ (c.rebuildLoop l).fetOpen = false := by
  unfold LoopCfg.rebuildLoop
  rw [if_neg hr]
  by_cases h : l.state = .disconnected ∧ l.fetOpen = true
  · rw [if_pos h, if_pos h.symm]
    exact ⟨rfl, rfl, rfl⟩
  · rw [if_neg h, if_neg fun g => h g.symm]
    exact ⟨rfl, rfl⟩

end Sys2Proof.Machine
end

section
/-! The Ndevas restarts, standby power goes, and the board memory is read again (02 R49, R56, R59; 14 R368; 15 R389, R390, R393). -/
namespace Sys2Proof.Machine

/-- The Ndevas as a restart leaves it: what it keeps, with its channels rebuilt. -/
def Ndevas.restarted (n : Ndevas) (cause : RestartCause) (ms now : Nat) : Ndevas :=
  { n.rebuildLoops.startLeaks with
    hazards := [], scansOk := 0
    running := false, idsRead := false, startCause := (match cause with | .watchdog => 2 | .firmwareUpdate => 3)
    clock := n.clock.map (· + ms), startedAt := now, queue := [], coalesced := none
    flash := n.flash.map fun r => { r with due := false }, image := none }

theorem ndevasRestart_running {s : State} (h : s.nd.running = true) (cause : RestartCause) :
    ndevasRestart cause s = { s with nd := s.nd.restarted cause s.ndMs s.now } := by
  simp only [ndevasRestart, h]
  rfl

/-- What a restart keeps of the Ndevas beside its channels, the log in flash and the clock. -/
theorem Ndevas.restarted_keeps (n : Ndevas) (cause : RestartCause) (ms now : Nat) :
    let m := n.restarted cause ms now
    m.pos = n.pos ∧ m.outs = n.outs ∧ m.active = n.active ∧ m.shadow = n.shadow ∧ m.activeGen = n.activeGen ∧
      m.shadowGen = n.shadowGen ∧ m.seq = n.seq := by
  unfold Ndevas.restarted
  rw [n.rebuild_eq]
  exact ⟨rfl, rfl, rfl, rfl, rfl, rfl, rfl⟩

theorem Ndevas.restarted_leaks (n : Ndevas) (cause : RestartCause) (ms now : Nat) :
    (n.restarted cause ms now).leaks = n.rebuildLoops.startLeaks.leaks := by
  unfold Ndevas.restarted
  with_reducible rfl

theorem Ndevas.restarted_leak (n : Ndevas) (cause : RestartCause) (ms now : Nat) {k : Nat} (hk : k < 8) :
    ((n.restarted cause ms now).leak k).latch = (n.leak k).latch ∧
      ((n.restarted cause ms now).leak k).state = if (n.leak k).latch = true then .leak else .indeterminate := by
  have h := n.rebuildLoops.startLeaks_spec hk
  unfold Ndevas.leak at h ⊢
  rw [n.rebuildLoops_leaks] at h
  rw [Ndevas.restarted_leaks]
  exact h

theorem Ndevas.restarted_loop (n : Ndevas) (cause : RestartCause) (ms now : Nat) {k : Nat} (hk : k < 16) :
    (n.restarted cause ms now).loop k = (n.setLoopCfg k).rebuildLoop (n.loop k) := by
  rw [← n.rebuildLoops_loop hk]
  unfold Ndevas.loop Ndevas.restarted
  rw [n.rebuildLoops.startLeaks_loops]

/-! ## Standby power goes -/

theorem standbyDown_chip (s : State) (c : Fin 8) : chipAt (standbyDown s) c = (chipAt s c).offWith := by
  simp [chipAt, standbyDown, chips_get]

theorem standbyDown_position (s : State) (c : Fin 8) :
    (standbyDown s).nd.position c = { Position.initial with image := (s.nd.position c).image } :=
  tget_foldl_tset Position.initial (fun i => { Position.initial with image := (s.nd.position i).image }) (List.range 8)
    List.nodup_range [] c (List.mem_range.2 c.isLt)

theorem standbyDown_leak (s : State) {k : Nat} (hk : k < 8) :
    (standbyDown s).nd.leak k = { Leak.initial with latch := (s.nd.leak k).latch } :=
  tget_foldl_tset Leak.initial (fun k => { Leak.initial with latch := (s.nd.leak k).latch }) (List.range 8) List.nodup_range [] k
    (List.mem_range.2 hk)

/-! ## The board memory -/

theorem boardRetry_waiting {s : State} (hn : s.nd.running = true) (hb : s.nd.boardOk = false) (r : IdRead) :
    boardRetry r s = if idPasses r then onNd (·.readBoard r) s else s.log s .none 0x1107 0 false false 1 := by
  simp [boardRetry, hn, hb, idFail]

/-- The I_LIM in force is never above a limit that the board memory gives. -/
theorem Ndevas.fuseLimit_le {n : Ndevas} {k l : Nat} (h : n.limits[k]? = some l) : n.fuseLimit k ≤ l := by
  simp only [Ndevas.fuseLimit, h]
  exact Nat.min_le_left _ _

/-- With the limits of the board memory no I_LIM in force is above its limit (14 R374). -/
theorem Ndevas.readBoard_fuseLimit (n : Ndevas) (r : IdRead) (k : Nat) :
    (n.readBoard r).fuseLimit k ≤ r.limits.getD k 42 ∨ r.limits.length ≤ k := by
  by_cases hk : k < r.limits.length
  · rw [List.getD_eq_getElem?_getD, List.getElem?_eq_getElem hk, Option.getD_some]
    exact .inl (Ndevas.fuseLimit_le (n := n.readBoard r) (List.getElem?_eq_getElem hk))
  · exact .inr (Nat.le_of_not_lt hk)

end Sys2Proof.Machine

namespace Sys2Proof
open Machine

/-- Settles O59: a restart and the loss of standby power by what they keep, and a read of the board memory by its two outcomes. -/
theorem trayRestarts : Obligations.TrayRestarts := by
  unfold Obligations.TrayRestarts
  refine ⟨fun s cause => ⟨fun hn => ⟨_, rfl, ?_⟩, fun hn => ⟨_, rfl, by simp [ndevasRestart, hn]⟩⟩, fun s => ⟨_, rfl, ?_⟩,
    fun s r => ⟨fun hn hb => ⟨fun hr => ⟨_, rfl, ?_⟩, fun hr hroom => ⟨_, rfl, ?_⟩⟩, fun hb => ⟨_, rfl, by simp [boardRetry, hb]⟩⟩⟩
  · rw [ndevasRestart_running hn]
    obtain ⟨hpos, houts, hact, hsh, hag, hsg, hseq⟩ := s.nd.restarted_keeps cause s.ndMs s.now
    refine ⟨rfl, rfl, rfl, hpos, houts, rfl, hact, fun k hk => s.nd.restarted_leak cause _ _ hk, fun k hk hrole => ?_, hsh, hag, hsg, hseq,
      rfl, ?_, rfl, rfl, rfl, fun u hu => ?_⟩
    · have h := (s.nd.setLoopCfg k).rebuildLoop_spec (s.nd.loop k) hrole
      rw [← s.nd.restarted_loop cause s.ndMs s.now hk] at h
      exact h
    · cases cause <;> rfl
    · show s.nd.clock.map _ = _
      rw [hu]
      rfl
  · refine ⟨rfl, rfl, fun c => ⟨standbyDown_chip s c, ?_, ?_, ?_⟩, rfl, rfl, rfl, rfl, fun k hk => ?_, rfl, rfl, rfl, rfl, rfl⟩
    · rw [standbyDown_position]; rfl
    · rw [standbyDown_position]; rfl
    · rw [standbyDown_position]
    · rw [standbyDown_leak s hk]
  · rw [boardRetry_waiting hn hb, if_pos hr]
    exact ⟨rfl, rfl, rfl, fun k _ => s.nd.readBoard_fuseLimit r k⟩
  · rw [boardRetry_waiting hn hb, if_neg (by simp [hr])]
    have hlog := State.log_logsTo s s .none 0x1107 0 false false 1
    exact ⟨State.log_logged (State.Room.of_logRoom hroom) .., (congrArg Ndevas.boardOk hlog.nd).trans hb, hlog.chips,
      (congrArg Ndevas.pos hlog.nd :)⟩

end Sys2Proof
end

section
/-! What the Ndevas's hazards and isolations leave of the tray, and what reading the identity memories makes of it
(02 R44, R45, R49; 14 R374; 15 R381 to R384). -/
namespace Sys2Proof.Machine

/-! ## Outputs -/

/-- `m` differs from `n` in nothing but its outputs. -/
def Ndevas.OutsOnly (n m : Ndevas) : Prop := m = { n with outs := m.outs }

theorem Ndevas.OutsOnly.refl (n : Ndevas) : n.OutsOnly n := rfl

theorem Ndevas.OutsOnly.trans {n m k : Ndevas} (h : n.OutsOnly m) (g : m.OutsOnly k) : n.OutsOnly k := by
  unfold Ndevas.OutsOnly at *
  rw [h] at g
  exact g

theorem Ndevas.OutsOnly.foldl {α : Type} {g : Ndevas → α → Ndevas} (hg : ∀ (n : Ndevas) (a : α), n.OutsOnly (g n a)) (l : List α)
    (n : Ndevas) : n.OutsOnly (l.foldl g n) := by
  induction l generalizing n with
  | nil => exact .refl n
  | cons a r ih => exact (hg n a).trans (ih _)

theorem Ndevas.setOut_outsOnly (n : Ndevas) (k : Nat) (o : Output) : n.OutsOnly (n.setOut k o) := rfl

theorem Ndevas.switch_outsOnly (n : Ndevas) (k : Nat) (on : Bool) : n.OutsOnly (n.switch k on) := by
  have on_other : ∀ (m : Ndevas) (j : Nat), m.OutsOnly
      (if j = k then m else m.setOut j { m.output j with wasLow := decide ((m.output j).sample.mv < 2000) }) := by
    intro m j
    split
    · exact .refl m
    · exact setOut_outsOnly ..
  unfold Ndevas.switch
  dsimp only
  split
  · exact (n.setOut_outsOnly ..).trans (.foldl on_other ..)
  · exact (n.setOut_outsOnly ..).trans (.foldl on_other ..)
  · exact n.setOut_outsOnly ..
  · exact n.setOut_outsOnly ..
  · exact .refl n

/-- When the actions in force change, only the outputs follow. -/
theorem Ndevas.refresh_outsOnly (old n : Ndevas) : n.OutsOnly (old.refresh n) := by
  refine .foldl (fun m k => ?_) _ _
  split
  · exact .refl m
  · exact m.switch_outsOnly ..

/-! ## Hazards and isolation -/

/-- What hazards and isolations keep of the Ndevas: it runs, the readings of the identity memories stay, and records are only
added to the queue. -/
structure State.Acts (s t : State) : Prop where
  running : t.nd.running = s.nd.running
  boardOk : t.nd.boardOk = s.nd.boardOk
  queue : s.nd.queue <+: t.nd.queue
  idRow : ∀ k, (t.nd.position k).idRow = (s.nd.position k).idRow
  stepping : ∀ k, (t.nd.position k).stepping = (s.nd.position k).stepping

/-- What raising hazards and giving notice keep besides: the chips, and the rail sequences due of those that are Off. -/
structure State.Notices (s t : State) : Prop extends State.Acts s t where
  chips : t.chips = s.chips
  due : ∀ i : Fin 8, (chipAt s i).boot.rails = .down → (t.nd.position i).due = (s.nd.position i).due

theorem State.Acts.refl (s : State) : s.Acts s := ⟨rfl, rfl, List.prefix_rfl, fun _ => rfl, fun _ => rfl⟩

theorem State.Acts.trans {s t u : State} (h : s.Acts t) (g : t.Acts u) : s.Acts u :=
  ⟨g.running.trans h.running, g.boardOk.trans h.boardOk, h.queue.trans g.queue, fun k => (g.idRow k).trans (h.idRow k),
    fun k => (g.stepping k).trans (h.stepping k)⟩

theorem State.Acts.foldl {α : Type} {g : State → α → State} (hg : ∀ (t : State) (a : α), t.Acts (g t a)) (l : List α) (s : State) :
    s.Acts (l.foldl g s) := by
  induction l generalizing s with
  | nil => exact .refl s
  | cons a r ih => exact (hg s a).trans (ih _)

theorem State.Notices.trans {s t u : State} (h : s.Notices t) (g : t.Notices u) : s.Notices u :=
  ⟨h.toActs.trans g.toActs, g.chips.trans h.chips, fun i hi => by
    have e : chipAt t i = chipAt s i := congrArg (fun v => v.get i) h.chips
    exact (g.due i (by rw [e]; exact hi)).trans (h.due i hi)⟩

/-- Nothing that an action keeps has changed. -/
theorem State.Notices.of_same {s t : State} (hc : t.chips = s.chips) (hr : t.nd.running = s.nd.running)
    (hb : t.nd.boardOk = s.nd.boardOk) (hq : t.nd.queue = s.nd.queue) (hp : t.nd.pos = s.nd.pos) : s.Notices t := by
  have h : ∀ k, t.nd.position k = s.nd.position k := fun k => by unfold Ndevas.position; rw [hp]
  exact ⟨⟨hr, hb, hq ▸ List.prefix_rfl, fun k => by rw [h], fun k => by rw [h]⟩, hc, fun i _ => by rw [h]⟩

theorem State.Notices.refl (s : State) : s.Notices s := .of_same rfl rfl rfl rfl rfl

theorem State.Notices.foldl {α : Type} {g : State → α → State} (hg : ∀ (t : State) (a : α), t.Notices (g t a)) (l : List α)
    (s : State) : s.Notices (l.foldl g s) := by
  induction l generalizing s with
  | nil => exact .refl s
  | cons a r ih => exact (hg s a).trans (ih _)

theorem State.LogsTo.notices {s t : State} (h : s.LogsTo t) : s.Notices t :=
  ⟨⟨(congrArg Ndevas.running h.nd :), (congrArg Ndevas.boardOk h.nd :), h.2, fun k => by rw [h.position], fun k => by rw [h.position]⟩,
    h.chips, fun i _ => by rw [h.position]⟩

theorem Ndevas.OutsOnly.notices {s : State} {m : Ndevas} (h : s.nd.OutsOnly m) : s.Notices { s with nd := m } :=
  .of_same rfl (congrArg Ndevas.running h :) (congrArg Ndevas.boardOk h :) (congrArg Ndevas.queue h :) (congrArg Ndevas.pos h :)

/-- A change of one chip position that keeps what its identity memory gave. -/
theorem State.Acts.of_setPosition {s t : State} {i : Nat} {p : Position} (hn : t.nd = s.nd.setPosition i p)
    (hr : p.idRow = (s.nd.position i).idRow) (hs : p.stepping = (s.nd.position i).stepping) : s.Acts t := by
  refine ⟨by rw [hn]; rfl, by rw [hn]; rfl, by rw [hn]; exact List.prefix_rfl, fun k => ?_, fun k => ?_⟩ <;>
  · rw [hn]
    by_cases h : k = i
    · subst h; simpa
    · rw [Ndevas.position_setPosition_other _ _ h]

theorem State.startIso_notices (s : State) (i : Fin 8) (cause : IsoCause) (grace : Nat) : s.Notices (s.startIso i cause grace) := by
  unfold State.startIso
  split
  · exact .refl s
  · next hup =>
    refine ⟨.of_setPosition rfl rfl rfl, rfl, fun j hj => ?_⟩
    have hji : j.val ≠ i.val := fun e => hup (by rw [← Fin.ext e]; exact hj)
    exact congrArg Position.due (Ndevas.position_setPosition_other _ _ hji)

theorem State.isolateAll_notices (s : State) (grace : Nat) : s.Notices (s.isolateAll grace) :=
  .foldl (fun t i => t.startIso_notices i .hazard grace) _ _

theorem State.hazards_notices (s : State) (hs : List Hazard) : s.Notices { s with nd := { s.nd with hazards := hs } } :=
  .of_same rfl rfl rfl rfl rfl

theorem State.send_notices (s : State) (o : List Out) : s.Notices { s with out := o } := .of_same rfl rfl rfl rfl rfl

theorem evalHazard_notices (s0 s : State) (e : Nat × Nat) : s.Notices (evalHazard s0 s e) := by
  unfold evalHazard
  dsimp only
  split
  · split
    · exact (s.hazards_notices _).trans (State.isolateAll_notices ..)
    · exact s.hazards_notices _
  · split
    · exact .refl s
    · have raised := fun o => ((s.hazards_notices (s.nd.hazards ++ [⟨e.1, e.2, hazardGuard s.nd e.1 e.2, true, 0⟩])).trans
        (State.log_logsTo s0 _ .none 0x1101 e.1 (hazardGuard s.nd e.1 e.2) (!hazardGuard s.nd e.1 e.2) e.2).notices).trans
        (State.send_notices _ o)
      split
      · exact (raised _).trans (State.isolateAll_notices ..)
      · exact raised _

theorem evalHazards_notices (s0 s : State) (l : List (Nat × Nat)) : s.Notices (evalHazards s0 s l) :=
  (State.Notices.foldl (fun t e => evalHazard_notices s0 t e) l s).trans (Ndevas.OutsOnly.notices (Ndevas.refresh_outsOnly ..))

theorem State.isolated_acts (s0 s : State) (i : Fin 8) (cause : Nat) (ready : Bool) : s.Acts (s0.isolated s i cause ready) := by
  have h1 : s.Acts (s.chipOff i) := .of_setPosition rfl rfl rfl
  have h2 : (s.chipOff i).Acts (s.openFuse i) := .of_setPosition rfl rfl rfl
  have h3 : (s.openFuse i).Acts (onNd (fun n => n.setPosition i { n.position i with cause := cause }) (s.openFuse i)) :=
    .of_setPosition rfl rfl rfl
  exact ((h1.trans h2).trans h3).trans (State.log_logsTo ..).notices.toActs

theorem State.isolateNow_acts (s : State) (i : Fin 8) (cause : IsoCause) : s.Acts (s.isolateNow i cause) := by
  have h := (s.startIso_notices i cause 0).toActs
  unfold State.isolateNow
  dsimp only
  split
  · exact h.trans (State.isolated_acts ..)
  · exact h

end Sys2Proof.Machine
end

section
/-! The Ndevas firmware starts: it logs its start, reads the identity memories, and resumes the actions that latches call for
(02 R44, R45, R49; 14 R366, R368, R374). -/
namespace Sys2Proof.Machine

/-! ## Actions resume -/

/-- The hazards of the leak latches that flash holds are evaluated. -/
def State.resumeHazards (s : State) : State := (List.range 8).foldl (fun t k => evalHazards t t (leakHazards k)) s

/-- After a restart chip `i` is isolated at once where its isolation had begun, or where LEAK_TRAY calls for it. -/
def State.resumeIso (tray : Bool) (t : State) (i : Fin 8) : State :=
  if t.railsUp i then
    match (t.nd.position i).iso with
    | some (cause, _) => t.isolateNow i cause
    | none => if tray then t.isolateNow i .hazard else t
  else t

/-- CLOSE and PUMP stay in force where LEAK_TRAY is raised. -/
def Ndevas.resumeClose (n : Ndevas) : Ndevas := n.refresh { n with closePump := n.closePump && n.hazards.any fun h => h.code == 7 }

theorem resumeActions_eq (s : State) :
    resumeActions s = onNd Ndevas.resumeClose
      (if s.nd.startCause = 1 then s.resumeHazards
      else (List.finRange 8).foldl (State.resumeIso (s.resumeHazards.nd.hazards.any fun h => h.code == 7 && h.guard)) s.resumeHazards) :=
  rfl

theorem resumeHazards_notices (s : State) : s.Notices s.resumeHazards := .foldl (fun t _ => evalHazards_notices t t _) _ _

theorem resumeIso_acts (tray : Bool) (t : State) (i : Fin 8) : t.Acts (State.resumeIso tray t i) := by
  unfold State.resumeIso
  split
  · split
    · exact t.isolateNow_acts ..
    · split
      · exact t.isolateNow_acts ..
      · exact .refl t
  · exact .refl t

theorem resumeClose_notices (s : State) : s.Notices (onNd Ndevas.resumeClose s) :=
  .trans (t := { s with nd := { s.nd with closePump := s.nd.closePump && s.nd.hazards.any fun h => h.code == 7 } })
    (.of_same rfl rfl rfl rfl rfl) (Ndevas.refresh_outsOnly s.nd _).notices

/-- Over a start by standby power only hazards are raised and notices given. -/
theorem resumeActions_notices {s : State} (h : s.nd.startCause = 1) : s.Notices (resumeActions s) := by
  rw [resumeActions_eq, if_pos h]
  exact (resumeHazards_notices s).trans (resumeClose_notices _)

theorem resumeActions_acts (s : State) : s.Acts (resumeActions s) := by
  rw [resumeActions_eq]
  refine State.Acts.trans ?_ (resumeClose_notices _).toActs
  split
  · exact (resumeHazards_notices s).toActs
  · exact (resumeHazards_notices s).toActs.trans (.foldl (resumeIso_acts _) _ _)

/-! ## The identity memories -/

/-- What the reads make of chip position `i` at a start of cause `start`. -/
def idPlace (ids : IdReads) (start i : Nat) (p : Position) : Position :=
  let r := ids.chips.getD i noRead
  { p with
    idRow := if !idPasses r then 2 else if r.compatible then 0 else 3, cableOk := idPasses (ids.cables.getD i noRead)
    stepping := if idPasses r then some r.stepping else none
    due := if start = 1 then idPasses r && r.compatible else p.due }

/-- The Ndevas once it has read the identity memories. -/
def Ndevas.identified (ids : IdReads) (n : Ndevas) : Ndevas :=
  let n := if idPasses ids.board then n.readBoard ids.board else { n with boardOk := false }
  { n with
    variantU := ids.variantU, modules := if ids.variantU then ids.modules.map ModuleRead.manage else [], fru := fruOf ids n.fru
    pos := (List.range 8).foldl (fun t i => tupd .initial t i (idPlace ids n.startCause i)) n.pos }

/-- The failures of chip `i` as they are logged; `s0` is the state before the start. -/
def logChipId (ids : IdReads) (s0 t : State) (i : Nat) : State :=
  let r := ids.chips.getD i noRead
  idFail s0 (idPasses r && !r.compatible) (0x10 + i) 3 (idFail s0 (!idPasses r) (0x10 + i) 2 t)

/-- The failures of the cables and of the modules as they are logged. -/
def logRestIds (ids : IdReads) (s0 t : State) : State :=
  (List.range (if ids.variantU then ids.modules.length else 0)).foldl
    (fun t m => idFail s0 (!((ids.modules.map fun r => idReads r.attempts).getD m true)) (0x30 + m) 5 t)
    ((List.range 8).foldl (fun t i => idFail s0 (!idPasses (ids.cables.getD i noRead)) (0x20 + i) 4 t) t)

theorem readIds_eq (ids : IdReads) (s : State) :
    readIds ids s = logRestIds ids s
      ((List.range 8).foldl (logChipId ids s) (idFail s (!idPasses ids.board) 0 1 (onNd (Ndevas.identified ids) s))) := by
  rfl

/-! ### What the log gets -/

theorem idFail_logsTo (s0 t : State) (bad : Bool) (memory row : Nat) : t.LogsTo (idFail s0 bad memory row t) := by
  unfold idFail
  split
  · exact State.log_logsTo ..
  · exact .refl t

theorem State.Room.idFail {t : State} {n : Nat} (h : t.Room (n + 1)) (s0 : State) (bad : Bool) (memory row : Nat) :
    (idFail s0 bad memory row t).Room n := by
  unfold Machine.idFail
  split
  · exact h.log ..
  · exact h.mono (Nat.le_succ n)

theorem idFail_logged {t : State} {n : Nat} (h : t.Room (n + 1)) (s0 : State) {bad : Bool} (hb : bad = true) (memory row : Nat) :
    Logged t (idFail s0 bad memory row t) 0x1107 memory row := by
  unfold idFail
  rw [if_pos hb]
  exact State.log_logged h ..

theorem logChipId_logsTo (ids : IdReads) (s0 t : State) (i : Nat) : t.LogsTo (logChipId ids s0 t i) :=
  (idFail_logsTo ..).trans (idFail_logsTo ..)

theorem State.Room.logChipId {t : State} {n : Nat} (h : t.Room (n + 2)) (ids : IdReads) (s0 : State) (i : Nat) :
    (logChipId ids s0 t i).Room n :=
  (State.Room.idFail (n := n + 1) h ..).idFail ..

theorem logRestIds_logsTo (ids : IdReads) (s0 t : State) : t.LogsTo (logRestIds ids s0 t) :=
  (State.LogsTo.foldl (fun _ _ => idFail_logsTo ..) _ _).trans (.foldl (fun _ _ => idFail_logsTo ..) _ _)

/-- A chip whose memory fails is logged under row 2, one that is not on the compatibility list under row 3 (02 R49). -/
theorem logChipId_logged {t : State} (h : t.Room 2) (ids : IdReads) (s0 : State) (i : Nat) :
    (idPasses (ids.chips.getD i noRead) = false → Logged t (logChipId ids s0 t i) 0x1107 (0x10 + i) 2) ∧
    (idPasses (ids.chips.getD i noRead) = true → (ids.chips.getD i noRead).compatible = false →
      Logged t (logChipId ids s0 t i) 0x1107 (0x10 + i) 3) := by
  refine ⟨fun hp => ?_, fun hp hc => ?_⟩
  · have hl := idFail_logged h s0 (bad := !idPasses (ids.chips.getD i noRead)) (by rw [hp]; rfl) (0x10 + i) 2
    exact logged_later hl (idFail_logsTo ..).2
  · have hroom := State.Room.idFail h s0 (!idPasses (ids.chips.getD i noRead)) (0x10 + i) 2
    have hl := idFail_logged hroom s0
      (bad := idPasses (ids.chips.getD i noRead) && !(ids.chips.getD i noRead).compatible) (by rw [hp, hc]; rfl) (0x10 + i) 3
    exact logged_earlier hl (idFail_logsTo ..).2

/-! ### The Ndevas with the memories read -/

/-- Reading the memories changes nothing of the log, the cause of the start or the firmware. -/
theorem Ndevas.identified_keeps (ids : IdReads) (n : Ndevas) :
    (n.identified ids).running = n.running ∧ (n.identified ids).standby = n.standby ∧ (n.identified ids).queue = n.queue ∧
      (n.identified ids).coalesced = n.coalesced ∧ (n.identified ids).startCause = n.startCause := by
  unfold Ndevas.identified
  dsimp only
  split <;> exact ⟨rfl, rfl, rfl, rfl, rfl⟩

theorem Ndevas.identified_boardOk (ids : IdReads) (n : Ndevas) : (n.identified ids).boardOk = idPasses ids.board := by
  unfold Ndevas.identified
  dsimp only
  split
  · next h => exact h.symm
  · next h => exact (Bool.eq_false_iff.2 h).symm

theorem Ndevas.identified_position (ids : IdReads) (n : Ndevas) (i : Fin 8) :
    (n.identified ids).position i = idPlace ids n.startCause i (n.position i) := by
  have h : (n.identified ids).pos = (List.range 8).foldl (fun t i => tupd .initial t i (idPlace ids n.startCause i)) n.pos := by
    unfold Ndevas.identified
    dsimp only
    split <;> rfl
  unfold Ndevas.position
  rw [h]
  exact tget_foldl_tupd Position.initial (fun i => idPlace ids n.startCause i) _ List.nodup_range _ _ (List.mem_range.2 i.isLt)

/-- Reading the identity memories is the change of the Ndevas, and then entries in the log. -/
theorem readIds_logsTo (ids : IdReads) (s : State) : (onNd (Ndevas.identified ids) s).LogsTo (readIds ids s) := by
  rw [readIds_eq]
  exact ((idFail_logsTo ..).trans (.foldl (logChipId_logsTo ids s) _ _)).trans (logRestIds_logsTo ..)

/-- With room for 17 records the failures of the board and of every chip are logged. -/
theorem readIds_logged {s : State} (h : s.Room 17) (ids : IdReads) :
    (idPasses ids.board = false → Logged s (readIds ids s) 0x1107 0 1) ∧
    ∀ i : Fin 8,
      (idPasses (ids.chips.getD i noRead) = false → Logged s (readIds ids s) 0x1107 (0x10 + i) 2) ∧
      (idPasses (ids.chips.getD i noRead) = true → (ids.chips.getD i noRead).compatible = false →
        Logged s (readIds ids s) 0x1107 (0x10 + i) 3) := by
  obtain ⟨-, hstandby, hqueue, hcoalesced, -⟩ := s.nd.identified_keeps ids
  have h1 : (onNd (Ndevas.identified ids) s).Room 17 := h.congr hstandby hcoalesced hqueue
  have hq1 : s.nd.queue <+: (onNd (Ndevas.identified ids) s).nd.queue :=
    ⟨[], (List.append_nil _).trans hqueue.symm⟩
  have h2 := h1.idFail s (!idPasses ids.board) 0 1
  have hq2 := hq1.trans (idFail_logsTo s _ (!idPasses ids.board) 0 1).2
  have chips : ∀ {i : Fin 8} {p : LogRec → Prop}, (∀ t : State, t.Room 2 → t.Adds (logChipId ids s t i) p) →
      s.Adds (readIds ids s) p := fun {i p} hp => by
    rw [readIds_eq]
    exact (State.Adds.earlier (State.Adds.foldl (logChipId_logsTo ids s) (fun _ _ _ ht => ht.logChipId ids s _) hp _
      (List.mem_range.2 i.isLt) _ h2) hq2).later (logRestIds_logsTo ..).2
  refine ⟨fun hb => ?_, fun i => ⟨fun hp => ?_, fun hp hc => ?_⟩⟩
  · rw [readIds_eq]
    exact logged_later (logged_earlier (idFail_logged h1 s (by rw [hb]; rfl) 0 1) hq1)
      ((State.LogsTo.foldl (logChipId_logsTo ids s) _ _).trans (logRestIds_logsTo ..)).2
  · exact chips fun t ht => (logChipId_logged ht ids s i).1 hp
  · exact chips fun t ht => (logChipId_logged ht ids s i).2 hp hc

end Sys2Proof.Machine
end

section
/-! The coolant check, and the rails of a chip come up or fail (02 R45, R46, R52, R59; 12 R319). -/
namespace Sys2Proof.Machine

/-! ## The coolant check -/

/-- A scan with its outcome counted, before the failures that it passes are logged. -/
def State.scanned (s : State) : State :=
  { s with nd := { s.nd with idsRead := true, scansOk := if coolantOk s.nd then s.nd.scansOk + 1 else 0 } }

/-- The Watch channels whose failure the check passes. -/
def passedChannels (n : Ndevas) : List Nat := (List.range 16).filter fun k => supplyFails n k && (n.loopCfg k).watch

theorem coolantScan_running {s : State} (h : s.nd.running = true) :
    coolantScan s = (passedChannels s.nd).foldl (fun t k => s.logOpen t (.loop k) k true) s.scanned :=
  if_neg (by simp [h])

theorem coolantScan_logsTo {s : State} (h : s.nd.running = true) : s.scanned.LogsTo (coolantScan s) := by
  rw [coolantScan_running h]
  exact .foldl (fun _ _ => State.logOpen_logsTo ..) _ _

/-- Each failure on a Watch channel is logged where the queue has room for all of them. -/
theorem coolantScan_logged {s : State} (h : s.nd.running = true) (hroom : s.Room 16) {k : Nat} (hk : k < 16)
    (hf : supplyFails s.nd k = true) (hw : (s.nd.loopCfg k).watch = true) : s.Adds (coolantScan s) fun r => r.source = k := by
  have hmem : k ∈ passedChannels s.nd := by simp [passedChannels, hk, hf, hw]
  have hlen : (passedChannels s.nd).length ≤ 16 := Nat.le_trans (List.length_filter_le _ _) (Nat.le_of_eq List.length_range)
  have hadds : ∀ t : State, t.Room 1 → t.Adds (s.logOpen t (.loop k) k true) fun r => r.source = k := fun t ht => by
    obtain ⟨r, hr, hs⟩ := State.logOpen_append (n := 0) ht s (.loop k) k true
    exact .of_append hr hs
  have h' := State.Adds.foldl (g := fun t k => s.logOpen t (.loop k) k true) (w := 1) (fun _ _ => State.logOpen_logsTo ..) (fun _ _ _ ht => ht.logOpen ..) hadds
    (passedChannels s.nd) hmem s.scanned (State.Room.mono (s := s) hroom (by omega))
  rw [coolantScan_running h]
  exact h'

/-! ## The rail sequence starts -/

theorem railSequence_due {s : State} {c : Fin 8} (hn : s.nd.running = true) (hb : s.nd.boardOk = true)
    (hr : (s.nd.position c).idRow = 0) (hd : (s.nd.position c).due = true) (hs : 2 ≤ s.nd.scansOk) (hl : leakActive s.nd = false)
    (hdown : (chipAt s c).boot.rails = .down) :
    railSequence c s = startRails c false ((List.range 8).countP fun i => (s.nd.position i).due || s.railsUp i) s :=
  if_pos (by simp [hn, hb, hr, hd, hs, hl, show (s.chips.get c).boot.rails = .down from hdown])

theorem railSequence_not {s : State} {c : Fin 8}
    (h : s.nd.running = false ∨ s.nd.boardOk = false ∨ (s.nd.position c).idRow ≠ 0 ∨ (s.nd.position c).due = false ∨ s.nd.scansOk < 2 ∨
      leakActive s.nd = true ∨ (chipAt s c).boot.rails ≠ .down) : railSequence c s = s := by
  refine if_neg fun g => ?_
  simp only [Bool.and_eq_true, beq_iff_eq, decide_eq_true_eq, Bool.not_eq_true'] at g
  obtain ⟨⟨⟨⟨⟨⟨hn, hb⟩, hr⟩, hd⟩, hs⟩, hl⟩, hdown⟩ := g
  rcases h with h | h | h | h | h | h | h
  · exact absurd hn (by simp [h])
  · exact absurd hb (by simp [h])
  · exact h hr
  · exact absurd hd (by simp [h])
  · omega
  · exact absurd hl (by simp [h])
  · exact h hdown

/-- Starting the rails of a chip changes that chip and its position. -/
theorem startRails_others (c : Fin 8) (byCommand : Bool) (chips : Nat) (s : State) : OthersStay s (startRails c byCommand chips s) c :=
  fun _ hd => ⟨chips_set_other _ _ _ _ hd, Ndevas.position_setPosition_other _ _ fun e => hd (Fin.ext e)⟩

theorem startRails_position (c : Fin 8) (byCommand : Bool) (chips : Nat) (s : State) :
    (startRails c byCommand chips s).nd.position c =
      { s.nd.position c with
        fuse := true, due := false, byCommand := byCommand, cause := 0, iso := none, a := firstAllotment s.nd chips, g := 0
        p := firstAllotment s.nd chips } := Ndevas.position_setPosition_same ..

theorem startRails_chip (c : Fin 8) (byCommand : Bool) (chips : Nat) (s : State) :
    chipAt (startRails c byCommand chips s) c =
      { (chipAt s c).offWith with
        boot := { (chipAt s c).offWith.boot with rails := .sequencing, railsOn := 1 }
        power := { Power.initial with a := firstAllotment s.nd chips, p := firstAllotment s.nd chips } } := chips_set_same ..

/-! ## Power good -/

/-- The tray as power good leaves it, before the outcome of a power command is logged. -/
def State.poweredUp (s : State) (c : Fin 8) : State :=
  { s with
    chips := s.chips.set c
      { s.chips.get c with boot :=
          { Boot.initial with
            rails := .up, railsOn := 4, pstate := .booting, perst := (s.chips.get c).boot.perst
            perstEarly := !(s.chips.get c).boot.perst, pgTime := s.now } }
    out := s.out ++ ((List.range 4).drop (s.chips.get c).boot.railsOn).map fun r => .rail c r true
    nd := s.nd.setPosition c { s.nd.position c with pwrgd := true, byCommand := false, image := none } }

theorem powerGood_sequencing {s : State} {c : Fin 8} (h : (chipAt s c).boot.rails = .sequencing) :
    powerGood c s = if (s.nd.position c).byCommand then s.log (s.poweredUp c) .none 0x1105 c false false 0 else s.poweredUp c := by
  have h' : (s.chips.get c).boot.rails = .sequencing := h
  simp only [powerGood, h']
  rfl

theorem powerGood_logsTo {s : State} {c : Fin 8} (h : (chipAt s c).boot.rails = .sequencing) : (s.poweredUp c).LogsTo (powerGood c s) := by
  rw [powerGood_sequencing h]
  split
  · exact State.log_logsTo ..
  · exact .refl _

theorem poweredUp_others (s : State) (c : Fin 8) : OthersStay s (s.poweredUp c) c :=
  fun _ hd => ⟨chips_set_other _ _ _ _ hd, Ndevas.position_setPosition_other _ _ fun e => hd (Fin.ext e)⟩

/-- What is logged leaves the chips and the positions as they are. -/
theorem State.LogsTo.others {s t u : State} {c : Fin 8} (h : t.LogsTo u) (ho : OthersStay s t c) : OthersStay s u c := fun d hd =>
  ⟨(congrArg (fun v => v.get d) h.chips).trans (ho d hd).1, (h.position d).trans (ho d hd).2⟩

theorem State.LogsTo.chipAt {t u : State} (h : t.LogsTo u) (c : Fin 8) : Sys2Proof.chipAt u c = Sys2Proof.chipAt t c :=
  congrArg (fun v => v.get c) h.chips

/-! ## A rail misses its limit -/

/-- The tray as a rail fault leaves it, before anything is logged. -/
def State.railsFailed (s : State) (c : Fin 8) (rail : Nat) : State :=
  State.chipOff
    { s with
      chips := s.chips.set c { s.chips.get c with boot :=
        { (s.chips.get c).boot with railsOn := max (s.chips.get c).boot.railsOn (rail + 1) } }
      out := s.out ++
        ((List.range (max (s.chips.get c).boot.railsOn (rail + 1))).drop (s.chips.get c).boot.railsOn).map fun r => .rail c r true } c

theorem railFault_up {s : State} {c : Fin 8} (h : (chipAt s c).boot.rails ≠ .down) (rail : Nat) :
    railFault c rail s =
      if (s.nd.position c).byCommand then
        s.log (s.log (s.railsFailed c rail) .none 0x1106 c false false rail) .none 0x1105 c false false 2
      else s.log (s.railsFailed c rail) .none 0x1106 c false false rail := if_neg h

theorem railFault_logsTo {s : State} {c : Fin 8} (h : (chipAt s c).boot.rails ≠ .down) (rail : Nat) :
    (s.log (s.railsFailed c rail) .none 0x1106 c false false rail).LogsTo (railFault c rail s) := by
  rw [railFault_up h]
  split
  · exact State.log_logsTo ..
  · exact .refl _

theorem railsFailed_others (s : State) (c : Fin 8) (rail : Nat) : OthersStay s (s.railsFailed c rail) c := fun _ hd =>
  ⟨(chips_set_other _ _ _ _ hd).trans (chips_set_other _ _ _ _ hd), Ndevas.position_setPosition_other _ _ fun e => hd (Fin.ext e)⟩

/-- The chip is Off, all contents lost but the host's PERST# (02 R46, R59). -/
theorem railsFailed_chip (s : State) (c : Fin 8) (rail : Nat) : chipAt (s.railsFailed c rail) c = (chipAt s c).offWith := by
  simp [State.railsFailed, State.chipOff, chipAt, chips_set_same, Chip.offWith]

theorem railsFailed_pwrgd (s : State) (c : Fin 8) (rail : Nat) : ((s.railsFailed c rail).nd.position c).pwrgd = false :=
  congrArg Position.pwrgd (Ndevas.position_setPosition_same ..)

/-- The rails of a chip that had all of them go down in the reverse of their order (02 R46). -/
theorem railsFailed_out (s : State) (c : Fin 8) (rail : Fin 4) (h : (chipAt s c).boot.railsOn = 4) :
    (s.railsFailed c rail).out = s.out ++ [.rail c 3 false, .rail c 2 false, .rail c 1 false, .rail c 0 false] := by
  have h4 : (s.chips.get c).boot.railsOn = 4 := h
  have hmax : max 4 (rail.val + 1) = 4 := Nat.max_eq_left rail.isLt
  simp [State.railsFailed, State.chipOff, Chip.railsDown, chips_set_same, h4, hmax, List.range_succ]

theorem railFault_logged {s : State} {c : Fin 8} (h : (chipAt s c).boot.rails ≠ .down) (hroom : s.Room 2) (rail : Nat) :
    Logged s (railFault c rail s) 0x1106 c rail ∧
      ((s.nd.position c).byCommand = true → Logged s (railFault c rail s) 0x1105 c 2) := by
  have hroom' : (s.railsFailed c rail).Room 2 := hroom
  refine ⟨logged_later (State.log_logged hroom' ..) (railFault_logsTo h rail).2, fun hc => ?_⟩
  rw [railFault_up h, if_pos hc]
  exact logged_earlier (State.log_logged (hroom'.log ..) ..) (State.log_logsTo s (s.railsFailed c rail) ..).2

end Sys2Proof.Machine
end

section
/-! The Ndevas starts with standby power, and its firmware runs (02 R44, R45, R49). -/
namespace Sys2Proof.Machine

/-! ## Standby power -/

/-- The Ndevas at t = 0 of the timeline, before its channels are set up. -/
def Ndevas.powered (n : Ndevas) (now : Nat) : Ndevas := { n with standby := true, running := false, startedAt := now, startCause := 1 }

theorem standbyUp_off {s : State} (h : s.nd.standby = false) :
    standbyUp s = { s with nd := (s.nd.powered s.now).startLoops.startLeaks } :=
  if_neg (by simp [h])

theorem Ndevas.start_loop (n : Ndevas) {k : Nat} (hk : k < 16) : n.startLoops.startLeaks.loop k = (n.setLoopCfg k).startLoop := by
  rw [← n.startLoops_loop hk]
  unfold Ndevas.loop
  rw [Ndevas.startLeaks_loops]

theorem Ndevas.start_leak (n : Ndevas) {k : Nat} (hk : k < 8) :
    (n.startLoops.startLeaks.leak k).latch = (n.leak k).latch ∧
      (n.startLoops.startLeaks.leak k).state = if (n.leak k).latch = true then .leak else .indeterminate := by
  have h := n.startLoops.startLeaks_spec hk
  unfold Ndevas.leak at h ⊢
  rw [n.startLoops_leaks] at h
  exact h

/-- The start keeps the sets and the log in flash. -/
theorem Ndevas.powered_start (n : Ndevas) (now : Nat) :
    let m := (n.powered now).startLoops.startLeaks
    m.standby = true ∧ m.running = false ∧ m.startedAt = now ∧ m.startCause = 1 ∧ m.active = n.active ∧ m.flash = n.flash := by
  dsimp only
  rw [Ndevas.start_eq]
  exact ⟨rfl, rfl, rfl, rfl, rfl, rfl⟩

/-! ## The firmware runs -/

/-- The tray with the start of its Ndevas firmware logged. -/
def State.startLogged (s : State) : State :=
  s.log (onNd (fun n => { n with running := true }) s) .none 0x110A 0xFF false false s.nd.startCause

theorem firmwareRuns_stopped {s : State} (h : s.nd.running = false) (hs : s.nd.standby = true) (ids : IdReads) :
    firmwareRuns ids s = resumeActions (readIds ids s.startLogged) :=
  if_neg (by simp [h, hs])

theorem State.startLogged_logsTo (s : State) : (onNd (fun n => { n with running := true }) s).LogsTo s.startLogged := State.log_logsTo ..

/-- The records that the start and the reads of the identity memories make are in the queue once the firmware runs. -/
theorem firmwareRuns_logged {s : State} (h : s.nd.running = false) (hroom : s.Room 32) (ids : IdReads) :
    Logged s (firmwareRuns ids s) 0x110A 0xFF s.nd.startCause ∧
    (idPasses ids.board = false → Logged s (firmwareRuns ids s) 0x1107 0 1) ∧
    ∀ i : Fin 8,
      (idPasses (ids.chips.getD i noRead) = false → Logged s (firmwareRuns ids s) 0x1107 (0x10 + i) 2) ∧
      (idPasses (ids.chips.getD i noRead) = true → (ids.chips.getD i noRead).compatible = false →
        Logged s (firmwareRuns ids s) 0x1107 (0x10 + i) 3) := by
  rw [firmwareRuns_stopped h hroom.1]
  have hroom1 : (onNd (fun n => { n with running := true }) s).Room (31 + 1) := hroom
  have hstart : Logged s s.startLogged 0x110A 0xFF s.nd.startCause := State.log_logged hroom1 ..
  have hroom2 : s.startLogged.Room 31 := hroom1.log ..
  have hqueue : s.nd.queue <+: s.startLogged.nd.queue := s.startLogged_logsTo.2
  have hread : s.startLogged.nd.queue <+: (readIds ids s.startLogged).nd.queue :=
    (s.startLogged.nd.identified_keeps ids).2.2.1 ▸ (readIds_logsTo ids s.startLogged).2
  have hlast := (resumeActions_acts (readIds ids s.startLogged)).queue
  obtain ⟨hboard, hchips⟩ := readIds_logged (hroom2.mono (by omega)) ids
  exact ⟨logged_later hstart (hread.trans hlast), fun hb => logged_later (logged_earlier (hboard hb) hqueue) hlast,
    fun i => ⟨fun hp => logged_later (logged_earlier ((hchips i).1 hp) hqueue) hlast,
      fun hp hc => logged_later (logged_earlier ((hchips i).2 hp hc) hqueue) hlast⟩⟩

/-- What the identity memories gave is what the running firmware holds; by standby power alone no chip changes, and a chip that is
Off is due as its memory says. -/
theorem firmwareRuns_reads {s : State} (h : s.nd.running = false) (hs : s.nd.standby = true) (ids : IdReads) :
    let t := firmwareRuns ids s
    t.nd.running = true ∧ t.nd.boardOk = idPasses ids.board ∧ (s.nd.startCause = 1 → t.chips = s.chips) ∧
    ∀ i : Fin 8, (t.nd.position i).idRow = (idPlace ids s.nd.startCause i (s.nd.position i)).idRow ∧
      (t.nd.position i).stepping = (idPlace ids s.nd.startCause i (s.nd.position i)).stepping ∧
      (s.nd.startCause = 1 → (chipAt s i).boot.rails = .down →
        (t.nd.position i).due = (idPlace ids s.nd.startCause i (s.nd.position i)).due) := by
  have hstart := s.startLogged_logsTo
  have hread := readIds_logsTo ids s.startLogged
  have hacts := resumeActions_acts (readIds ids s.startLogged)
  have hcause : s.startLogged.nd.startCause = s.nd.startCause := (congrArg Ndevas.startCause hstart.nd :)
  obtain ⟨hrun, -, -, -, hcause'⟩ := s.startLogged.nd.identified_keeps ids
  have hchips : (readIds ids s.startLogged).chips = s.chips := hread.chips.trans hstart.chips
  have hposition : ∀ i : Fin 8, (readIds ids s.startLogged).nd.position i = idPlace ids s.nd.startCause i (s.nd.position i) := fun i => by
    have hp : s.startLogged.nd.position i = s.nd.position i := hstart.position i
    rw [hread.position i, ← hcause, ← hp]
    exact Ndevas.identified_position ids _ i
  have hresume : s.nd.startCause = 1 → (readIds ids s.startLogged).Notices (resumeActions (readIds ids s.startLogged)) := fun h1 =>
    resumeActions_notices <| calc
      (readIds ids s.startLogged).nd.startCause = (s.startLogged.nd.identified ids).startCause :=
        (congrArg Ndevas.startCause hread.nd :)
      _ = 1 := hcause'.trans (hcause.trans h1)
  rw [firmwareRuns_stopped h hs]
  refine ⟨?_, ?_, fun h1 => (hresume h1).chips.trans hchips, fun i => ⟨?_, ?_, fun h1 hd => ?_⟩⟩
  · calc (resumeActions (readIds ids s.startLogged)).nd.running = (s.startLogged.nd.identified ids).running :=
        hacts.running.trans (congrArg Ndevas.running hread.nd :)
      _ = true := hrun.trans (congrArg Ndevas.running hstart.nd :)
  · exact (hacts.boardOk.trans (congrArg Ndevas.boardOk hread.nd :)).trans (Ndevas.identified_boardOk ids _)
  · rw [hacts.idRow, hposition]
  · rw [hacts.stepping, hposition]
  · have hdown : (chipAt (readIds ids s.startLogged) i).boot.rails = .down := by
      rw [show chipAt (readIds ids s.startLogged) i = chipAt s i from congrArg (fun v => v.get i) hchips]
      exact hd
    rw [(hresume h1).due i hdown, hposition]

end Sys2Proof.Machine

namespace Sys2Proof
open Machine

/-- Settles O58: the start of the Ndevas, the reads of the identity memories, the coolant check, and the rails, each by the lemmas
that say what it changes. -/
theorem trayPowerUp : Obligations.TrayPowerUp := by
  unfold Obligations.TrayPowerUp
  refine ⟨fun s => ⟨fun hs => ⟨_, rfl, if_pos hs⟩, fun hs => ⟨_, rfl, ?_⟩⟩, fun s ids hn hroom => ⟨_, rfl, ?_⟩, fun s hn => ⟨_, rfl, ?_⟩,
    fun s c => ⟨fun hn hb hr hd hs hl hdown => ⟨_, rfl, ?_⟩, fun h => ⟨_, rfl, railSequence_not h⟩⟩,
    fun s c rail => ⟨fun hq => ⟨_, rfl, ?_⟩, fun hq => ⟨_, rfl, if_pos hq⟩, fun hd => ⟨_, rfl, ?_⟩, fun hd => ⟨_, rfl, if_pos hd⟩⟩⟩
  · rw [standbyUp_off hs]
    obtain ⟨hst, hrun, hat, hcause, hact, hfl⟩ := s.nd.powered_start s.now
    refine ⟨hst, hrun, hat, hcause, rfl, hact, hfl, fun k hk => ?_, fun k hk => (s.nd.powered s.now).start_leak hk⟩
    have h := ((s.nd.powered s.now).setLoopCfg k).startLoop_spec
    rw [← Ndevas.start_loop _ hk] at h
    exact h
  · obtain ⟨hlog, hlogBoard, hlogChips⟩ := firmwareRuns_logged hn (.of_logRoom hroom) ids
    obtain ⟨hrun, hboard, hchips, hpos⟩ := firmwareRuns_reads hn hroom.1 ids
    refine ⟨hrun, hchips, hboard, hlog, hlogBoard, fun i => ?_⟩
    obtain ⟨hrow, hstep, hdue⟩ := hpos i
    refine ⟨fun hp => ⟨?_, (hlogChips i).1 hp⟩, fun hp hc => ⟨?_, (hlogChips i).2 hp hc⟩, fun hp hc => ⟨?_, ?_, fun h1 hd => ?_⟩⟩
    · rw [hrow, idPlace, hp]; rfl
    · rw [hrow, idPlace, hp, hc]; rfl
    · rw [hrow, idPlace, hp, hc]; rfl
    · rw [hstep, idPlace, hp]; rfl
    · rw [hdue h1 hd, idPlace, hp, hc, h1]; rfl
  · have h := coolantScan_logsTo hn
    exact ⟨(congrArg Ndevas.idsRead h.nd :), h.chips,
      fun hroom k hk hf hw => coolantScan_logged hn ((State.Room.of_logRoom hroom).mono (by omega)) hk hf hw,
      (congrArg Ndevas.scansOk h.nd :), (congrArg Ndevas.pos h.nd :), (congrArg Ndevas.hazards h.nd :)⟩
  · rw [railSequence_due hn hb hr hd hs hl hdown]
    have hp := startRails_position c false ((List.range 8).countP fun i => (s.nd.position i).due || s.railsUp i) s
    have hc := startRails_chip c false ((List.range 8).countP fun i => (s.nd.position i).due || s.railsUp i) s
    refine ⟨startRails_others _ _ _ _, ?_⟩
    rw [hp, hc]
    exact ⟨rfl, rfl, rfl, rfl, rfl, rfl, rfl, rfl, rfl⟩
  · have h := powerGood_logsTo hq
    have hp : (powerGood c s).nd.position c = { s.nd.position c with pwrgd := true, byCommand := false, image := none } :=
      (h.position c).trans (Ndevas.position_setPosition_same ..)
    have hc := (h.chipAt c).trans (chips_set_same ..)
    refine ⟨h.others (poweredUp_others s c), ?_⟩
    rw [hp, hc]
    refine ⟨rfl, rfl, rfl, rfl, rfl, rfl, rfl, rfl, rfl, fun hcmd hroom => ?_⟩
    rw [powerGood_sequencing hq, if_pos hcmd]
    have hroom' : (s.poweredUp c).Room (31 + 1) := State.Room.of_logRoom hroom
    exact State.log_logged hroom' ..
  · have h := (State.log_logsTo s (s.railsFailed c rail) .none 0x1106 c false false rail).trans (railFault_logsTo hd rail)
    refine ⟨h.others (railsFailed_others s c rail), ?_, (h.chipAt c).trans (railsFailed_chip s c rail), fun _ h4 => ?_,
      fun hroom => railFault_logged hd ((State.Room.of_logRoom hroom).mono (by omega)) rail⟩
    · rw [h.position]; exact railsFailed_pwrgd ..
    · rw [h.out]; exact railsFailed_out s c rail h4

end Sys2Proof
end

section
/-! Requests on the management port, PLDM, events to subscribers, and the programming of the log (02 R50; 15 R390 to R398). -/
namespace Sys2Proof.Machine

/-! ## Redfish -/

theorem onRedfish_serves {s : State} (hs : s.nd.standby = true) (hr : s.nd.running = true) (hv : s.served = true) {need role : Role}
    (hm : roleMay role need = true) (f : State → State) : onRedfish need role f s = f s := by
  simp [onRedfish, hs, hr, hv, hm]

theorem onRedfish_early {s : State} (hs : s.nd.standby = true) (hr : s.nd.running = true) (hv : s.served = false) (need role : Role)
    (f : State → State) : onRedfish need role f s = { s with out := s.out ++ [.redfish 503 (some 1) []] } := by
  simp [onRedfish, hs, hr, hv]

theorem onRedfish_closed {s : State} (hs : s.nd.standby = true) (hr : s.nd.running = false) (need role : Role) (f : State → State) :
    onRedfish need role f s = { s with out := s.out ++ [.refusedConnection] } := by
  simp [onRedfish, hs, hr]

theorem serve_get_some {s : State} {r : Resource} {b : List Nat} (h : resourceBody s r = some b) :
    serve (.get r) s = redfishAnswer 200 b { s with free := s.free + 2 } := by
  simp only [serve, h]

theorem serve_get_none {s : State} {r : Resource} (h : resourceBody s r = none) : serve (.get r) s = redfishAnswer 404 [] s := by
  simp only [serve, h]

/-- The service root is served as any resource once the firmware runs. -/
theorem redfishRequest_root {s : State} (hs : s.nd.standby = true) (hr : s.nd.running = true) :
    redfishRequest (.get .serviceRoot) s = redfishAnswer 200 [1, Config.enterpriseNumber] { s with free := s.free + 2 } := by
  simp only [redfishRequest, hs, hr]
  rfl

/-- Any other resource goes through the stages of the listener. -/
theorem redfishRequest_get {r : Resource} (h : r ≠ .serviceRoot) (s : State) :
    redfishRequest (.get r) s = onRedfish .readOnly .readOnly (serve (.get r)) s := by
  cases r with
  | serviceRoot => exact absurd rfl h
  | _ => rfl

/-- Once the port serves, a request is carried out; setting the clock takes an administrator. -/
theorem redfishRequest_served {s : State} (hs : s.nd.standby = true) (hr : s.nd.running = true) (hv : s.served = true)
    {req : RedfishReq} (h : ∀ ms role, req = .setClock ms role → role = .administrator) : redfishRequest req s = serve req s := by
  cases req with
  | get r =>
    by_cases hroot : r = .serviceRoot
    · subst hroot
      simp [redfishRequest, hs, hr]
    · rw [redfishRequest_get hroot, onRedfish_serves hs hr hv rfl]
  | setClock ms role =>
    cases h ms role rfl
    exact onRedfish_serves hs hr hv rfl _
  | subscribe id => exact onRedfish_serves hs hr hv rfl _
  | unsubscribe id => exact onRedfish_serves hs hr hv rfl _
  | unsupported => exact onRedfish_serves hs hr hv rfl _

/-- Before the firmware runs every request is refused at the connection. -/
theorem redfishRequest_closed {s : State} (hs : s.nd.standby = true) (hr : s.nd.running = false) (req : RedfishReq) :
    redfishRequest req s = { s with out := s.out ++ [.refusedConnection] } := by
  cases req with
  | get r =>
    by_cases h : r = .serviceRoot
    · subst h
      simp [redfishRequest, hs, hr]
    · rw [redfishRequest_get h, onRedfish_closed hs hr]
  | subscribe id => exact onRedfish_closed hs hr ..
  | unsubscribe id => exact onRedfish_closed hs hr ..
  | setClock ms role => exact onRedfish_closed hs hr ..
  | unsupported => exact onRedfish_closed hs hr ..

/-! ## PLDM -/

theorem pldm_notReady {s : State} {c : Fin 8} (hf : (chipAt s c).boot.fwRunning = false) (hi : s.isolatedChip c = false)
    (req : PldmReq) : pldm c req s = { s with free := s.free + 2, out := s.out ++ [.pldm c 4 []] } := by
  have hf' : (s.chips.get c).boot.fwRunning = false := hf
  simp [pldm, hf', hi]

theorem pldm_sensor {s : State} {c : Fin 8} (h : (chipAt s c).boot.fwRunning = true ∨ s.isolatedChip c = true) {n : Nat}
    {r : Resource} {b : List Nat} (hr : sensorOf n = some r) (hb : resourceBody s r = some b) :
    pldm c (.sensorReading n) s =
      { s with free := s.free + 2, out := s.out ++ [.pldm c 0 (b2n (s.isolatedChip c && n == 28 + c.val) :: b)] } := by
  have hready : (!(s.chips.get c).boot.fwRunning && !s.isolatedChip c) = false := by
    rcases h with h | h
    · rw [show (s.chips.get c).boot.fwRunning = true from h]; rfl
    · rw [h, Bool.not_true, Bool.and_false]
  simp [pldm, hready, hr, hb]

/-! ## The event log is programmed -/

theorem ndNext_running {s : State} (h : s.nd.running = true) (f : State → State) : ndNext f s = .next (f s) := by
  simp [ndNext, h]

theorem programRecord_head {s : State} {r : LogRec} {l : List LogRec} (h : s.nd.queue = r :: l) :
    programRecord s = { s with nd := { s.nd with
      queue := l, flash := pushRecord r s.nd.flash, toSend := s.nd.toSend ++ [r.seq] } } := by
  simp only [programRecord, h]

/-- The record that the coalesced events become (15 R393). -/
def coalescedRecord (n : Ndevas) (t0 t1 c : Nat) (codes : List Nat) : LogRec :=
  let b := fit 36 ((codes.take 18).flatMap (toLE 2))
  ⟨n.seq.toNat, t0, 0x1F01, 0xFF, b2n n.clock.isNone + 8 * b2n (decide (18 < codes.length)), c, t1 % 2 ^ 48, b.take 18,
    some (b.drop 18), false⟩

theorem programRecord_coalesced {s : State} {t0 t1 c : Nat} {codes : List Nat} (hq : s.nd.queue = [])
    (h : s.nd.coalesced = some (t0, t1, c, codes)) :
    programRecord s = { s with nd := { s.nd with
      coalesced := none, seq := s.nd.seq + 1, flash := pushRecord (coalescedRecord s.nd t0 t1 c codes) s.nd.flash
      toSend := s.nd.toSend ++ [s.nd.seq.toNat] } } := by
  simp only [programRecord, hq, h]
  rfl

/-- The flash ring takes a record at its end; where that fills the last sector, the oldest one is erased (15 R390). -/
theorem pushRecord_room (r : LogRec) {l : List LogRec} (h : l.length < 131071) : pushRecord r l = l ++ [r] := by
  unfold pushRecord
  exact if_pos (by simp; omega)

theorem pushRecord_full (r : LogRec) {l : List LogRec} (h : l.length = 131071) : pushRecord r l = (l ++ [r]).drop 1024 := by
  unfold pushRecord
  exact if_neg (by simp; omega)

theorem sendEvent_oldest {s : State} {q : Nat} {l : List Nat} (h : s.nd.toSend = q :: l) (acc : List Nat) :
    sendEvent acc s =
      { s with
        nd := { s.nd with toSend := l, subs := s.nd.subs.map fun u => if u.2 < 16 then (u.1, if u.1 ∈ acc then 0 else u.2 + 1) else u }
        out := s.out ++ (s.nd.subs.filter fun u => decide (u.2 < 16)).map fun u => .redfishEvent u.1 q } := by
  simp [sendEvent, h]

/-- The after part is programmed once: into the record that is due, and into no other. -/
theorem programAfter_flash (s : State) (seq : Nat) {r : LogRec} (hr : r ∈ s.nd.flash) :
    (r.seq = seq → r.due = true →
      { r with after := some (snapshot s (srcOf r.kind r.source)), due := false } ∈ (programAfter seq s).nd.flash) ∧
    (r.seq ≠ seq ∨ r.due = false → r ∈ (programAfter seq s).nd.flash) := by
  have hmem := List.mem_map_of_mem (f := fun r : LogRec =>
    if r.seq = seq ∧ r.due = true then { r with after := some (snapshot s (srcOf r.kind r.source)), due := false } else r) hr
  refine ⟨fun hq hd => ?_, fun h => ?_⟩
  · rwa [if_pos ⟨hq, hd⟩] at hmem
  · rwa [if_neg fun ⟨hq, hd⟩ => h.elim (· hq) fun hd' => by simp [hd] at hd'] at hmem

/-! ## The bytes of a record -/

@[simp] theorem LogRec.body_length (r : LogRec) : r.body.length = 42 := by simp [LogRec.body]

/-- A record is its body, 18 bytes of after part, and 4 bytes that begin with the body's CRC and end with the marks (15 R391). -/
theorem LogRec.bytes_eq (r : LogRec) : ∃ a : Bytes, ∃ x y : Byte,
    a.length = 18 ∧ r.bytes = r.body ++ (a ++ [crc8 r.body, x, 0x5A, y]) := by
  unfold LogRec.bytes
  cases r.after with
  | some a => exact ⟨fit 18 a, crc8 (fit 18 a), 0x5A, by simp, by simp⟩
  | none => exact ⟨List.replicate 18 0xFF, 0xFF, 0xFF, by simp, by simp⟩

theorem LogRec.bytes_spec (r : LogRec) :
    r.bytes.length = 64 ∧ r.bytes.take 42 = r.body ∧ r.bytes.getD 60 0 = crc8 r.body ∧ r.bytes.getD 62 0 = 0x5A := by
  obtain ⟨a, x, y, ha, hb⟩ := r.bytes_eq
  rw [hb]
  refine ⟨by simp [ha], List.take_left' r.body_length, by simp [ha], by simp [ha]⟩

end Sys2Proof.Machine

namespace Sys2Proof
open Machine

/-- Settles O57: requests and PLDM by what they answer, and the log by what one programming does to it. -/
theorem requestsAndLog : Obligations.RequestsAndLog := by
  unfold Obligations.RequestsAndLog
  refine ⟨fun s r id hs hr => ⟨fun hv => ⟨fun b hb => ⟨_, rfl, ?_⟩, fun hb => ⟨_, rfl, ?_⟩, ⟨_, rfl, ?_⟩, ⟨_, rfl, ?_⟩,
      ⟨_, rfl, ?_⟩, fun ms => ⟨_, rfl, ?_⟩⟩, ⟨_, rfl, ?_⟩, fun hv hroot => ⟨_, rfl, ?_⟩⟩,
    fun s req hs hr => ⟨_, rfl, redfishRequest_closed hs hr req⟩,
    fun s c req n r b hr => ⟨fun hf hi => ⟨_, ndNext_running hr _, ?_⟩, fun h hn hb => ⟨_, ndNext_running hr _, ?_⟩⟩,
    fun s acc q l hr hq => ⟨_, ndNext_running hr _, ?_⟩,
    fun s hr => ⟨fun r l hq hl => ⟨_, ndNext_running hr _, ?_⟩, fun r l hq hl => ⟨_, ndNext_running hr _, ?_⟩,
      fun t0 t1 n codes hq hc hl => ⟨_, ndNext_running hr _, ?_⟩, fun q => ⟨_, ndNext_running hr _, ?_⟩⟩,
    LogRec.bytes_spec⟩
  · rw [redfishRequest_served hs hr hv (fun _ _ h => by cases h), serve_get_some hb]
    exact ⟨rfl, rfl, rfl⟩
  · rw [redfishRequest_served hs hr hv (fun _ _ h => by cases h), serve_get_none hb]
    exact ⟨rfl, rfl, rfl⟩
  · rw [redfishRequest_served hs hr hv (fun _ _ h => by cases h)]
    exact ⟨rfl, rfl, rfl⟩
  · rw [redfishRequest_served hs hr hv (fun _ _ h => by cases h)]
    exact ⟨rfl, rfl, rfl⟩
  · rw [redfishRequest_served hs hr hv (fun _ _ h => by cases h)]
    exact ⟨rfl, rfl, rfl⟩
  · rw [redfishRequest_served hs hr hv (fun _ _ h => by cases h; rfl)]
    exact ⟨rfl, rfl, rfl⟩
  · rw [redfishRequest_root hs hr]
    exact ⟨rfl, rfl, rfl⟩
  · rw [redfishRequest_get hroot]
    exact onRedfish_early hs hr hv ..
  · rw [pldm_notReady hf hi]
    exact ⟨rfl, rfl, rfl⟩
  · rw [pldm_sensor h hn hb]
    exact ⟨rfl, rfl, rfl⟩
  · rw [sendEvent_oldest hq]
    exact ⟨rfl, rfl, rfl, rfl, rfl⟩
  · rw [programRecord_head hq, pushRecord_room r hl]
  · rw [programRecord_head hq, pushRecord_full r hl]
    exact ⟨rfl, rfl⟩
  · rw [programRecord_coalesced hq hc, pushRecord_room _ hl]
    exact ⟨rfl, rfl, rfl, _, rfl, rfl, rfl, rfl, rfl, rfl, rfl⟩
  · exact ⟨rfl, rfl, rfl, List.length_map .., fun r hmem => programAfter_flash s q.toNat hmem⟩

end Sys2Proof
end

section
/-! What each SFU step writes on its lane, and what it gives (07 R177). -/
namespace Sys2Proof.Machine

/-! ## Registers, latch, result and flags after a lane's own operations -/

theorem Lane.tget_setReg_same {l : Lane} {k : Nat} {v : Word32} (hk : k < 15) : tget 0 (l.setReg k v).regs k = v := by
  unfold Lane.setReg
  rw [if_neg (by omega)]
  exact tget_tset_same ..

theorem Lane.tget_setReg_other {l : Lane} {k r : Nat} {v : Word32} (h : r ≠ k) :
    tget 0 (l.setReg k v).regs r = tget 0 l.regs r := by
  unfold Lane.setReg
  split
  · rfl
  · exact tget_tset_other _ _ _ _ _ h

@[simp] theorem Lane.setReg_latch (l : Lane) (k : Nat) (v : Word32) : (l.setReg k v).latch = l.latch := by
  unfold Lane.setReg; split <;> rfl

@[simp] theorem Lane.setReg_result (l : Lane) (k : Nat) (v : Word32) : (l.setReg k v).result = l.result := by
  unfold Lane.setReg; split <;> rfl

@[simp] theorem Lane.give_regs (l : Lane) (k : Nat) (r : FR) : (l.give k r).regs = (l.setReg k r.v).regs := rfl

@[simp] theorem Lane.give_flags (l : Lane) (k : Nat) (r : FR) : (l.give k r).flags = l.flags.or r.flags := rfl

@[simp] theorem Lane.give_latch (l : Lane) (k : Nat) (r : FR) : (l.give k r).latch = l.latch := l.setReg_latch k r.v

@[simp] theorem Lane.give_result (l : Lane) (k : Nat) (r : FR) : (l.give k r).result = l.result := l.setReg_result k r.v

@[simp] theorem Lane.raise_regs (l : Lane) (strict : Bool) (f : FFlags) : (l.raise strict f).regs = l.regs := by
  unfold Lane.raise; split <;> rfl

@[simp] theorem Lane.raise_latch (l : Lane) (strict : Bool) (f : FFlags) : (l.raise strict f).latch = l.latch := by
  unfold Lane.raise; split <;> rfl

@[simp] theorem Lane.raise_result (l : Lane) (strict : Bool) (f : FFlags) : (l.raise strict f).result = l.result := by
  unfold Lane.raise; split <;> rfl

@[simp] theorem Lane.raise_strict_flags (l : Lane) (f : FFlags) : (l.raise true f).flags = l.flags.or f := rfl

/-- A register that a step may write holds the result that is given to it. -/
theorem Lane.give_dst {l : Lane} {k : Nat} (hk : k < 15) (r : FR) : tget 0 (l.give k r).regs k = r.v := tget_setReg_same hk

@[simp] theorem Lane.reg_raise (l : Lane) (strict : Bool) (f : FFlags) (w k : Nat) : (l.raise strict f).reg w k = l.reg w k := by
  rw [Lane.reg, Lane.raise_regs, Lane.reg]

/-- A NaN operand puts the canonical NaN in each of the step's destinations. -/
theorem Lane.tget_passNan (l : Lane) (strict : Bool) (dsts : List Nat) (x : Word32) {k : Nat} (hk : k < 15) (hm : k ∈ dsts) :
    tget 0 (l.passNan strict dsts x).regs k = nan32 := by
  have written : ∀ (ds : List Nat) (l : Lane), (k ∈ ds ∨ tget 0 l.regs k = nan32) →
      tget 0 (ds.foldl (fun l d => l.setReg d nan32) l).regs k = nan32 := by
    intro ds
    induction ds with
    | nil => exact fun _ h => h.resolve_left List.not_mem_nil
    | cons d ds ih =>
      intro l h
      refine ih _ ?_
      by_cases hd : k = d
      · subst hd; exact .inr (tget_setReg_same hk)
      · rw [tget_setReg_other hd]
        exact h.imp_left fun hm => (List.mem_cons.mp hm).resolve_left hd
  rw [Lane.passNan, Lane.raise_regs]
  exact written dsts l (.inl hm)

/-! ## What a step leaves of its lane -/

/-- `l'` differs from `l` in no register outside `dsts`, and neither in its latch nor in its result. -/
structure Lane.Keeps (dsts : List Nat) (l l' : Lane) : Prop where
  regs : ∀ r, r ∉ dsts → tget 0 l'.regs r = tget 0 l.regs r
  latch : l'.latch = l.latch
  result : l'.result = l.result

namespace Lane.Keeps
variable {dsts : List Nat} {l l' : Lane}

theorem refl (dsts : List Nat) (l : Lane) : l.Keeps dsts l := ⟨fun _ _ => rfl, rfl, rfl⟩

theorem setReg (h : l.Keeps dsts l') {k : Nat} (hk : k ∈ dsts) (v : Word32) : l.Keeps dsts (l'.setReg k v) where
  regs r hr :=
    have hrk : r ≠ k := fun e => hr (e ▸ hk)
    (tget_setReg_other hrk).trans (h.regs r hr)
  latch := (l'.setReg_latch k v).trans h.latch
  result := (l'.setReg_result k v).trans h.result

theorem give (h : l.Keeps dsts l') {k : Nat} (hk : k ∈ dsts) (r : FR) : l.Keeps dsts (l'.give k r) where
  regs := (h.setReg hk r.v).regs
  latch := (h.setReg hk r.v).latch
  result := (h.setReg hk r.v).result

theorem raise (h : l.Keeps dsts l') (strict : Bool) (f : FFlags) : l.Keeps dsts (l'.raise strict f) where
  regs r hr := by rw [Lane.raise_regs]; exact h.regs r hr
  latch := (l'.raise_latch strict f).trans h.latch
  result := (l'.raise_result strict f).trans h.result

theorem passNan (h : l.Keeps dsts l') (strict : Bool) (x : Word32) : l.Keeps dsts (l'.passNan strict dsts x) := by
  have written : ∀ ds : List Nat, (∀ d ∈ ds, d ∈ dsts) → ∀ l', l.Keeps dsts l' →
      l.Keeps dsts (ds.foldl (fun l d => l.setReg d nan32) l') := by
    intro ds
    induction ds with
    | nil => exact fun _ _ h => h
    | cons d ds ih =>
      exact fun hs l' h => ih (fun e he => hs e (by simp [he])) _ (h.setReg (hs d (by simp)) _)
  exact (written dsts (fun _ h => h) l' h).raise ..

end Lane.Keeps

section
variable (strict : Bool) (w : Nat) (l : Lane)

theorem rrExpStep_keeps : l.Keeps [wDst w, wDst w + 1] (rrExpStep strict w l) := by
  have h := Lane.Keeps.refl [wDst w, wDst w + 1] l
  dsimp only [rrExpStep]
  split
  · exact h.passNan ..
  · exact (h.setReg (by simp) _).setReg (by simp) _
  · exact ((h.give (by simp) _).give (by simp) _).raise ..

theorem rrLogStep_keeps : l.Keeps [wDst w, wDst w + 1] (rrLogStep strict w l) := by
  have h := Lane.Keeps.refl [wDst w, wDst w + 1] l
  have both : ∀ u v, l.Keeps [wDst w, wDst w + 1] ((l.setReg (wDst w) u).setReg (wDst w + 1) v) :=
    fun u v => (h.setReg (by simp) u).setReg (by simp) v
  dsimp only [rrLogStep]
  split
  · exact h.passNan ..
  · exact (both ..).raise ..
  · exact both ..
  · split
    · exact (both ..).raise ..
    · split
      · exact (both ..).raise ..
      · split
        · exact (h.give (by simp) _).give (by simp) _
        · exact h

theorem rrTrigStep_keeps : l.Keeps [wDst w, wDst w + 1] (rrTrigStep strict w l) := by
  have h := Lane.Keeps.refl [wDst w, wDst w + 1] l
  dsimp only [rrTrigStep]
  split
  · exact h.passNan ..
  · exact (h.setReg (by simp) _).setReg (by simp) _
  · split
    · exact (h.give (by simp) _).setReg (by simp) _
    · exact (h.give (by simp) _).give (by simp) _

/-- LOOKUP writes DST and the latch. -/
theorem lookupStep_keeps : l.Keeps [wDst w] { lookupStep strict w l with latch := l.latch } := by
  have h := Lane.Keeps.refl [wDst w] l
  dsimp only [lookupStep]
  split
  · exact ⟨(h.passNan ..).regs, rfl, (h.passNan ..).result⟩
  · exact ⟨(h.give (by simp) _).regs, rfl, (h.give (by simp) _).result⟩

theorem qinterpStep_keeps : l.Keeps [wDst w] (qinterpStep strict w l) := by
  have h := Lane.Keeps.refl [wDst w] l
  dsimp only [qinterpStep]
  split
  · exact h.passNan ..
  · exact (h.give (by simp) _).give (by simp) _

theorem scale2Step_keeps : l.Keeps [wDst w] (scale2Step strict w l) := by
  have h := Lane.Keeps.refl [wDst w] l
  dsimp only [scale2Step]
  split
  · exact h.give (by simp) _
  · exact h.give (by simp) _
  · exact h.setReg (by simp) _

theorem cmpSelStep_keeps : l.Keeps [wDst w] (cmpSelStep strict w l) := by
  have h := Lane.Keeps.refl [wDst w] l
  dsimp only [cmpSelStep]
  split
  · exact (h.raise ..).setReg (by simp) _
  · exact h.raise ..

/-- The steps that form one rounded result write it to DST and nothing else. -/
theorem give_dst_keeps (r : FR) : l.Keeps [wDst w] (l.give (wDst w) r) := (Lane.Keeps.refl _ l).give (by simp) r

end

/-! ## What a step gives -/

theorem isNan_iff {v : Word32} : isNan v = true ↔ ∃ s, dec32 v = .nan s := by
  unfold isNan
  cases dec32 v <;> simp

/-- A finite number and its negation sum to a zero. -/
theorem finAdd_cancel (n : Bool) (m : Nat) (e : Int) : ∃ g f, finAdd n m e (!n) m e = .fin g 0 f := by
  have hzero : ∀ k : Int, (if n then -k else k) + (if !n then -k else k) = 0 := by
    intro k
    cases n
    · exact Int.add_right_neg k
    · exact Int.add_left_neg k
  exact ⟨_, _, if_pos (hzero _)⟩

theorem expDiff32_self (strict : Bool) {a b : Word32} {n : Bool} {m : Nat} {e : Int} (ha : dec32 a = .fin n m e)
    (hb : dec32 b = .fin n m e) : expDiff32 strict a b = .plain one32 := by
  obtain ⟨g, f, hsum⟩ := finAdd_cancel n m e
  simp [expDiff32, ha, hb, hsum]

theorem expDiff32_negInf (strict : Bool) {a b : Word32} {n : Bool} {m : Nat} {e : Int} (ha : dec32 a = .inf true)
    (hb : dec32 b = .fin n m e) : expDiff32 strict a b = .plain 0 := by
  simp [expDiff32, ha, hb]

section
variable (strict : Bool) {x : Word32}

theorem rcpSeed32_zero {n : Bool} {e : Int} (h : dec32 x = .fin n 0 e) :
    rcpSeed32 strict x = ⟨inf32 n, if strict then flagZ else .clear, false⟩ := by simp [rcpSeed32, h]

theorem rsqSeed32_zero {n : Bool} {e : Int} (h : dec32 x = .fin n 0 e) :
    rsqSeed32 strict x = ⟨inf32 n, if strict then flagZ else .clear, false⟩ := by simp [rsqSeed32, h]

theorem rsqSeed32_negative {m : Nat} {e : Int} (h : dec32 x = .fin true m e) (hm : m ≠ 0) :
    rsqSeed32 strict x = ⟨nan32, if strict then flagI else .clear, false⟩ := by simp [rsqSeed32, h, hm]

theorem rcpSeed32_nan (h : isNan x = true) : (rcpSeed32 strict x).v = nan32 := by
  obtain ⟨s, hs⟩ := isNan_iff.mp h
  simp [rcpSeed32, hs]

theorem rsqSeed32_nan (h : isNan x = true) : (rsqSeed32 strict x).v = nan32 := by
  obtain ⟨s, hs⟩ := isNan_iff.mp h
  simp [rsqSeed32, hs]

end

section
variable (strict : Bool) {w : Nat} (l : Lane)

/-! ### RR_EXP -/

theorem rrExpStep_nan (h : isNan (l.reg w (wSA w)) = true) :
    rrExpStep strict w l = l.passNan strict [wDst w, wDst w + 1] (l.reg w (wSA w)) := by
  obtain ⟨s, hs⟩ := isNan_iff.mp h
  simp [rrExpStep, hs]

/-- With IMM[0] set RR_EXP splits SA itself, without a factor log2(e). -/
theorem rrExpStep_unscaled {n : Bool} {m : Nat} {e : Int} (h : dec32 (l.reg w (wSA w)) = .fin n m e)
    (hb : bit (wImm w) 0 = true) :
    rrExpStep strict w l =
      ((l.give (wDst w) (splitInt strict n m e).1).give (wDst w + 1) (splitInt strict n m e).2).raise strict .clear := by
  simp [rrExpStep, h, hb]

theorem splitInt_integer (n : Bool) (m : Nat) (e : Int) :
    (splitInt strict n m e).2.v = if nearestInt m e = 0 then zero32 n else (round32 strict n (nearestInt m e) 0 false).v :=
  apply_ite FR.v _ _ _

/-! ### RR_LOG -/

theorem rrLogStep_nan (h : isNan (l.reg w (wSA w)) = true) :
    rrLogStep strict w l = l.passNan strict [wDst w, wDst w + 1] (l.reg w (wSA w)) := by
  obtain ⟨s, hs⟩ := isNan_iff.mp h
  simp [rrLogStep, hs]

theorem rrLogStep_zero {n : Bool} {e : Int} (h : dec32 (l.reg w (wSA w)) = .fin n 0 e) :
    rrLogStep strict w l =
      ((l.setReg (wDst w) (reduced 2 (l.reg w (wSA w))).1).setReg (wDst w + 1) (inf32 true)).raise strict flagZ := by
  simp [rrLogStep, h]

theorem rrLogStep_negative {m : Nat} {e : Int} (h : dec32 (l.reg w (wSA w)) = .fin true m e) (hm : m ≠ 0) :
    rrLogStep strict w l = ((l.setReg (wDst w) nan32).setReg (wDst w + 1) nan32).raise strict flagI := by
  simp [rrLogStep, h, hm]

theorem finAdd_isFin (n1 : Bool) (m1 : Nat) (e1 : Int) (n2 : Bool) (m2 : Nat) (e2 : Int) :
    ∃ n m e, finAdd n1 m1 e1 n2 m2 e2 = .fin n m e := by
  unfold finAdd
  exact if h : _ then ⟨_, _, _, if_pos h⟩ else ⟨_, _, _, if_neg h⟩

theorem rrLogStep_positive {m : Nat} {e : Int} (h : dec32 (l.reg w (wSA w)) = .fin false m e) (hm : m ≠ 0) :
    ∃ r, rrLogStep strict w l = (l.give (wDst w) r).give (wDst w + 1)
      (.plain (ofInt32 (e + m.log2 + b2n (decide (3 * 2 ^ m.log2 ≤ 2 * m))))) := by
  obtain ⟨g, a, b, hf⟩ := finAdd_isFin false m (-(m.log2 : Int) - b2n (decide (3 * 2 ^ m.log2 ≤ 2 * m))) true 1 0
  have hk : ∀ p q : Int, e - (-p - q) = e + p + q := by omega
  exact ⟨fin32 strict g a b, by simp [rrLogStep, h, hm, hf, hk]⟩

/-! ### RR_TRIG -/

theorem rrTrigStep_nan (h : isNan (l.reg w (wSA w)) = true) :
    rrTrigStep strict w l = l.passNan strict [wDst w, wDst w + 1] (l.reg w (wSA w)) := by
  obtain ⟨s, hs⟩ := isNan_iff.mp h
  simp [rrTrigStep, hs]

/-- Below an eighth of a turn the nearest multiple of a quarter turn is zero. -/
theorem rrTrigStep_small {n : Bool} {m : Nat} {e : Int} (h : dec32 (l.reg w (wSA w)) = .fin n m e)
    (hs : 2 * (m * 2 ^ (e + 149).toNat * twoOverPi256) + 2 ^ 405 < 2 * 2 ^ 405) :
    rrTrigStep strict w l =
      (l.give (wDst w) (if m = 0 then .plain (l.reg w (wSA w)) else round32 strict n m e false)).setReg (wDst w + 1) 0 := by
  have hq : (2 * (m * 2 ^ (e + 149).toNat * twoOverPi256) + 2 ^ 405) / (2 * 2 ^ 405) = 0 := Nat.div_eq_of_lt hs
  dsimp only [rrTrigStep]
  rw [h]
  exact if_pos hq

/-! ### LOOKUP and QINTERP -/

theorem lookupStep_nan (h : isNan (l.reg w (wSA w)) = true) :
    (lookupStep strict w l).regs = (l.passNan strict [wDst w] (l.reg w (wSA w))).regs := by
  obtain ⟨s, hs⟩ := isNan_iff.mp h
  simp [lookupStep, hs]

theorem lookupStep_number (h : isNan (l.reg w (wSA w)) = false) :
    lookupStep strict w l =
      (let t := clamp01 (dec32 (l.reg w (wSA w))) * 2 ^ bits (wImm w) 12 4
       let i := bits (wImm w) 0 12 + t / 2 ^ 149
       { l.give (wDst w) (if t % 2 ^ 149 = 0 then .plain 0 else fin32 strict false (t % 2 ^ 149) (-149)) with
          latch := some (Config.romCoeff i 0, Config.romCoeff i 1, Config.romCoeff i 2) }) := by
  unfold lookupStep
  dsimp only
  split
  · next s hs => simp [isNan, hs] at h
  · rfl

theorem qinterpStep_nan (h : isNan (l.reg w (wSA w)) = true) :
    qinterpStep strict w l = l.passNan strict [wDst w] (l.reg w (wSA w)) := by
  simp [qinterpStep, h]

theorem qinterpStep_number {c0 c1 c2 : Word32} (h : isNan (l.reg w (wSA w)) = false) (hl : l.latch = some (c0, c1, c2)) :
    qinterpStep strict w l =
      (let t := fma32 strict c2 (l.reg w (wSA w)) c1
       (l.give (wDst w) t).give (wDst w) (fma32 strict t.v (l.reg w (wSA w)) c0)) := by
  simp [qinterpStep, h, hl]

/-! ### The other steps -/

/-- Below v15 the operand DST is the register itself. -/
theorem Lane.reg_dst (hd : wDst w < 15) : l.reg w (wDst w) = tget 0 l.regs (wDst w) := if_neg (by omega)

theorem scale2Step_number {n : Bool} {m : Nat} {e k : Int} (h : dec32 (l.reg w (wSA w)) = .fin n m e) (hm : m ≠ 0)
    (hk : intOf32 (l.reg w (wSB w)) = some k) (hlo : -600 ≤ k) (hhi : k ≤ 600) :
    scale2Step strict w l = l.give (wDst w) (round32 strict n m (e + k) false) := by
  have hclamp : max (-600) (min 600 k) = k := by omega
  simp [scale2Step, h, hk, hm, hclamp, fin32]

theorem cmpSelStep_dst (hd : wDst w < 15) :
    tget 0 (cmpSelStep strict w l).regs (wDst w) =
      if cmpCond (wCond w) (l.reg w (wSA w)) (l.reg w (wSB w)) = true then l.reg w (wSC w) else tget 0 l.regs (wDst w) := by
  dsimp only [cmpSelStep]
  by_cases h : cmpCond (wCond w) (l.reg w (wSA w)) (l.reg w (wSB w)) = true
  · rw [if_pos h, if_pos h, Lane.tget_setReg_same hd, Lane.reg_raise]
  · rw [if_neg h, if_neg h, Lane.raise_regs]

end

/-! ## The steps as commands -/

/-- A chip of which lane `n` of die `d` is `l'`, with nothing else changed. -/
def withLane (h : Chip) (d : Fin 4) (n : Fin 64) (l' : Lane) : Chip :=
  let v := tget .initial h.eng.dies d
  { h with eng := { h.eng with dies := tset .initial h.eng.dies d { v with lanes := tset .empty v.lanes n l' } } }

@[simp] theorem lane_withLane (h : Chip) (d : Fin 4) (n : Fin 64) (l' : Lane) :
    tget .empty (tget .initial (withLane h d n l').eng.dies d).lanes n = l' := by
  simp [withLane]

theorem Ctx.onLane_running {x : Ctx} {d : Fin 4} {n : Fin 64} {code u : Nat} {f : Nat → Lane → Lane} (ha : x.awake = true)
    (hl : x.chip.obs.lull ≠ .frozen) (hr : (tget .empty (tget .initial x.chip.eng.dies d).lanes n).result = none)
    (hw : wStep u = code) :
    x.onLane d n code u f =
      { x with chip := withLane x.chip d n (f u (tget .empty (tget .initial x.chip.eng.dies d).lanes n)) } := by
  have hfrozen : x.frozen = false := by simpa [Ctx.frozen] using hl
  simp [Ctx.onLane, Ctx.die, hfrozen, ha, hr, hw, Ctx.setDie, Ctx.onEng, withLane]

end Sys2Proof.Machine

namespace Sys2Proof
open Machine

section
variable {s : State} {c : Fin 8} {d : Fin 4} {n : Fin 64} {i : Instr} {code u : Nat} {f : Nat → Lane → Lane}

/-- The command of an SFU step runs the step on its lane. -/
theorem runs_of_onLane {P : Chip → List Out → Prop} (h : exec i s = chipNext c (·.onLane d n code u f) s)
    (ha : (ctxOf s c).awake = true) (hl : (chipAt s c).obs.lull ≠ .frozen)
    (hr : (tget .empty (tget .initial (chipAt s c).eng.dies d).lanes n).result = none) (hw : wStep u = code)
    (hp : P (withLane (chipAt s c) d n (f u (tget .empty (tget .initial (chipAt s c).eng.dies d).lanes n))) []) :
    Runs c i s P :=
  runs_of_chip h (by rw [Ctx.onLane_running ha hl hr hw]; exact hp)

/-- What a claim about the lane after an SFU step asks of the step. -/
theorem gives_of_onLane {P : Lane → Prop} (h : exec i s = chipNext c (·.onLane d n code u f) s)
    (ha : (ctxOf s c).awake = true) (hl : (chipAt s c).obs.lull ≠ .frozen)
    (hr : (tget .empty (tget .initial (chipAt s c).eng.dies d).lanes n).result = none) (hw : wStep u = code)
    (hp : P (f u (tget .empty (tget .initial (chipAt s c).eng.dies d).lanes n))) :
    Runs c i s fun k o => o = [] ∧ P (tget .empty (tget .initial k.eng.dies d).lanes n) :=
  runs_of_onLane h ha hl hr hw ⟨rfl, by rwa [lane_withLane]⟩

end

/-- What step `code` of word `u` may change of its lane `l` (07 R177). -/
def StepFrame (strict : Bool) (u code : Nat) (l l' : Lane) : Prop :=
  (∀ r, r ≠ wDst u → (1 ≤ code ∧ code ≤ 3 → r ≠ wDst u + 1) → tget 0 l'.regs r = tget 0 l.regs r) ∧
  (code = 0 → l'.regs = l.regs) ∧ (code ≠ 0 → l'.result = none) ∧
  (code = 0 → l'.result = some (outFn strict (l.reg u (wSA u))).v) ∧ (code ≠ 4 → l'.latch = l.latch)

section
variable {strict : Bool} {u code : Nat} {l l' : Lane}

/-- END leaves the registers and the latch, and gives the result. -/
theorem endStep_frame : StepFrame strict u 0 l (endStep' strict u l) :=
  ⟨fun _ _ _ => rfl, fun _ => rfl, fun h => absurd rfl h, fun _ => rfl, fun _ => rfl⟩

/-- A range reduction writes DST and DST + 1. -/
theorem stepFrame_of_keeps_two (hr : l.result = none) (hc : 1 ≤ code ∧ code ≤ 3) (h : l.Keeps [wDst u, wDst u + 1] l') :
    StepFrame strict u code l l' :=
  ⟨fun r h0 h1 => h.regs r (by simp [h0, h1 hc]), fun e => by omega, fun _ => h.result.trans hr, fun e => by omega,
    fun _ => h.latch⟩

/-- A step other than END and the reductions writes DST, and only LOOKUP the latch. -/
theorem stepFrame_of_keeps_one (hr : l.result = none) (hc : code ≠ 0) (h : l.Keeps [wDst u] { l' with latch := l.latch })
    (hlatch : code ≠ 4 → l'.latch = l.latch) : StepFrame strict u code l l' :=
  ⟨fun r h0 _ => h.regs r (by simp [h0]), fun e => absurd e hc, fun _ => h.result.trans hr, fun e => absurd e hc, hlatch⟩

theorem stepFrame_of_keeps (hr : l.result = none) (hc : code ≠ 0) (h : l.Keeps [wDst u] l') : StepFrame strict u code l l' :=
  stepFrame_of_keeps_one hr hc ⟨h.regs, rfl, h.result⟩ fun _ => h.latch

end

/-- The fourteen SFU steps as commands, with their codes. -/
def sfuSteps (c : Fin 8) (d : Fin 4) (n : Fin 64) (strict : Bool) (w : Word64) : List (Instr × Nat) :=
  [(.sfuEnd c d n strict w, 0x00), (.rrExp c d n strict w, 0x01), (.rrLog c d n strict w, 0x02), (.rrTrig c d n strict w, 0x03),
    (.lookup c d n strict w, 0x04), (.qinterp c d n strict w, 0x05), (.fma c d n strict w, 0x06), (.rcpSeed c d n strict w, 0x07),
    (.rsqSeed c d n strict w, 0x08), (.nrRcp c d n strict w, 0x09), (.nrRsq c d n strict w, 0x0A), (.scale2 c d n strict w, 0x0B),
    (.cmpSel c d n strict w, 0x0C), (.expdiff c d n strict w, 0x0D)]

/-- Each of the fourteen commands runs a step on its lane, and the step keeps to its frame. -/
theorem sfuSteps_frame (s : State) (c : Fin 8) (d : Fin 4) (n : Fin 64) (strict : Bool) (w : Word64) {l : Lane}
    (hr : l.result = none) : ∀ t ∈ sfuSteps c d n strict w, ∃ f : Nat → Lane → Lane,
      exec t.1 s = chipNext c (·.onLane d n t.2 w.toNat f) s ∧ StepFrame strict w.toNat t.2 l (f w.toNat l) := by
  simp only [sfuSteps, List.forall_mem_cons]
  exact ⟨⟨_, rfl, endStep_frame⟩,
    ⟨_, rfl, stepFrame_of_keeps_two hr (by decide) (rrExpStep_keeps ..)⟩,
    ⟨_, rfl, stepFrame_of_keeps_two hr (by decide) (rrLogStep_keeps ..)⟩,
    ⟨_, rfl, stepFrame_of_keeps_two hr (by decide) (rrTrigStep_keeps ..)⟩,
    ⟨_, rfl, stepFrame_of_keeps_one hr (by decide) (lookupStep_keeps ..) fun h => absurd rfl h⟩,
    ⟨_, rfl, stepFrame_of_keeps hr (by decide) (qinterpStep_keeps ..)⟩,
    ⟨_, rfl, stepFrame_of_keeps hr (by decide) (give_dst_keeps ..)⟩,
    ⟨_, rfl, stepFrame_of_keeps hr (by decide) (give_dst_keeps ..)⟩,
    ⟨_, rfl, stepFrame_of_keeps hr (by decide) (give_dst_keeps ..)⟩,
    ⟨_, rfl, stepFrame_of_keeps hr (by decide) (give_dst_keeps ..)⟩,
    ⟨_, rfl, stepFrame_of_keeps hr (by decide) (give_dst_keeps ..)⟩,
    ⟨_, rfl, stepFrame_of_keeps hr (by decide) (scale2Step_keeps ..)⟩,
    ⟨_, rfl, stepFrame_of_keeps hr (by decide) (cmpSelStep_keeps ..)⟩,
    ⟨_, rfl, stepFrame_of_keeps hr (by decide) (give_dst_keeps ..)⟩, nofun⟩

/-- Settles O40, by what each step keeps of its lane. -/
theorem sfuStepFrames : Obligations.SfuStepFrames := by
  unfold Obligations.SfuStepFrames
  intro s c d n strict w e v l u ha hl hr t ht hw
  obtain ⟨f, hexec, hframe⟩ := sfuSteps_frame s c d n strict w hr t ht
  exact runs_of_onLane hexec ha hl hr hw ⟨rfl, _, rfl, hframe⟩

/-- Settles O41, by the equation of each step for the operands that each clause names. The tie to even and the sign of n = 0 of
RR_EXP are the model's choice (notes/assumptions/99.md), and so is the clamp of LOOKUP (notes/assumptions/53.md). -/
theorem sfuStepResults : Obligations.SfuStepResults := by
  unfold Obligations.SfuStepResults
  intro s c d n strict w l u a b y gives dst dst1 ha hl hr hd
  have hd' : wDst u < 15 := by omega
  have hd1 : wDst u + 1 < 15 := by omega
  have hne : wDst u ≠ wDst u + 1 := by omega
  have run : ∀ {i : Instr} {code : Nat} {f : Nat → Lane → Lane} {P : Lane → Prop},
      exec i s = chipNext c (·.onLane d n code u f) s → wStep u = code → P (f u l) → gives i P :=
    fun h hw hp => gives_of_onLane h ha hl hr hw hp
  -- `run` says all that is needed of `gives`; opaque, it unifies by its arguments.
  clear_value gives
  refine ⟨fun hw => run rfl hw ?fma, fun hw => run rfl hw ?nrRcp, fun hw => run rfl hw ?nrRsq, fun hw => run rfl hw ?cmpSel,
    fun ng m e k hw hx hm hk hlo hhi => run rfl hw ?scale2,
    fun hw => ⟨fun ng m e hx hy => run rfl hw ?same, fun ng m e hx hy => run rfl hw ?negInf⟩,
    fun ng e hx => ⟨fun hw => run rfl hw ?rcpZero, fun hw => run rfl hw ?rsqZero, fun hw => run rfl hw ?logZero⟩,
    fun m e hx hm => ⟨fun hw => run rfl hw ?rsqNegative, fun hw => run rfl hw ?logNegative⟩,
    fun m e hw hx hm => run rfl hw ?logPositive, fun ng m e hw hx hb => run rfl hw ?exp,
    fun ng m e hw hx hs => run rfl hw ?trig, fun hw hx => run rfl hw ?lookup, fun c0 c1 c2 hw hx hc => run rfl hw ?qinterp, ?nan⟩
  case fma => exact ⟨Lane.give_dst hd' _, rfl⟩
  case nrRcp => exact ⟨_, (Lane.give_dst hd' _).trans (by rw [l.reg_dst hd']; rfl)⟩
  case nrRsq => exact ⟨_, (Lane.give_dst hd' _).trans (by rw [l.reg_dst hd']; rfl)⟩
  case cmpSel => exact cmpSelStep_dst strict l hd'
  case scale2 =>
    rw [scale2Step_number strict l hx hm hk hlo hhi]
    exact Lane.give_dst hd' _
  case same => exact (Lane.give_dst hd' _).trans (by rw [expDiff32_self strict hx hy]; rfl)
  case negInf => exact (Lane.give_dst hd' _).trans (by rw [expDiff32_negInf strict hx hy]; rfl)
  case rcpZero =>
    rw [rcpSeedStep, rcpSeed32_zero strict hx]
    exact ⟨Lane.give_dst hd' _, by rintro rfl; simp [FFlags.or, flagZ]⟩
  case rsqZero =>
    rw [rsqSeedStep, rsqSeed32_zero strict hx]
    exact ⟨Lane.give_dst hd' _, by rintro rfl; simp [FFlags.or, flagZ]⟩
  case logZero =>
    rw [rrLogStep_zero strict l hx]
    exact ⟨by simp only [dst1, Lane.raise_regs, Lane.tget_setReg_same hd1], by rintro rfl; simp [FFlags.or, flagZ]⟩
  case rsqNegative =>
    rw [rsqSeedStep, rsqSeed32_negative strict hx hm]
    exact ⟨Lane.give_dst hd' _, by rintro rfl; simp [FFlags.or, flagI]⟩
  case logNegative =>
    rw [rrLogStep_negative strict l hx hm]
    exact ⟨by simp only [dst, Lane.raise_regs, Lane.tget_setReg_other hne, Lane.tget_setReg_same hd'],
      by simp only [dst1, Lane.raise_regs, Lane.tget_setReg_same hd1], by rintro rfl; simp [FFlags.or, flagI]⟩
  case logPositive =>
    obtain ⟨r, hstep⟩ := rrLogStep_positive strict l hx hm
    rw [hstep]
    exact Lane.give_dst hd1 _
  case exp =>
    rw [rrExpStep_unscaled strict l hx hb]
    simp only [dst1, Lane.raise_regs, Lane.give_dst hd1, splitInt_integer]
  case trig =>
    rw [rrTrigStep_small strict l hx hs]
    exact ⟨(Lane.tget_setReg_other hne).trans ((Lane.give_dst hd' _).trans (apply_ite FR.v _ _ _)), Lane.tget_setReg_same hd1⟩
  case lookup =>
    rw [lookupStep_number strict l hx]
    refine ⟨rfl, (Lane.give_dst hd' _).trans ?_⟩
    split <;> rfl
  case qinterp =>
    rw [qinterpStep_number strict l hx hc]
    exact Lane.give_dst hd' _
  case nan =>
    intro hx
    simp only [List.forall_mem_cons]
    refine ⟨fun hw => run rfl hw ?_, fun hw => run rfl hw ?_, fun hw => run rfl hw ?_, fun hw => run rfl hw ?_,
      fun hw => run rfl hw ?_, fun hw => run rfl hw ?_, fun hw => run rfl hw ?_, nofun⟩
    · rw [rrExpStep_nan strict l hx]
      exact l.tget_passNan _ _ _ hd' (by simp)
    · rw [rrLogStep_nan strict l hx]
      exact l.tget_passNan _ _ _ hd' (by simp)
    · rw [rrTrigStep_nan strict l hx]
      exact l.tget_passNan _ _ _ hd' (by simp)
    · show tget 0 (lookupStep strict u l).regs (wDst u) = nan32
      rw [lookupStep_nan strict l hx]
      exact l.tget_passNan _ _ _ hd' (by simp)
    · rw [qinterpStep_nan strict l hx]
      exact l.tget_passNan _ _ _ hd' (by simp)
    · exact (Lane.give_dst hd' _).trans (rcpSeed32_nan strict hx)
    · exact (Lane.give_dst hd' _).trans (rsqSeed32_nan strict hx)

end Sys2Proof
end
